-- ==== Sys2Proof/Word.lean ====
section
/-! DEFINITION. The word types of the W9 (spec/00_scope.md R7) and their plainest arithmetic. -/

namespace Sys2Proof

/-- A byte, 8 bits (R7). -/
abbrev Byte := BitVec 8
/-- A double, 64 bits (R7). -/
abbrev Word := BitVec 64
/-- A word of 32 bits (R7): the slot words. -/
abbrev Word32 := BitVec 32
/-- A link word, 512 bits (R7). -/
abbrev LinkWord := BitVec 512
/-- A Brezil flit, 2,048 bits (R393). -/
abbrev Flit := BitVec 2048

/-- Bits hi down to lo of a natural number, as an unsigned integer (R10's x[hi:lo]). -/
def bits (x hi lo : Nat) : Nat := (x >>> lo) % 2 ^ (hi + 1 - lo)

/-- Bit j of a natural number. -/
def bit (x j : Nat) : Bool := x.testBit j

/-- sext(x, n) of R10. -/
def sextN (x n : Nat) : Int := if 2 * (x % 2 ^ n) < 2 ^ n then (x % 2 ^ n : Nat) else (x % 2 ^ n : Nat) - (2 ^ n : Nat)

/-- wrap(v, n) of R10, as a natural number. -/
def wrapN (v : Int) (n : Nat) : Nat := (v % (2 ^ n : Nat)).toNat

/-- sat(v, lo, hi) of R10. -/
def satI (v lo hi : Int) : Int := if v < lo then lo else if hi < v then hi else v

end Sys2Proof
end

