-- ==== Sys2Proof/Machine/Flags.lean ====
section
/-! DEFINITION. The flags of FFLAGS (spec/04_numbers.md R89), each as the six-bit word that has it alone, and how a completing
fire and a WRSR put them into the register (R90). -/

namespace Sys2Proof.Machine

/-- The six flags of R89: RNGSAT, NV, DZ, OF, UF, NX in bits 5 to 0. -/
abbrev Flags := BitVec 6

def fNX : Flags := 1
def fUF : Flags := 2
def fOF : Flags := 4
def fDZ : Flags := 8
def fNV : Flags := 16
def fRNGSAT : Flags := 32

/-- The flag if its condition holds. -/
def flagIf (c : Bool) (f : Flags) : Flags := if c then f else 0

/-- FFLAGS with the flags of a completing fire ORed in (R90). -/
def orFlags (reg : Word) (f : Flags) : Word := reg ||| f.setWidth 64

/-- What WRSR leaves in FFLAGS: bits 5:0 of its value (R89). -/
def writeFlags (v : Word) : Word := v &&& 0x3F

/-- A predicate result as it is written: inverted under RPINV (R25). -/
def predOut (rpinv r : Bool) : Bool := xor r rpinv

end Sys2Proof.Machine
end

