-- ==== Sys2Proof/Machine/Num.lean ====
section
/-! DEFINITION. Number formats and exact arithmetic (spec/04_numbers.md R70 to R94): decoding of every format code, rounding
under each mode, encoding with its flags, stochastic rounding, and the generator of draws. -/

namespace Sys2Proof.Machine

/-! ## Format codes (R70) -/

/-- Lane bits of a format code (R70). -/
def laneBits (f : Nat) : Nat :=
  match f with
  | 1 | 2 | 10 | 14 => 8
  | 3 | 4 | 7 => 32
  | 8 | 9 => 16
  | 11 | 13 => 6
  | 12 => 4
  | _ => 64

/-- Lanes per link word of a format code (R70). -/
def lanesOf (f : Nat) : Nat := 512 / laneBits f - (if laneBits f = 6 then 1 else 0)

/-- Codes 1 to 6. -/
def isIntFmt (f : Nat) : Bool := decide (1 ≤ f) && decide (f ≤ 6)
/-- Codes 7 to 14. -/
def isFloatFmt (f : Nat) : Bool := decide (7 ≤ f) && decide (f ≤ 14)
/-- FP32, BF16, FP16. -/
def isIeee (f : Nat) : Bool := decide (7 ≤ f) && decide (f ≤ 9)
/-- TF8, TF6, TF4. -/
def isTapered (f : Nat) : Bool := decide (10 ≤ f) && decide (f ≤ 12)

/-- Lane l of a word at width w. -/
def laneAt (x w l : Nat) : Nat := (x >>> (w * l)) % 2 ^ w

/-- The word whose lanes of width w are the list's elements from lane 0. -/
def packLanes (w : Nat) : List Nat → Nat
  | [] => 0
  | r :: rs => r % 2 ^ w + 2 ^ w * packLanes w rs

/-- The low w bits of x in each of n lanes of width w (R12). -/
def repLanes (w n x : Nat) : Nat := packLanes w (List.replicate n x)

/-! ## Exact values -/

/-- An exact value: NaN (signalling or quiet), an infinity, or (-1)^neg × m × 2^e. -/
inductive Num where
  | nan (sig : Bool)
  | inf (neg : Bool)
  | fin (neg : Bool) (m : Nat) (e : Int)
deriving DecidableEq, Repr, Inhabited

/-- The rounding modes of R88. -/
inductive Rm where
  | rne | rtz | rup | rdn
deriving DecidableEq, Repr, Inhabited

/-- FRM's RM field (R88). -/
def Rm.ofField (n : Nat) : Rm :=
  match n % 4 with
  | 0 => .rne | 1 => .rtz | 2 => .rup | _ => .rdn

/-- Rounding of a conversion under its MODE (R61): 0 from FRM, 1 RNE, 2 RTZ. -/
def Rm.ofMode (rm : Rm) (mode : Nat) : Rm :=
  match mode with
  | 1 => .rne | 2 => .rtz | _ => rm

def Num.isNan : Num → Bool | .nan _ => true | _ => false
def Num.isSnan : Num → Bool | .nan s => s | _ => false
def Num.isInf : Num → Bool | .inf _ => true | _ => false
def Num.isZero : Num → Bool | .fin _ m _ => m == 0 | _ => false
def Num.neg? : Num → Bool | .nan _ => false | .inf s => s | .fin s _ _ => s
def Num.negate : Num → Num
  | .nan s => .nan s | .inf s => .inf (!s) | .fin s m e => .fin (!s) m e
/-- An integer as an exact value. -/
def Num.ofInt (v : Int) : Num := .fin (decide (v < 0)) v.natAbs 0

/-! ## Decoding (R75 to R83) -/

/-- Exponent and fraction bits of an IEEE format (R75). -/
def ieeeParams (f : Nat) : Nat × Nat :=
  match f with
  | 7 => (8, 23) | 8 => (8, 7) | _ => (5, 10)

/-- Decoding of an IEEE lane (R75). -/
def decodeIeee (f x : Nat) : Num :=
  let (eb, fb) := ieeeParams f
  let bias := 2 ^ (eb - 1) - 1
  let s := bit x (eb + fb)
  let e := (x >>> fb) % 2 ^ eb
  let m := x % 2 ^ fb
  if e = 2 ^ eb - 1 then (if m = 0 then .inf s else .nan (!bit m (fb - 1)))
  else if e = 0 then .fin s m (1 - (bias : Int) - fb)
  else .fin s (2 ^ fb + m) ((e : Int) - bias - fb)

/-- Width and exponent bits of a tapered format (R77). -/
def taperedParams (f : Nat) : Nat × Nat :=
  match f with
  | 10 => (8, 1) | 11 => (6, 1) | _ => (4, 0)

/-- Length of the run of bits equal to r in body from bit k - 1 down. -/
def runLen (body : Nat) (r : Bool) : Nat → Nat
  | 0 => 0
  | k + 1 => if bit body k == r then 1 + runLen body r k else 0

/-- Decoding of a tapered lane (R77). -/
def decodeTapered (f x : Nat) : Num :=
  let (n, es) := taperedParams f
  let b := n - 1
  let body := x % 2 ^ b
  let s := bit x b
  if body = 0 then (if s then .nan false else .fin false 0 0)
  else
    let r := bit body (b - 1)
    let m := runLen body r b
    let k : Int := if r then (m : Int) - 1 else -(m : Int)
    let left := b - m - 1
    let y := body % 2 ^ left
    let eb := if es < left then es else left
    let e := (y >>> (left - eb)) <<< (es - eb)
    let fb := left - eb
    .fin s (2 ^ fb + y % 2 ^ fb) (k * (2 ^ es : Nat) + e - fb)

/-- Decoding of a PQ6 lane (R82). -/
def decodePq6 (x : Nat) : Num :=
  let n := bits x 5 2
  if n = 15 then .fin false 0 0 else .fin false (4 + x % 4) (-(n : Int) - 2)

/-- Decoding of an E8 lane (R83). -/
def decodeE8 (x : Nat) : Num :=
  let c := x % 256
  if c = 255 then .nan false else .fin false 1 ((c : Int) - 127)

/-- Whether an integer code is signed when its own code says so (R76); RAW is read as I64. -/
def signedFmt (f : Nat) : Bool := f == 0 || f == 1 || f == 3 || f == 5

/-- Decoding of a lane by its format code (R70 to R83). -/
def decodeLane (f x : Nat) : Num :=
  if isIeee f then decodeIeee f x
  else if isTapered f then decodeTapered f x
  else if f = 13 then decodePq6 x
  else if f = 14 then decodeE8 x
  else Num.ofInt (if signedFmt f then sextN x (laneBits f) else (x % 2 ^ laneBits f : Nat))

/-! ## Rounding -/

/-- m × 2^(-sh) rounded to an integer magnitude of sign neg; whether it was inexact (R88). -/
def shiftRound (rm : Rm) (neg : Bool) (m sh : Nat) : Nat × Bool :=
  let q := m >>> sh
  let r := m % 2 ^ sh
  if r = 0 then (q, false)
  else
    let up := match rm with
      | .rne => decide (2 ^ sh < 2 * r) || (decide (2 * r = 2 ^ sh) && q % 2 == 1)
      | .rtz => false
      | .rup => !neg
      | .rdn => neg
    (if up then q + 1 else q, true)

/-- m × 2^e rounded to a multiple of 2^q: the multiple, and whether it was inexact. -/
def roundTo (rm : Rm) (neg : Bool) (m : Nat) (e q : Int) : Nat × Bool :=
  if q ≤ e then (m <<< (e - q).toNat, false) else shiftRound rm neg m (q - e).toNat

/-- Bits of the canonical quiet NaN (R75, R77); PQ6 has none and writes its zero (R82). -/
def canonNan (f : Nat) : Nat :=
  match f with
  | 7 => 0x7FC00000 | 8 => 0x7FC0 | 9 => 0x7E00 | 10 => 0x80 | 11 => 0x20 | 12 => 0x8 | 13 => 0x3C | _ => 0xFF

/-- An infinity of an IEEE format. -/
def ieeeInf (f : Nat) (neg : Bool) : Nat :=
  let (eb, fb) := ieeeParams f
  (if neg then 2 ^ (eb + fb) else 0) + (2 ^ eb - 1) * 2 ^ fb

/-- A finite value rounded once to an IEEE format (R88, R89). UF is raised when the value rounded with an unbounded exponent
lies below the smallest normal and the result is inexact. -/
def encodeIeee (f : Nat) (rm : Rm) (neg : Bool) (m : Nat) (e : Int) : Nat × Flags :=
  let (eb, fb) := ieeeParams f
  let sb := if neg then 2 ^ (eb + fb) else 0
  if m = 0 then (sb, 0)
  else
    let bias : Int := (2 ^ (eb - 1) - 1 : Nat)
    let top := (Nat.log2 m : Int) + e
    let emin := 1 - bias
    let q := (if top < emin then emin else top) - fb
    let (k, inx) := roundTo rm neg m e q
    let body := if k < 2 ^ fb then k else (q + fb + bias).toNat * 2 ^ fb + (k - 2 ^ fb)
    if (2 ^ eb - 1) * 2 ^ fb ≤ body then
      let big := match rm with | .rne => true | .rtz => false | .rup => !neg | .rdn => neg
      (sb + (2 ^ eb - 1) * 2 ^ fb - (if big then 0 else 1), fOF ||| fNX)
    else
      let (k2, _) := roundTo rm neg m e (top - fb)
      let tiny := decide (top < emin) && !(decide (top = emin - 1) && decide (2 ^ (fb + 1) ≤ k2))
      (sb + body, flagIf inx fNX ||| flagIf (inx && tiny) fUF)

/-- The magnitudes of the codes of TF8, TF6, TF4 or PQ6 as multiples of 2^-16, by rank: rank 0 is zero, and higher ranks are
larger. -/
def rankMag (f r : Nat) : Nat :=
  match (if f = 13 then (if r = 0 then Num.fin false 0 0 else decodePq6 ((14 - (r - 1) / 4) * 4 + (r - 1) % 4)) else decodeTapered f r) with
  | .fin _ m e => if 0 ≤ e + 16 then m <<< (e + 16).toNat else m >>> (-(e + 16)).toNat
  | _ => 0

/-- The largest rank of a format. -/
def topRank (f : Nat) : Nat := if f = 13 then 60 else 2 ^ ((taperedParams f).1 - 1) - 1

/-- The code of a rank. -/
def rankCode (f r : Nat) : Nat :=
  if f = 13 then (if r = 0 then 0x3C else (14 - (r - 1) / 4) * 4 + (r - 1) % 4) else r

/-- The largest rank, up to a bound, whose magnitude times den does not exceed num. -/
def findRank (f num den : Nat) : Nat → Nat
  | 0 => 0
  | r + 1 => if rankMag f (r + 1) * den ≤ num then r + 1 else findRank f num den r

/-- m × 2^e as num / den in units of 2^-16. -/
def scale16 (m : Nat) (e : Int) : Nat × Nat :=
  if 0 ≤ e + 16 then (m <<< (e + 16).toNat, 1) else (m, 2 ^ (-(e + 16)).toNat)

/-- A finite nonzero magnitude encoded to the nearest code of a tapered format or PQ6, ties to the even code, a tie with zero
to zero, saturating (R80, R82). -/
def encodeRank (f m : Nat) (e : Int) : Nat × Flags :=
  let (num, den) := scale16 m e
  let t := topRank f
  let r := findRank f num den t
  if rankMag f r * den = num then (rankCode f r, 0)
  else if r = t then (rankCode f t, fOF ||| fNX)
  else
    let lo := num - rankMag f r * den
    let hi := rankMag f (r + 1) * den - num
    let down := decide (lo < hi) || (decide (lo = hi) && (r == 0 || rankCode f r % 2 == 0))
    let k := if down then r else r + 1
    (rankCode f k, fNX ||| flagIf (k == 0) fUF)

/-- A value encoded once into a float format, codes 7 to 13 (R80, R82, R88, R89). An infinity that a tapered format turns into NaN sets NV alone, and
no NX. [DESIGN CHOICE: log 81] -/
def encodeFloat (f : Nat) (rm : Rm) (v : Num) : Nat × Flags :=
  if isIeee f then
    match v with
    | .nan sg => (canonNan f, flagIf sg fNV)
    | .inf s => (ieeeInf f s, 0)
    | .fin s m e => encodeIeee f rm s m e
  else if isTapered f then
    match v with
    | .nan sg => (canonNan f, flagIf sg fNV)
    | .inf _ => (canonNan f, fNV)
    | .fin s m e =>
      if m = 0 then (0, 0)
      else
        let (c, fl) := encodeRank f m e
        (if s && c != 0 then c + 2 ^ ((taperedParams f).1 - 1) else c, fl)
  else
    match v with
    | .nan _ => (0x3C, fNV)
    | .inf s => if s then (0x3C, fNV) else (0x03, fOF ||| fNX)
    | .fin s m e => if m = 0 then (0x3C, 0) else if s then (0x3C, fNV) else encodeRank 13 m e

/-- A value placed in an integer format: rounded to an integer, then the nearer end of the range with NV (R142). -/
def encodeInt (f : Nat) (rm : Rm) (v : Num) : Nat × Flags :=
  let w := laneBits f
  let lo : Int := if signedFmt f then -(2 ^ (w - 1) : Nat) else 0
  let hi : Int := if signedFmt f then (2 ^ (w - 1) : Nat) - 1 else (2 ^ w : Nat) - 1
  match v with
  | .nan _ => (0, fNV)
  | .inf s => (wrapN (if s then lo else hi) w, fNV)
  | .fin s m e =>
    let (k, inx) := roundTo rm s m e 0
    let x : Int := if s then -(k : Int) else k
    if x < lo then (wrapN lo w, fNV) else if hi < x then (wrapN hi w, fNV) else (wrapN x w, flagIf inx fNX)

/-- A value encoded into a target of a conversion (R140, R142). -/
def encodeLane (f : Nat) (rm : Rm) (v : Num) : Nat × Flags :=
  if isFloatFmt f then encodeFloat f rm v else encodeInt f rm v

/-! ## Stochastic rounding (R91 to R94) -/

/-- x rotated left by r in 64 bits. -/
def rotl64 (x r : Nat) : Nat := ((x % 2 ^ 64) <<< (r % 64)) % 2 ^ 64 ||| (x % 2 ^ 64) >>> (64 - r % 64)

/-- One draw from the seed and the position (R91). -/
def drawOf (seed pos : Word) : Word :=
  let x := seed ^^^ pos
  let x := x ^^^ (x >>> 31)
  let x := x * 0xA3B195C47E2D6F1B
  let x := x ^^^ (x >>> 29)
  let x := x * 0x5C8E27D9B40F3A65
  x ^^^ (x >>> 32)

/-- Whether the draw index has reached its last value (R91). -/
def drawSat (pos : Word) : Bool := pos.toNat % 2 ^ 24 == 0xFFFFFF

/-- The position after a draw (R91). -/
def drawNext (pos : Word) : Word := if drawSat pos then pos else pos + 1

/-- The 16-bit value of lane l (R92). -/
def drawLane (d : Word) (l : Nat) : Nat := rotl64 d.toNat (5 * l % 64) % 2 ^ 16

/-- A value rounded stochastically into a float format with the lane value u (R93, R141). A lane of an IEEE format that comes out as zero sets UF. [DEDUCED: log 69; DESIGN CHOICE: log 81] -/
def encodeStochastic (f u : Nat) (v : Num) : Nat × Flags :=
  match v with
  | .fin s m e =>
    if m = 0 then encodeFloat f .rne v
    else if isIeee f then
      let (eb, fb) := ieeeParams f
      let bias : Int := (2 ^ (eb - 1) - 1 : Nat)
      let top := (Nat.log2 m : Int) + e
      let emin := 1 - bias
      let q := (if top < emin then emin else top) - fb
      if q ≤ e then encodeFloat f .rne v
      else
        let sh := (q - e).toNat
        let k := m >>> sh
        let r := m % 2 ^ sh
        if r = 0 then encodeFloat f .rne v
        else
          let t := (r * 2 ^ 16) / 2 ^ sh
          let kk := if u < t then k + 1 else k
          let (c, fl) := encodeFloat f .rne (.fin s kk q)
          (c, fl ||| fNX ||| flagIf (decide (kk < 2 ^ fb) && decide (q = emin - fb)) fUF)
    else if f = 13 && s then encodeFloat f .rne v
    else
      let (num, den) := scale16 m e
      let t := topRank f
      let r := findRank f num den t
      if r = t || rankMag f r * den = num then encodeFloat f .rne v
      else
        let lo := rankMag f r
        let hi := rankMag f (r + 1)
        let th := ((num - lo * den) * 2 ^ 16) / ((hi - lo) * den)
        let k := if u < th then r + 1 else r
        let c := rankCode f k
        (if s && isTapered f && c != 0 then c + 2 ^ ((taperedParams f).1 - 1) else c, fNX ||| flagIf (k == 0) fUF)
  | _ => encodeFloat f .rne v

/-! ## Exact arithmetic -/

/-- m × 2^e as an integer in units of 2^q, for q at most e. -/
def unitsOf (s : Bool) (m : Nat) (e q : Int) : Int :=
  let k : Int := (m <<< (e - q).toNat : Nat)
  if s then -k else k

/-- Exact sum; ∞ - ∞ gives a NaN, for which the caller raises NV; an exact zero sum is +0, or -0 under RDN (R127). -/
def Num.add (rm : Rm) : Num → Num → Num
  | .nan a, .nan b => .nan (a || b)
  | .nan a, _ => .nan a
  | _, .nan b => .nan b
  | .inf s, .inf t => if s == t then .inf s else .nan false
  | .inf s, _ => .inf s
  | _, .inf t => .inf t
  | .fin s m e, .fin t n f =>
    if m = 0 && n = 0 then .fin (if s == t then s else decide (rm = .rdn)) 0 0
    else if m = 0 then .fin t n f
    else if n = 0 then .fin s m e
    else
      let q := if e ≤ f then e else f
      let v := unitsOf s m e q + unitsOf t n f q
      if v = 0 then .fin (decide (rm = .rdn)) 0 0 else .fin (decide (v < 0)) v.natAbs q

/-- Exact product; 0 × ∞ gives a NaN (R127). -/
def Num.mul : Num → Num → Num
  | .nan a, .nan b => .nan (a || b)
  | .nan a, _ => .nan a
  | _, .nan b => .nan b
  | .inf s, .inf t => .inf (s != t)
  | .inf s, .fin t n _ => if n = 0 then .nan false else .inf (s != t)
  | .fin s m _, .inf t => if m = 0 then .nan false else .inf (s != t)
  | .fin s m e, .fin t n f => .fin (s != t) (m * n) (e + f)

/-- Order of two values that are not NaN: -0 and +0 compare equal (R130). -/
def Num.cmp (x y : Num) : Ordering :=
  match x, y with
  | .nan _, _ => .eq
  | _, .nan _ => .eq
  | .inf s, .inf t => if s == t then .eq else if s then .lt else .gt
  | .inf s, _ => if s then .lt else .gt
  | _, .inf t => if t then .gt else .lt
  | .fin s m e, .fin t n f =>
    let q := if e ≤ f then e else f
    compare (unitsOf s m e q) (unitsOf t n f q)

/-- Whether x is less than y with -0 below +0 (R128). -/
def Num.less (x y : Num) : Bool :=
  match x.cmp y with
  | .lt => true
  | .gt => false
  | .eq => x.isZero && y.isZero && x.neg? && !y.neg?

/-- floor(sqrt n), found bit by bit from bit k - 1. [DEDUCED: log 70] -/
def isqrtBits (n acc : Nat) : Nat → Nat
  | 0 => acc
  | k + 1 => let c := acc + 2 ^ k; if c * c ≤ n then isqrtBits n c k else isqrtBits n acc k

/-- 1 / (m × 2^e) to 80 bits, the lowest of them standing for what is left (R136). [DEDUCED: log 70] -/
def recipNum (s : Bool) (m : Nat) (e : Int) : Num :=
  let k := Nat.log2 m + 80
  let q := 2 ^ k / m
  .fin s (2 * q + (if q * m = 2 ^ k then 0 else 1)) (-(k : Int) - 1 - e)

/-- 1 / sqrt(m × 2^e) to 80 bits, the lowest of them standing for what is left (R136). [DEDUCED: log 70] -/
def rsqrtNum (m : Nat) (e : Int) : Num :=
  let (m, e) := if e % 2 = 0 then (m, e) else (2 * m, e - 1)
  let k := Nat.log2 m / 2 + 80
  let q := isqrtBits (2 ^ (2 * k) / m) 0 90
  .fin false (2 * q + (if q * q * m = 2 ^ (2 * k) then 0 else 1)) (-(k : Int) - 1 - e / 2)

/-! ## 2^a, log2 and ln in fixed point with 192 fraction bits -/

/-- ln 2 in units of 2^-192. -/
def ln2Fix : Nat := 0xb17217f7d1cf79abc9e3b39803f2f6af40f343267298b62d

/-- The sum of the series of exp(x) from term n on, x in units of 2^-192 (R132). -/
def expSeries (x : Int) (term : Int) (n : Nat) : Nat → Int
  | 0 => term
  | k + 1 => term + expSeries x (term * x / ((2 ^ 192 : Nat) * (n + 1))) (n + 1) k

/-- exp(x) in units of 2^-192, x in the same units with |x| below 1. [DEDUCED: log 70] -/
def expFix (x : Int) : Int := expSeries x (2 ^ 192 : Nat) 0 48

/-- The sum z + z^3/3 + z^5/5 + ... from the term with divisor n on, in units of 2^-192. [DEDUCED: log 70] -/
def atanhSeries (z2 p : Nat) (n : Nat) : Nat → Nat
  | 0 => 0
  | k + 1 => p / n + atanhSeries z2 (p * z2 / 2 ^ 192) (n + 2) k

/-- ln(m / 2^k) for 2^k ≤ m < 2^(k+1), in units of 2^-192. [DEDUCED: log 70] -/
def lnFix (m k : Nat) : Nat :=
  let z := ((m - 2 ^ k) * 2 ^ 192) / (m + 2 ^ k)
  2 * atanhSeries (z * z / 2 ^ 192) z 1 64

/-- A fixed-point approximation of an irrational value, with a lowest bit for what is left. -/
def sticky (s : Bool) (x : Nat) : Num := .fin s (2 * x + 1) (-193)

end Sys2Proof.Machine
end

