-- ==== Sys2Proof/Syntax.lean ====
section
/-! DEFINITION. The W9's instructions: one constructor per row of spec/opcode_table.json. The first 193 are the opcodes
of R62 (spec/03_encoding.md) with the operands of their operation word; the others are the machine's steps that no
operation word encodes, each with what it needs to know which unit, token, register or record takes the step. -/

namespace Sys2Proof

/-- A source select code (R54). -/
inductive Src where
  | d (n : Fin 16)
  | head (n : Fin 4)
  | lit (n : Fin 8)
  | zero | ones | wv | lane
deriving DecidableEq, Repr, Inhabited

/-- A destination select code (R55), with the XD bit of its position taken in (R18). `chan` is an output channel or, in
the groups R55 names, a reply channel. -/
inductive Dst where
  | d (n : Fin 16)
  | chan (n : Fin 4)
  | none
deriving DecidableEq, Repr, Inhabited

/-- The operands of an operation word (R53): sources A and B, destinations 1 and 2, tag action and mode. -/
structure Op where
  a : Src
  b : Src
  d1 : Dst
  d2 : Dst
  tact : Fin 16
  mode : Fin 4
deriving DecidableEq, Repr, Inhabited

/-- A control-store write (R382): slots (index, trigger, operation, update) and literals (index, value, format code). -/
structure StoreWrite where
  slots : List (Nat × Word32 × Word32 × Word32)
  lits : List (Nat × Word × Nat)
deriving DecidableEq, Repr, Inhabited

/-- What an application core asks of device memory (R390, R392): its physical address, the size in bytes, the value of a
store or the operand of an AMO, whether it writes, the AMO operation (0 add, 1 min, 2 max, 3 and, 4 or, 5 xor, 6 swap,
7 unsigned min, 8 unsigned max) and the aq and rl bits. -/
structure CoreReq where
  pa : Nat
  size : Nat
  wr : Bool
  val : Word
  amo : Nat
  aq : Bool
  rl : Bool
deriving DecidableEq, Repr, Inhabited

/-- An instruction or step of the W9: the 193 opcodes, the steps that come from outside the machine, and its own steps. -/
inductive Instr where
  /-- NOP, opcode 0x00 (R104). -/
  | nop (o : Op)
  /-- PASS, opcode 0x01 (R104). -/
  | pass (o : Op)
  /-- DUP, opcode 0x02 (R104). -/
  | dup (o : Op)
  /-- SWAP, opcode 0x03 (R104). -/
  | swap (o : Op)
  /-- GATE, opcode 0x04 (R105). -/
  | gate (o : Op)
  /-- STEER, opcode 0x05 (R105). -/
  | steer (o : Op)
  /-- TAGOF, opcode 0x06 (R106). -/
  | tagof (o : Op)
  /-- RETAG, opcode 0x07 (R107). -/
  | retag (o : Op)
  /-- ITER, opcode 0x08 (R108). -/
  | iter (o : Op)
  /-- ITERS, opcode 0x09 (R108). -/
  | iters (o : Op)
  /-- WAVE, opcode 0x0A (R109). -/
  | wave (o : Op)
  /-- EBB, opcode 0x0B (R110). -/
  | ebb (o : Op)
  /-- HALT, opcode 0x0C (R111). -/
  | halt (o : Op)
  /-- OCC, opcode 0x0D (R112). -/
  | occ (o : Op)
  /-- ADD, opcode 0x10 (R113). -/
  | add (o : Op)
  /-- SUB, opcode 0x11 (R113). -/
  | sub (o : Op)
  /-- NEG, opcode 0x12 (R113). -/
  | neg (o : Op)
  /-- MUL, opcode 0x13 (R113). -/
  | mul (o : Op)
  /-- MULH, opcode 0x14 (R113). -/
  | mulh (o : Op)
  /-- MULHU, opcode 0x15 (R113). -/
  | mulhu (o : Op)
  /-- MAD, opcode 0x16 (R113). -/
  | mad (o : Op)
  /-- DIVU, opcode 0x17 (R114). -/
  | divu (o : Op)
  /-- REMU, opcode 0x18 (R114). -/
  | remu (o : Op)
  /-- DIV, opcode 0x19 (R114). -/
  | div (o : Op)
  /-- REM, opcode 0x1A (R114). -/
  | rem (o : Op)
  /-- ADDSAT, opcode 0x1B (R113). -/
  | addsat (o : Op)
  /-- SUBSAT, opcode 0x1C (R113). -/
  | subsat (o : Op)
  /-- ABS, opcode 0x1D (R113). -/
  | abs (o : Op)
  /-- MIN, opcode 0x1E (R113). -/
  | min (o : Op)
  /-- MAX, opcode 0x1F (R113). -/
  | max (o : Op)
  /-- MINU, opcode 0x20 (R113). -/
  | minu (o : Op)
  /-- MAXU, opcode 0x21 (R113). -/
  | maxu (o : Op)
  /-- AND, opcode 0x22 (R113). -/
  | and (o : Op)
  /-- OR, opcode 0x23 (R113). -/
  | or (o : Op)
  /-- XOR, opcode 0x24 (R113). -/
  | xor (o : Op)
  /-- ANDN, opcode 0x25 (R113). -/
  | andn (o : Op)
  /-- ORN, opcode 0x26 (R113). -/
  | orn (o : Op)
  /-- NOT, opcode 0x27 (R113). -/
  | not (o : Op)
  /-- ADDW, opcode 0x28 (R115). -/
  | addw (o : Op)
  /-- SUBW, opcode 0x29 (R115). -/
  | subw (o : Op)
  /-- MULW, opcode 0x2A (R115). -/
  | mulw (o : Op)
  /-- SEXTB, opcode 0x2B (R115). -/
  | sextb (o : Op)
  /-- SEXTH, opcode 0x2C (R115). -/
  | sexth (o : Op)
  /-- SEXTW, opcode 0x2D (R115). -/
  | sextw (o : Op)
  /-- ZEXTB, opcode 0x2E (R115). -/
  | zextb (o : Op)
  /-- ZEXTH, opcode 0x2F (R115). -/
  | zexth (o : Op)
  /-- CEQ, opcode 0x30 (R116). -/
  | ceq (o : Op)
  /-- CNE, opcode 0x31 (R116). -/
  | cne (o : Op)
  /-- CLT, opcode 0x32 (R116). -/
  | clt (o : Op)
  /-- CLE, opcode 0x33 (R116). -/
  | cle (o : Op)
  /-- CLTU, opcode 0x34 (R116). -/
  | cltu (o : Op)
  /-- CLEU, opcode 0x35 (R116). -/
  | cleu (o : Op)
  /-- CTST, opcode 0x36 (R116). -/
  | ctst (o : Op)
  /-- CMOVNZ, opcode 0x37 (R117). -/
  | cmovnz (o : Op)
  /-- CMOVZ, opcode 0x38 (R117). -/
  | cmovz (o : Op)
  /-- ZEXTW, opcode 0x39 (R115). -/
  | zextw (o : Op)
  /-- SHL, opcode 0x40 (R118). -/
  | shl (o : Op)
  /-- SHR, opcode 0x41 (R118). -/
  | shr (o : Op)
  /-- SAR, opcode 0x42 (R118). -/
  | sar (o : Op)
  /-- ROL, opcode 0x43 (R118). -/
  | rol (o : Op)
  /-- ROR, opcode 0x44 (R118). -/
  | ror (o : Op)
  /-- CLZ, opcode 0x45 (R119). -/
  | clz (o : Op)
  /-- CTZ, opcode 0x46 (R119). -/
  | ctz (o : Op)
  /-- POPC, opcode 0x47 (R119). -/
  | popc (o : Op)
  /-- BREV, opcode 0x48 (R119). -/
  | brev (o : Op)
  /-- BSWAP, opcode 0x49 (R119). -/
  | bswap (o : Op)
  /-- BFX, opcode 0x4A (R120). -/
  | bfx (o : Op)
  /-- BFI, opcode 0x4B (R120). -/
  | bfi (o : Op)
  /-- LEA, opcode 0x4C (R121). -/
  | lea (o : Op)
  /-- HASH, opcode 0x4D (R122). -/
  | hash (o : Op)
  /-- DRAW, opcode 0x4E (R123). -/
  | draw (o : Op)
  /-- FADD, opcode 0x50 (R127). -/
  | fadd (o : Op)
  /-- FSUB, opcode 0x51 (R127). -/
  | fsub (o : Op)
  /-- FMUL, opcode 0x52 (R127). -/
  | fmul (o : Op)
  /-- FMA, opcode 0x53 (R127). -/
  | fma (o : Op)
  /-- FMS, opcode 0x54 (R127). -/
  | fms (o : Op)
  /-- FNMA, opcode 0x55 (R127). -/
  | fnma (o : Op)
  /-- FMIN, opcode 0x56 (R128). -/
  | fmin (o : Op)
  /-- FMAX, opcode 0x57 (R128). -/
  | fmax (o : Op)
  /-- FABS, opcode 0x58 (R129). -/
  | fabs (o : Op)
  /-- FNEG, opcode 0x59 (R129). -/
  | fneg (o : Op)
  /-- FCOPYSIGN, opcode 0x5A (R129). -/
  | fcopysign (o : Op)
  /-- FCEQ, opcode 0x5B (R130). -/
  | fceq (o : Op)
  /-- FCLT, opcode 0x5C (R130). -/
  | fclt (o : Op)
  /-- FCLE, opcode 0x5D (R130). -/
  | fcle (o : Op)
  /-- FCUN, opcode 0x5E (R130). -/
  | fcun (o : Op)
  /-- FCLASS, opcode 0x5F (R130). -/
  | fclass (o : Op)
  /-- FRINT, opcode 0x60 (R131). -/
  | frint (o : Op)
  /-- FFLOOR, opcode 0x61 (R131). -/
  | ffloor (o : Op)
  /-- FCEIL, opcode 0x62 (R131). -/
  | fceil (o : Op)
  /-- FTRUNC, opcode 0x63 (R131). -/
  | ftrunc (o : Op)
  /-- FEXP2F, opcode 0x64 (R132). -/
  | fexp2f (o : Op)
  /-- FLDEXP, opcode 0x65 (R133). -/
  | fldexp (o : Op)
  /-- FGETEXP, opcode 0x66 (R135). -/
  | fgetexp (o : Op)
  /-- FGETMANT, opcode 0x67 (R135). -/
  | fgetmant (o : Op)
  /-- FRCP, opcode 0x68 (R136). -/
  | frcp (o : Op)
  /-- FRSQ, opcode 0x69 (R136). -/
  | frsq (o : Op)
  /-- FLOG2F, opcode 0x6A (R137). -/
  | flog2f (o : Op)
  /-- CVT, opcode 0x70 (R140). -/
  | cvt (o : Op)
  /-- CVTS, opcode 0x71 (R141). -/
  | cvts (o : Op)
  /-- CVTI, opcode 0x72 (R142). -/
  | cvti (o : Op)
  /-- CVTIT, opcode 0x73 (R142). -/
  | cvtit (o : Op)
  /-- CVTF, opcode 0x74 (R143). -/
  | cvtf (o : Op)
  /-- CVTFU, opcode 0x75 (R143). -/
  | cvtfu (o : Op)
  /-- PACK, opcode 0x76 (R144). -/
  | pack (o : Op)
  /-- UNPACK, opcode 0x77 (R144). -/
  | unpack (o : Op)
  /-- SCALE, opcode 0x78 (R145). -/
  | scale (o : Op)
  /-- FMTOF, opcode 0x79 (R146). -/
  | fmtof (o : Op)
  /-- VBCAST, opcode 0x80 (R148). -/
  | vbcast (o : Op)
  /-- VREDADD, opcode 0x81 (R149). -/
  | vredadd (o : Op)
  /-- VREDMAX, opcode 0x82 (R149). -/
  | vredmax (o : Op)
  /-- VREDMIN, opcode 0x83 (R149). -/
  | vredmin (o : Op)
  /-- VARGMAX, opcode 0x84 (R150). -/
  | vargmax (o : Op)
  /-- VSCAN, opcode 0x85 (R151). -/
  | vscan (o : Op)
  /-- VPERM, opcode 0x86 (R153). -/
  | vperm (o : Op)
  /-- VSLIDE, opcode 0x87 (R153). -/
  | vslide (o : Op)
  /-- VEXTR, opcode 0x88 (R148). -/
  | vextr (o : Op)
  /-- VINS, opcode 0x89 (R148). -/
  | vins (o : Op)
  /-- VDOT, opcode 0x8A (R152). -/
  | vdot (o : Op)
  /-- VMASK, opcode 0x8B (R154). -/
  | vmask (o : Op)
  /-- VCOMPRESS, opcode 0x8C (R154). -/
  | vcompress (o : Op)
  /-- VLANEID, opcode 0x8D (R155). -/
  | vlaneid (o : Op)
  /-- LD, opcode 0x90 (R255). -/
  | ld (o : Op)
  /-- ST, opcode 0x91 (R255). -/
  | st (o : Op)
  /-- LDC, opcode 0x92 (R267). -/
  | ldc (o : Op)
  /-- STC, opcode 0x93 (R267). -/
  | stc (o : Op)
  /-- CNOP, opcode 0x94 (R275). -/
  | cnop (o : Op)
  /-- LDS, opcode 0x95 (R255). -/
  | lds (o : Op)
  /-- STS, opcode 0x96 (R255). -/
  | sts (o : Op)
  /-- AADD, opcode 0x97 (R256). -/
  | aadd (o : Op)
  /-- AMIN, opcode 0x98 (R256). -/
  | amin (o : Op)
  /-- AMAX, opcode 0x99 (R256). -/
  | amax (o : Op)
  /-- AAND, opcode 0x9A (R256). -/
  | aand (o : Op)
  /-- AOR, opcode 0x9B (R256). -/
  | aor (o : Op)
  /-- AXOR, opcode 0x9C (R256). -/
  | axor (o : Op)
  /-- AXCHG, opcode 0x9D (R256). -/
  | axchg (o : Op)
  /-- ACAS, opcode 0x9E (R256). -/
  | acas (o : Op)
  /-- AFADD, opcode 0x9F (R256). -/
  | afadd (o : Op)
  /-- PREF, opcode 0xA0 (R258). -/
  | pref (o : Op)
  /-- BOUNDS, opcode 0xA1 (R259). -/
  | bounds (o : Op)
  /-- ACHN, opcode 0xA2 (R276). -/
  | achn (o : Op)
  /-- ACQ, opcode 0xB0 (R263). -/
  | acq (o : Op)
  /-- ACQS, opcode 0xB1 (R263). -/
  | acqs (o : Op)
  /-- REL, opcode 0xB2 (R264). -/
  | rel (o : Op)
  /-- FENCE, opcode 0xB3 (R265). -/
  | fence (o : Op)
  /-- WAITV, opcode 0xB4 (R266). -/
  | waitv (o : Op)
  /-- NOTIFY, opcode 0xB5 (R222). -/
  | notify (o : Op)
  /-- PARK, opcode 0xB6 (R222). -/
  | park (o : Op)
  /-- BAR, opcode 0xB7 (R218). -/
  | bar (o : Op)
  /-- ARRIVE, opcode 0xB8 (R219). -/
  | arrive (o : Op)
  /-- TASKDONE, opcode 0xB9 (R220). -/
  | taskdone (o : Op)
  /-- LAUNCH, opcode 0xBA (R221). -/
  | launch (o : Op)
  /-- MLOAD, opcode 0xC0 (R297). -/
  | mload (o : Op)
  /-- MSWAP, opcode 0xC1 (R299). -/
  | mswap (o : Op)
  /-- MSTREAM, opcode 0xC2 (R300). -/
  | mstream (o : Op)
  /-- MMODE, opcode 0xC3 (R325). -/
  | mmode (o : Op)
  /-- MDRAIN, opcode 0xC4 (R302). -/
  | mdrain (o : Op)
  /-- MCLR, opcode 0xC5 (R325). -/
  | mclr (o : Op)
  /-- RPTSET, opcode 0xC6 (R304). -/
  | rptset (o : Op)
  /-- RPTEND, opcode 0xC7 (R304). -/
  | rptend (o : Op)
  /-- CPY, opcode 0xD0 (R329). -/
  | cpy (o : Op)
  /-- CPYR, opcode 0xD1 (R329). -/
  | cpyr (o : Op)
  /-- CPYG, opcode 0xD2 (R329). -/
  | cpyg (o : Op)
  /-- CPYS, opcode 0xD3 (R329). -/
  | cpys (o : Op)
  /-- CPYM, opcode 0xD4 (R317). -/
  | cpym (o : Op)
  /-- PUBLISH, opcode 0xD5 (R332). -/
  | publish (o : Op)
  /-- FREED, opcode 0xD6 (R333). -/
  | freed (o : Op)
  /-- COLL, opcode 0xD7 (R335). -/
  | coll (o : Op)
  /-- COLLARG, opcode 0xD8 (R318). -/
  | collarg (o : Op)
  /-- CPYQ, opcode 0xD9 (R334). -/
  | cpyq (o : Op)
  /-- STH, opcode 0xE0 (R344). -/
  | sth (o : Op)
  /-- STM, opcode 0xE1 (R344). -/
  | stm (o : Op)
  /-- STT, opcode 0xE2 (R344). -/
  | stt (o : Op)
  /-- STFEED, opcode 0xE3 (R345). -/
  | stfeed (o : Op)
  /-- COLLAPSE, opcode 0xE4 (R346). -/
  | collapse (o : Op)
  /-- ACCEPT, opcode 0xE5 (R349). -/
  | accept (o : Op)
  /-- GMASK, opcode 0xE6 (R348). -/
  | gmask (o : Op)
  /-- TOPN, opcode 0xE7 (R350). -/
  | topn (o : Op)
  /-- TOKREC, opcode 0xE8 (R351). -/
  | tokrec (o : Op)
  /-- HALLMARK, opcode 0xE9 (R353). -/
  | hallmark (o : Op)
  /-- KVFIND, opcode 0xEA (R354). -/
  | kvfind (o : Op)
  /-- KVINS, opcode 0xEB (R354). -/
  | kvins (o : Op)
  /-- POSADV, opcode 0xEC (R352). -/
  | posadv (o : Op)
  /-- LOGREC, opcode 0xED (R355). -/
  | logrec (o : Op)
  /-- PQEXP, opcode 0xEE (R357). -/
  | pqexp (o : Op)
  /-- TRAP, opcode 0xF0 (R216). -/
  | trap (o : Op)
  /-- BRK, opcode 0xF1 (R215). -/
  | brk (o : Op)
  /-- RDSR, opcode 0xF2 (R211). -/
  | rdsr (o : Op)
  /-- WRSR, opcode 0xF3 (R211). -/
  | wrsr (o : Op)
  /-- PROBE, opcode 0xF4 (R214). -/
  | probe (o : Op)
  /-- TICK, opcode 0xF5 (R212). -/
  | tick (o : Op)
  /-- FRET, opcode 0xF6 (R217). -/
  | fret (o : Op)
  /-- YIELD, opcode 0xF7 (R213). -/
  | yield (o : Op)
  /-- QTAIL_WRITE (R188). -/
  | qtailWrite (q : Nat) (v : Word)
  /-- QUEUE_ENABLE (R187). -/
  | queueEnable (q : Nat) (v : Word)
  /-- QUEUE_DISABLE (R187). -/
  | queueDisable (q : Nat) (v : Word)
  /-- QSTAT_CLEAR (R188). -/
  | qstatClear (q : Nat) (v : Word)
  /-- XRESOLVE (R241). -/
  | xresolve (v : Word)
  /-- XINV (R239). -/
  | xinv (v : Word)
  /-- MIGRATION_START (R244). -/
  | migrationStart (v : Word)
  /-- XMIGST_CLEAR (R243). -/
  | xmigstClear (v : Word)
  /-- XACK (R246). -/
  | xack (v : Word)
  /-- RING_COUNT_WRITE (R412). -/
  | ringCountWrite (off : Nat) (v : Word)
  /-- REGISTER_WRITE (R243). -/
  | registerWrite (off : Nat) (v : Word)
  /-- ECC_RETRY (R369). -/
  | eccRetry (pa : Nat) (ok : Bool)
  /-- LINK_CRC_RETRY (R369). -/
  | linkCrcRetry (j : Nat) (ok : Bool)
  /-- SLOT_PARITY_REFETCH (R369). -/
  | slotParityRefetch (e k : Nat) (ok : Bool)
  /-- DATA_LOST (R369). -/
  | dataLost (e : Nat)
  /-- CONTROL_STORE_WRITE (R382). -/
  | controlStoreWrite (e : Nat) (w : StoreWrite)
  /-- FRREL (R362). -/
  | frrel (v : Word)
  /-- STOP_ARM (R405). -/
  | stopArm (v : Word)
  /-- STOP_RESUME (R405). -/
  | stopResume
  /-- DBGPROBE_GO (R404). -/
  | dbgprobeGo (v : Word)
  /-- BRKRES_CONTINUE (R406). -/
  | brkresContinue
  /-- BRKRES_ABORT (R406). -/
  | brkresAbort
  /-- HOST_MEM_WRITE (R387). -/
  | hostMemWrite (pa : Nat) (bytes : List Byte)
  /-- HOST_MEM_READ (R387). -/
  | hostMemRead (pa n : Nat)
  /-- CORE_ACCESS (R390). -/
  | coreAccess (core : Nat) (c : CoreReq)
  /-- CORE_WAKE_STORE (R391). -/
  | coreWakeStore (core w : Nat) (v : Word)
  /-- CORE_AMO (R392). -/
  | coreAmo (core : Nat) (c : CoreReq)
  /-- FLIT_COLLECTIVE_DATA (R393). -/
  | flitCollectiveData (j : Nat) (x : Flit)
  /-- FLIT_TICK (R397). -/
  | flitTick (j : Nat) (x : Flit)
  /-- FLIT_CONTROL (R398). -/
  | flitControl (j : Nat) (x : Flit)
  /-- FLIT_NAK (R393). -/
  | flitNak (j : Nat) (x : Flit)
  /-- PARTITION_RECOVERY (R398). -/
  | partitionRecovery (d : Nat)
  /-- FIRMWARE_STAGE (R410). -/
  | firmwareStage
  /-- RING_EN_SET (R412). -/
  | ringEnSet (off : Nat) (v : Word)
  /-- POWER_GATE (R381). -/
  | powerGate (t : Nat) (off : Bool)
  /-- FLIT_IDLE (R393). -/
  | flitIdle (j : Nat) (x : Flit)
  /-- RESET (R410). -/
  | reset
  /-- FIRE_COMPLETE (R25). -/
  | fireComplete (f : Nat)
  /-- TOKEN_ARRIVAL (R14). -/
  | tokenArrival (e c : Nat)
  /-- ROUTE_TOKEN (R165). -/
  | routeToken (r p : Nat)
  /-- ADVANCE_WORD (R166). -/
  | advanceWord (r p : Nat)
  /-- SWAGE_REPACK (R170). -/
  | swageRepack (r p : Nat)
  /-- FEED_DELIVER (R31). -/
  | feedDeliver (e c : Nat)
  /-- SINK_STORE (R32). -/
  | sinkStore (e c : Nat)
  /-- SOLO_QUIET (R34). -/
  | soloQuiet (g : Nat)
  /-- EBB_DRAIN (R179). -/
  | ebbDrain (e c : Nat)
  /-- ELEMENT_DRAINED (R180). -/
  | elementDrained (e : Nat)
  /-- TILE_SWAP (R181). -/
  | tileSwap (t : Nat)
  /-- HALT_COMPLETE (R186). -/
  | haltComplete (g : Nat)
  /-- LAUNCH_DECODE (R190). -/
  | launchDecode
  /-- PRELOAD_RELEASE (R199). -/
  | preloadRelease (l : Nat)
  /-- LAUNCH_PLACE (R201). -/
  | launchPlace (l : Nat)
  /-- COLD_LOAD_END (R201). -/
  | coldLoadEnd (l : Nat)
  /-- FOLLOW_ON_LOAD (R223). -/
  | followOnLoad (l : Nat)
  /-- INVOCATION_BOUNDARY (R184). -/
  | invocationBoundary (g : Nat)
  /-- LAUNCH_COMPLETE (R193). -/
  | launchComplete (g : Nat)
  /-- BUDGET_EXPIRY (R200). -/
  | budgetExpiry (g : Nat)
  /-- QUIESCENT_INCOMPLETE (R203). -/
  | quiescentIncomplete (g : Nat)
  /-- HANG (R205). -/
  | hang (g : Nat)
  /-- ADDRESS_TRANSLATE (R234). -/
  | addressTranslate (a : Nat)
  /-- FAULT_HOLD_EXPIRY (R380). -/
  | faultHoldExpiry (a : Nat)
  /-- XINV_DONE (R239). -/
  | xinvDone
  /-- MIGRATION_COPY (R244). -/
  | migrationCopy
  /-- MIGRATION_DONE (R244). -/
  | migrationDone
  /-- STORE_ARRIVAL (R254). -/
  | storeArrival (a : Nat)
  /-- ATOMIC_PERFORM (R256). -/
  | atomicPerform (a : Nat)
  /-- MEMORY_REPLY (R253). -/
  | memoryReply (a : Nat)
  /-- BOUNDS_LOADED (R259). -/
  | boundsLoaded (a : Nat)
  /-- SYNC_REQUEST (R263). -/
  | syncRequest (a : Nat)
  /-- REL_UPDATE (R264). -/
  | relUpdate (a : Nat)
  /-- WAITV_TEST (R266). -/
  | waitvTest (a : Nat)
  /-- WAITV_RETRY (R266). -/
  | waitvRetry (a : Nat)
  /-- BARRIER_OPEN (R218). -/
  | barrierOpen (g l i : Nat)
  /-- CHAIN_ARRIVAL (R270). -/
  | chainArrival (a : Nat)
  /-- CHAIN_RELEASE (R273). -/
  | chainRelease (g c : Nat)
  /-- GAP_STALL (R277). -/
  | gapStall (g c : Nat)
  /-- UNIT_COMMAND_ACCEPT (R322). -/
  | unitCommandAccept (f : Nat)
  /-- WEIGHT_LOAD_END (R297). -/
  | weightLoadEnd (n : Nat)
  /-- PLANE_SWAP (R299). -/
  | planeSwap (n : Nat)
  /-- VECTOR_START (R298). -/
  | vectorStart (n : Nat)
  /-- ROW_WRITE (R298). -/
  | rowWrite (n : Nat)
  /-- MDRAIN_EMIT (R302). -/
  | mdrainEmit (n : Nat)
  /-- REPEAT_CAPTURE (R304). -/
  | repeatCapture (n p : Nat)
  /-- SPILL_RETURN (R305). -/
  | spillReturn (n : Nat)
  /-- COPY_COMMAND_START (R328). -/
  | copyCommandStart (n : Nat)
  /-- COPY_TILE (R309). -/
  | copyTile (n : Nat)
  /-- COPY_COMPLETE (R289). -/
  | copyComplete (n : Nat)
  /-- RETIRED_FRAME_POST (R310). -/
  | retiredFramePost (d : Nat)
  /-- COLLECTIVE_RUN (R336). -/
  | collectiveRun (d grp : Nat)
  /-- COLLAPSE_MASK_GRANT (R348). -/
  | collapseMaskGrant (f : Nat)
  /-- COLLAPSE_DEADLINE (R348). -/
  | collapseDeadline (f : Nat)
  /-- CUT_START (R371). -/
  | cutStart (g : Nat)
  /-- ELEMENT_SNAPSHOT (R371). -/
  | elementSnapshot (e : Nat)
  /-- INPUT_CLOSE (R372). -/
  | inputClose (e c : Nat)
  /-- CUT_COMPLETE (R372). -/
  | cutComplete (g : Nat)
  /-- FAULT_DISPOSITION (R365). -/
  | faultDisposition (rec disp : Nat)
  /-- PREEMPT (R376). -/
  | preempt (l : Nat)
  /-- RESTORE (R378). -/
  | restore (l : Nat)
  /-- CLOCK_GATE (R381). -/
  | clockGate (t : Nat)
  /-- TILE_WAKE (R381). -/
  | tileWake (t : Nat)
  /-- STOP (R405). -/
  | stop
  /-- CRITICAL_PATH_WALK (R404). -/
  | criticalPathWalk (e : Nat)
  /-- HOST_WINDOW_ACCESS (R388). -/
  | hostWindowAccess (a : Nat)
  /-- CORE_ACCESS_TIMEOUT (R390). -/
  | coreAccessTimeout (core : Nat)
  /-- TICK_MASTER_LOSS (R397). -/
  | tickMasterLoss
  /-- POWER_UP (R408). -/
  | powerUp
  /-- ATTESTATION (R411). -/
  | attestation
  /-- TICK_FLIT_SEND (R397). -/
  | tickFlitSend
deriving DecidableEq, Repr, Inhabited

end Sys2Proof
end

