-- ==== Sys2Proof/Machine/Forms.lean ====
section
/-! DEFINITION. The opcode map and the forms of the instructions: which fields each opcode uses, in which kind of element it
stands, what its MODE and TACT mean, and the load checks of one operation word (spec/03_encoding.md R53 to R62, R68 and the
forms tables of the instruction chapters). -/

namespace Sys2Proof

/-- The fields of an operation word as numbers (R53), with the XD bits of the update word (R17). -/
structure Raw where
  opc : Nat
  a : Nat
  b : Nat
  d1 : Nat
  d2 : Nat
  tact : Nat
  mode : Nat
  xd1 : Bool
  xd2 : Bool
deriving DecidableEq, Repr, Inhabited

/-- The load refusals of one operation word, by the reason code of R68. -/
inductive Reject where
  | badOp | badKind | badUpd | badSrc | badDst | badMode | markEmit | badTag | badFmt
deriving DecidableEq, Repr, Inhabited

/-- Source select codes (R54). -/
def Src.code : Src → Nat
  | .d n => if n.val < 8 then n.val else 16 + n.val
  | .head n => 8 + n.val
  | .lit n => 12 + n.val
  | .zero => 20
  | .ones => 21
  | .wv => 22
  | .lane => 23

/-- The source a code names (R54); a code has 5 bits, so 24 to 31 are d8 to d15. -/
def Src.ofCode (c : Nat) : Src :=
  if c < 8 then .d (Fin.ofNat 16 c)
  else if c < 12 then .head (Fin.ofNat 4 (c - 8))
  else if c < 20 then .lit (Fin.ofNat 8 (c - 12))
  else if c = 20 then .zero
  else if c = 21 then .ones
  else if c = 22 then .wv
  else if c = 23 then .lane
  else .d (Fin.ofNat 16 (c - 16))

/-- Destination select code and XD bit (R55, R18). -/
def Dst.code : Dst → Nat × Bool
  | .d n => if n.val < 8 then (n.val, false) else (n.val - 8, true)
  | .chan n => (8 + n.val, false)
  | .none => (12, false)

/-- The destination a code and its XD bit name (R55, R18); reserved codes are refused before (check 12). -/
def Dst.ofCode (c : Nat) (xd : Bool) : Dst :=
  if c < 8 then .d (Fin.ofNat 16 (if xd then c + 8 else c))
  else if c < 12 then .chan (Fin.ofNat 4 (c - 8))
  else .none

/-- The operands of a raw word. -/
def Raw.op (r : Raw) : Op :=
  ⟨Src.ofCode r.a, Src.ofCode r.b, Dst.ofCode r.d1 r.xd1, Dst.ofCode r.d2 r.xd2, Fin.ofNat 16 r.tact, Fin.ofNat 4 r.mode⟩

/-- The raw word of an opcode with its operands. -/
def Op.raw (o : Op) (c : Nat) : Raw :=
  ⟨c, o.a.code, o.b.code, o.d1.code.1, o.d2.code.1, o.tact.val, o.mode.val, o.d1.code.2, o.d2.code.2⟩


/-- The opcode and operands of an instruction of R62; none for a step that no operation word encodes. -/
def Instr.parts : Instr → Option (Nat × Op)
  | .nop o => some (0x00, o)
  | .pass o => some (0x01, o)
  | .dup o => some (0x02, o)
  | .swap o => some (0x03, o)
  | .gate o => some (0x04, o)
  | .steer o => some (0x05, o)
  | .tagof o => some (0x06, o)
  | .retag o => some (0x07, o)
  | .iter o => some (0x08, o)
  | .iters o => some (0x09, o)
  | .wave o => some (0x0A, o)
  | .ebb o => some (0x0B, o)
  | .halt o => some (0x0C, o)
  | .occ o => some (0x0D, o)
  | .add o => some (0x10, o)
  | .sub o => some (0x11, o)
  | .neg o => some (0x12, o)
  | .mul o => some (0x13, o)
  | .mulh o => some (0x14, o)
  | .mulhu o => some (0x15, o)
  | .mad o => some (0x16, o)
  | .divu o => some (0x17, o)
  | .remu o => some (0x18, o)
  | .div o => some (0x19, o)
  | .rem o => some (0x1A, o)
  | .addsat o => some (0x1B, o)
  | .subsat o => some (0x1C, o)
  | .abs o => some (0x1D, o)
  | .min o => some (0x1E, o)
  | .max o => some (0x1F, o)
  | .minu o => some (0x20, o)
  | .maxu o => some (0x21, o)
  | .and o => some (0x22, o)
  | .or o => some (0x23, o)
  | .xor o => some (0x24, o)
  | .andn o => some (0x25, o)
  | .orn o => some (0x26, o)
  | .not o => some (0x27, o)
  | .addw o => some (0x28, o)
  | .subw o => some (0x29, o)
  | .mulw o => some (0x2A, o)
  | .sextb o => some (0x2B, o)
  | .sexth o => some (0x2C, o)
  | .sextw o => some (0x2D, o)
  | .zextb o => some (0x2E, o)
  | .zexth o => some (0x2F, o)
  | .ceq o => some (0x30, o)
  | .cne o => some (0x31, o)
  | .clt o => some (0x32, o)
  | .cle o => some (0x33, o)
  | .cltu o => some (0x34, o)
  | .cleu o => some (0x35, o)
  | .ctst o => some (0x36, o)
  | .cmovnz o => some (0x37, o)
  | .cmovz o => some (0x38, o)
  | .zextw o => some (0x39, o)
  | .shl o => some (0x40, o)
  | .shr o => some (0x41, o)
  | .sar o => some (0x42, o)
  | .rol o => some (0x43, o)
  | .ror o => some (0x44, o)
  | .clz o => some (0x45, o)
  | .ctz o => some (0x46, o)
  | .popc o => some (0x47, o)
  | .brev o => some (0x48, o)
  | .bswap o => some (0x49, o)
  | .bfx o => some (0x4A, o)
  | .bfi o => some (0x4B, o)
  | .lea o => some (0x4C, o)
  | .hash o => some (0x4D, o)
  | .draw o => some (0x4E, o)
  | .fadd o => some (0x50, o)
  | .fsub o => some (0x51, o)
  | .fmul o => some (0x52, o)
  | .fma o => some (0x53, o)
  | .fms o => some (0x54, o)
  | .fnma o => some (0x55, o)
  | .fmin o => some (0x56, o)
  | .fmax o => some (0x57, o)
  | .fabs o => some (0x58, o)
  | .fneg o => some (0x59, o)
  | .fcopysign o => some (0x5A, o)
  | .fceq o => some (0x5B, o)
  | .fclt o => some (0x5C, o)
  | .fcle o => some (0x5D, o)
  | .fcun o => some (0x5E, o)
  | .fclass o => some (0x5F, o)
  | .frint o => some (0x60, o)
  | .ffloor o => some (0x61, o)
  | .fceil o => some (0x62, o)
  | .ftrunc o => some (0x63, o)
  | .fexp2f o => some (0x64, o)
  | .fldexp o => some (0x65, o)
  | .fgetexp o => some (0x66, o)
  | .fgetmant o => some (0x67, o)
  | .frcp o => some (0x68, o)
  | .frsq o => some (0x69, o)
  | .flog2f o => some (0x6A, o)
  | .cvt o => some (0x70, o)
  | .cvts o => some (0x71, o)
  | .cvti o => some (0x72, o)
  | .cvtit o => some (0x73, o)
  | .cvtf o => some (0x74, o)
  | .cvtfu o => some (0x75, o)
  | .pack o => some (0x76, o)
  | .unpack o => some (0x77, o)
  | .scale o => some (0x78, o)
  | .fmtof o => some (0x79, o)
  | .vbcast o => some (0x80, o)
  | .vredadd o => some (0x81, o)
  | .vredmax o => some (0x82, o)
  | .vredmin o => some (0x83, o)
  | .vargmax o => some (0x84, o)
  | .vscan o => some (0x85, o)
  | .vperm o => some (0x86, o)
  | .vslide o => some (0x87, o)
  | .vextr o => some (0x88, o)
  | .vins o => some (0x89, o)
  | .vdot o => some (0x8A, o)
  | .vmask o => some (0x8B, o)
  | .vcompress o => some (0x8C, o)
  | .vlaneid o => some (0x8D, o)
  | .ld o => some (0x90, o)
  | .st o => some (0x91, o)
  | .ldc o => some (0x92, o)
  | .stc o => some (0x93, o)
  | .cnop o => some (0x94, o)
  | .lds o => some (0x95, o)
  | .sts o => some (0x96, o)
  | .aadd o => some (0x97, o)
  | .amin o => some (0x98, o)
  | .amax o => some (0x99, o)
  | .aand o => some (0x9A, o)
  | .aor o => some (0x9B, o)
  | .axor o => some (0x9C, o)
  | .axchg o => some (0x9D, o)
  | .acas o => some (0x9E, o)
  | .afadd o => some (0x9F, o)
  | .pref o => some (0xA0, o)
  | .bounds o => some (0xA1, o)
  | .achn o => some (0xA2, o)
  | .acq o => some (0xB0, o)
  | .acqs o => some (0xB1, o)
  | .rel o => some (0xB2, o)
  | .fence o => some (0xB3, o)
  | .waitv o => some (0xB4, o)
  | .notify o => some (0xB5, o)
  | .park o => some (0xB6, o)
  | .bar o => some (0xB7, o)
  | .arrive o => some (0xB8, o)
  | .taskdone o => some (0xB9, o)
  | .launch o => some (0xBA, o)
  | .mload o => some (0xC0, o)
  | .mswap o => some (0xC1, o)
  | .mstream o => some (0xC2, o)
  | .mmode o => some (0xC3, o)
  | .mdrain o => some (0xC4, o)
  | .mclr o => some (0xC5, o)
  | .rptset o => some (0xC6, o)
  | .rptend o => some (0xC7, o)
  | .cpy o => some (0xD0, o)
  | .cpyr o => some (0xD1, o)
  | .cpyg o => some (0xD2, o)
  | .cpys o => some (0xD3, o)
  | .cpym o => some (0xD4, o)
  | .publish o => some (0xD5, o)
  | .freed o => some (0xD6, o)
  | .coll o => some (0xD7, o)
  | .collarg o => some (0xD8, o)
  | .cpyq o => some (0xD9, o)
  | .sth o => some (0xE0, o)
  | .stm o => some (0xE1, o)
  | .stt o => some (0xE2, o)
  | .stfeed o => some (0xE3, o)
  | .collapse o => some (0xE4, o)
  | .accept o => some (0xE5, o)
  | .gmask o => some (0xE6, o)
  | .topn o => some (0xE7, o)
  | .tokrec o => some (0xE8, o)
  | .hallmark o => some (0xE9, o)
  | .kvfind o => some (0xEA, o)
  | .kvins o => some (0xEB, o)
  | .posadv o => some (0xEC, o)
  | .logrec o => some (0xED, o)
  | .pqexp o => some (0xEE, o)
  | .trap o => some (0xF0, o)
  | .brk o => some (0xF1, o)
  | .rdsr o => some (0xF2, o)
  | .wrsr o => some (0xF3, o)
  | .probe o => some (0xF4, o)
  | .tick o => some (0xF5, o)
  | .fret o => some (0xF6, o)
  | .yield o => some (0xF7, o)
  | .fireComplete _ => none
  | .tokenArrival _ _ => none
  | .routeToken _ _ => none
  | .advanceWord _ _ => none
  | .swageRepack _ _ => none
  | .feedDeliver _ _ => none
  | .sinkStore _ _ => none
  | .soloQuiet _ => none
  | .ebbDrain _ _ => none
  | .elementDrained _ => none
  | .tileSwap _ => none
  | .haltComplete _ => none
  | .qtailWrite _ _ => none
  | .queueEnable _ _ => none
  | .queueDisable _ _ => none
  | .qstatClear _ _ => none
  | .launchDecode => none
  | .preloadRelease _ => none
  | .launchPlace _ => none
  | .coldLoadEnd _ => none
  | .followOnLoad _ => none
  | .invocationBoundary _ => none
  | .launchComplete _ => none
  | .budgetExpiry _ => none
  | .quiescentIncomplete _ => none
  | .hang _ => none
  | .addressTranslate _ => none
  | .faultHoldExpiry _ => none
  | .xresolve _ => none
  | .xinv _ => none
  | .xinvDone => none
  | .migrationStart _ => none
  | .migrationCopy => none
  | .migrationDone => none
  | .xmigstClear _ => none
  | .xack _ => none
  | .ringCountWrite _ _ => none
  | .registerWrite _ _ => none
  | .storeArrival _ => none
  | .atomicPerform _ => none
  | .memoryReply _ => none
  | .boundsLoaded _ => none
  | .syncRequest _ => none
  | .relUpdate _ => none
  | .waitvTest _ => none
  | .waitvRetry _ => none
  | .barrierOpen _ _ _ => none
  | .chainArrival _ => none
  | .chainRelease _ _ => none
  | .gapStall _ _ => none
  | .eccRetry _ _ => none
  | .linkCrcRetry _ _ => none
  | .slotParityRefetch _ _ _ => none
  | .dataLost _ => none
  | .unitCommandAccept _ => none
  | .weightLoadEnd _ => none
  | .planeSwap _ => none
  | .vectorStart _ => none
  | .rowWrite _ => none
  | .mdrainEmit _ => none
  | .repeatCapture _ _ => none
  | .spillReturn _ => none
  | .copyCommandStart _ => none
  | .copyTile _ => none
  | .copyComplete _ => none
  | .retiredFramePost _ => none
  | .collectiveRun _ _ => none
  | .collapseMaskGrant _ => none
  | .collapseDeadline _ => none
  | .cutStart _ => none
  | .elementSnapshot _ => none
  | .inputClose _ _ => none
  | .cutComplete _ => none
  | .faultDisposition _ _ => none
  | .preempt _ => none
  | .restore _ => none
  | .clockGate _ => none
  | .tileWake _ => none
  | .controlStoreWrite _ _ => none
  | .frrel _ => none
  | .stopArm _ => none
  | .stop => none
  | .stopResume => none
  | .dbgprobeGo _ => none
  | .criticalPathWalk _ => none
  | .brkresContinue => none
  | .brkresAbort => none
  | .hostMemWrite _ _ => none
  | .hostMemRead _ _ => none
  | .hostWindowAccess _ => none
  | .coreAccess _ _ => none
  | .coreAccessTimeout _ => none
  | .coreWakeStore _ _ _ => none
  | .coreAmo _ _ => none
  | .flitCollectiveData _ _ => none
  | .flitTick _ _ => none
  | .flitControl _ _ => none
  | .flitNak _ _ => none
  | .tickMasterLoss => none
  | .partitionRecovery _ => none
  | .powerUp => none
  | .firmwareStage => none
  | .attestation => none
  | .ringEnSet _ _ => none
  | .powerGate _ _ => none
  | .flitIdle _ _ => none
  | .reset => none
  | .tickFlitSend => none

/-- The operands of an instruction of R62. -/
def Instr.op (i : Instr) : Option Op := i.parts.map (·.2)

/-- The opcode of an instruction of R62. -/
def Instr.opcode (i : Instr) : Option Nat := i.parts.map (·.1)

/-- The instructions of row 0 of R62, by the low digit. -/
def mkRow0 (l : Nat) (o : Op) : Option Instr :=
  match l with
  | 0 => some (.nop o)
  | 1 => some (.pass o)
  | 2 => some (.dup o)
  | 3 => some (.swap o)
  | 4 => some (.gate o)
  | 5 => some (.steer o)
  | 6 => some (.tagof o)
  | 7 => some (.retag o)
  | 8 => some (.iter o)
  | 9 => some (.iters o)
  | 10 => some (.wave o)
  | 11 => some (.ebb o)
  | 12 => some (.halt o)
  | 13 => some (.occ o)
  | _ => none

/-- The instructions of row 1 of R62, by the low digit. -/
def mkRow1 (l : Nat) (o : Op) : Option Instr :=
  match l with
  | 0 => some (.add o)
  | 1 => some (.sub o)
  | 2 => some (.neg o)
  | 3 => some (.mul o)
  | 4 => some (.mulh o)
  | 5 => some (.mulhu o)
  | 6 => some (.mad o)
  | 7 => some (.divu o)
  | 8 => some (.remu o)
  | 9 => some (.div o)
  | 10 => some (.rem o)
  | 11 => some (.addsat o)
  | 12 => some (.subsat o)
  | 13 => some (.abs o)
  | 14 => some (.min o)
  | 15 => some (.max o)
  | _ => none

/-- The instructions of row 2 of R62, by the low digit. -/
def mkRow2 (l : Nat) (o : Op) : Option Instr :=
  match l with
  | 0 => some (.minu o)
  | 1 => some (.maxu o)
  | 2 => some (.and o)
  | 3 => some (.or o)
  | 4 => some (.xor o)
  | 5 => some (.andn o)
  | 6 => some (.orn o)
  | 7 => some (.not o)
  | 8 => some (.addw o)
  | 9 => some (.subw o)
  | 10 => some (.mulw o)
  | 11 => some (.sextb o)
  | 12 => some (.sexth o)
  | 13 => some (.sextw o)
  | 14 => some (.zextb o)
  | 15 => some (.zexth o)
  | _ => none

/-- The instructions of row 3 of R62, by the low digit. -/
def mkRow3 (l : Nat) (o : Op) : Option Instr :=
  match l with
  | 0 => some (.ceq o)
  | 1 => some (.cne o)
  | 2 => some (.clt o)
  | 3 => some (.cle o)
  | 4 => some (.cltu o)
  | 5 => some (.cleu o)
  | 6 => some (.ctst o)
  | 7 => some (.cmovnz o)
  | 8 => some (.cmovz o)
  | 9 => some (.zextw o)
  | _ => none

/-- The instructions of row 4 of R62, by the low digit. -/
def mkRow4 (l : Nat) (o : Op) : Option Instr :=
  match l with
  | 0 => some (.shl o)
  | 1 => some (.shr o)
  | 2 => some (.sar o)
  | 3 => some (.rol o)
  | 4 => some (.ror o)
  | 5 => some (.clz o)
  | 6 => some (.ctz o)
  | 7 => some (.popc o)
  | 8 => some (.brev o)
  | 9 => some (.bswap o)
  | 10 => some (.bfx o)
  | 11 => some (.bfi o)
  | 12 => some (.lea o)
  | 13 => some (.hash o)
  | 14 => some (.draw o)
  | _ => none

/-- The instructions of row 5 of R62, by the low digit. -/
def mkRow5 (l : Nat) (o : Op) : Option Instr :=
  match l with
  | 0 => some (.fadd o)
  | 1 => some (.fsub o)
  | 2 => some (.fmul o)
  | 3 => some (.fma o)
  | 4 => some (.fms o)
  | 5 => some (.fnma o)
  | 6 => some (.fmin o)
  | 7 => some (.fmax o)
  | 8 => some (.fabs o)
  | 9 => some (.fneg o)
  | 10 => some (.fcopysign o)
  | 11 => some (.fceq o)
  | 12 => some (.fclt o)
  | 13 => some (.fcle o)
  | 14 => some (.fcun o)
  | 15 => some (.fclass o)
  | _ => none

/-- The instructions of row 6 of R62, by the low digit. -/
def mkRow6 (l : Nat) (o : Op) : Option Instr :=
  match l with
  | 0 => some (.frint o)
  | 1 => some (.ffloor o)
  | 2 => some (.fceil o)
  | 3 => some (.ftrunc o)
  | 4 => some (.fexp2f o)
  | 5 => some (.fldexp o)
  | 6 => some (.fgetexp o)
  | 7 => some (.fgetmant o)
  | 8 => some (.frcp o)
  | 9 => some (.frsq o)
  | 10 => some (.flog2f o)
  | _ => none

/-- The instructions of row 7 of R62, by the low digit. -/
def mkRow7 (l : Nat) (o : Op) : Option Instr :=
  match l with
  | 0 => some (.cvt o)
  | 1 => some (.cvts o)
  | 2 => some (.cvti o)
  | 3 => some (.cvtit o)
  | 4 => some (.cvtf o)
  | 5 => some (.cvtfu o)
  | 6 => some (.pack o)
  | 7 => some (.unpack o)
  | 8 => some (.scale o)
  | 9 => some (.fmtof o)
  | _ => none

/-- The instructions of row 8 of R62, by the low digit. -/
def mkRow8 (l : Nat) (o : Op) : Option Instr :=
  match l with
  | 0 => some (.vbcast o)
  | 1 => some (.vredadd o)
  | 2 => some (.vredmax o)
  | 3 => some (.vredmin o)
  | 4 => some (.vargmax o)
  | 5 => some (.vscan o)
  | 6 => some (.vperm o)
  | 7 => some (.vslide o)
  | 8 => some (.vextr o)
  | 9 => some (.vins o)
  | 10 => some (.vdot o)
  | 11 => some (.vmask o)
  | 12 => some (.vcompress o)
  | 13 => some (.vlaneid o)
  | _ => none

/-- The instructions of row 9 of R62, by the low digit. -/
def mkRow9 (l : Nat) (o : Op) : Option Instr :=
  match l with
  | 0 => some (.ld o)
  | 1 => some (.st o)
  | 2 => some (.ldc o)
  | 3 => some (.stc o)
  | 4 => some (.cnop o)
  | 5 => some (.lds o)
  | 6 => some (.sts o)
  | 7 => some (.aadd o)
  | 8 => some (.amin o)
  | 9 => some (.amax o)
  | 10 => some (.aand o)
  | 11 => some (.aor o)
  | 12 => some (.axor o)
  | 13 => some (.axchg o)
  | 14 => some (.acas o)
  | 15 => some (.afadd o)
  | _ => none

/-- The instructions of row A of R62, by the low digit. -/
def mkRowA (l : Nat) (o : Op) : Option Instr :=
  match l with
  | 0 => some (.pref o)
  | 1 => some (.bounds o)
  | 2 => some (.achn o)
  | _ => none

/-- The instructions of row B of R62, by the low digit. -/
def mkRowB (l : Nat) (o : Op) : Option Instr :=
  match l with
  | 0 => some (.acq o)
  | 1 => some (.acqs o)
  | 2 => some (.rel o)
  | 3 => some (.fence o)
  | 4 => some (.waitv o)
  | 5 => some (.notify o)
  | 6 => some (.park o)
  | 7 => some (.bar o)
  | 8 => some (.arrive o)
  | 9 => some (.taskdone o)
  | 10 => some (.launch o)
  | _ => none

/-- The instructions of row C of R62, by the low digit. -/
def mkRowC (l : Nat) (o : Op) : Option Instr :=
  match l with
  | 0 => some (.mload o)
  | 1 => some (.mswap o)
  | 2 => some (.mstream o)
  | 3 => some (.mmode o)
  | 4 => some (.mdrain o)
  | 5 => some (.mclr o)
  | 6 => some (.rptset o)
  | 7 => some (.rptend o)
  | _ => none

/-- The instructions of row D of R62, by the low digit. -/
def mkRowD (l : Nat) (o : Op) : Option Instr :=
  match l with
  | 0 => some (.cpy o)
  | 1 => some (.cpyr o)
  | 2 => some (.cpyg o)
  | 3 => some (.cpys o)
  | 4 => some (.cpym o)
  | 5 => some (.publish o)
  | 6 => some (.freed o)
  | 7 => some (.coll o)
  | 8 => some (.collarg o)
  | 9 => some (.cpyq o)
  | _ => none

/-- The instructions of row E of R62, by the low digit. -/
def mkRowE (l : Nat) (o : Op) : Option Instr :=
  match l with
  | 0 => some (.sth o)
  | 1 => some (.stm o)
  | 2 => some (.stt o)
  | 3 => some (.stfeed o)
  | 4 => some (.collapse o)
  | 5 => some (.accept o)
  | 6 => some (.gmask o)
  | 7 => some (.topn o)
  | 8 => some (.tokrec o)
  | 9 => some (.hallmark o)
  | 10 => some (.kvfind o)
  | 11 => some (.kvins o)
  | 12 => some (.posadv o)
  | 13 => some (.logrec o)
  | 14 => some (.pqexp o)
  | _ => none

/-- The instructions of row F of R62, by the low digit. -/
def mkRowF (l : Nat) (o : Op) : Option Instr :=
  match l with
  | 0 => some (.trap o)
  | 1 => some (.brk o)
  | 2 => some (.rdsr o)
  | 3 => some (.wrsr o)
  | 4 => some (.probe o)
  | 5 => some (.tick o)
  | 6 => some (.fret o)
  | 7 => some (.yield o)
  | _ => none

/-- The instruction of an opcode with its operands (R62); none for an unassigned opcode. -/
def mkInstr (c : Nat) (o : Op) : Option Instr :=
  match c / 16 with
  | 0 => mkRow0 (c % 16) o
  | 1 => mkRow1 (c % 16) o
  | 2 => mkRow2 (c % 16) o
  | 3 => mkRow3 (c % 16) o
  | 4 => mkRow4 (c % 16) o
  | 5 => mkRow5 (c % 16) o
  | 6 => mkRow6 (c % 16) o
  | 7 => mkRow7 (c % 16) o
  | 8 => mkRow8 (c % 16) o
  | 9 => mkRow9 (c % 16) o
  | 10 => mkRowA (c % 16) o
  | 11 => mkRowB (c % 16) o
  | 12 => mkRowC (c % 16) o
  | 13 => mkRowD (c % 16) o
  | 14 => mkRowE (c % 16) o
  | 15 => mkRowF (c % 16) o
  | _ => none

/-- The assigned opcodes of R62. -/
def assigned (c : Nat) : Bool := (mkInstr c default).isSome

/-- c lies in lo to hi. -/
def inR (c lo hi : Nat) : Bool := decide (lo ≤ c) && decide (c ≤ hi)

/-- Opcodes that leave SRCA unused (the forms tables R103, R123, R147, R249, R206, R319, R342). -/
def usesA (c : Nat) : Bool := !([0x00, 0x0B, 0x0D, 0x4E, 0x8D, 0x94, 0xB3, 0xB9, 0xC1, 0xD9, 0xEC].contains c)

/-- Opcodes that use SRCB. -/
def usesB (c : Nat) : Bool :=
  !([0x00, 0x01, 0x02, 0x06, 0x0B, 0x0C, 0x0D, 0x12, 0x1D, 0x27, 0x4E, 0x58, 0x59, 0x8B].contains c
    || inR c 0x2B 0x2F || c == 0x39 || inR c 0x45 0x49 || inR c 0x5F 0x64 || inR c 0x66 0x6A || inR c 0x70 0x75 || c == 0x79
    || [0x90, 0x92, 0x94, 0x95, 0xA0, 0xB3, 0xB6, 0xB7, 0xB9, 0xBA, 0xE5, 0xE6, 0xE7, 0xE9, 0xEA, 0xEE,
        0xF0, 0xF1, 0xF2, 0xF5, 0xF7].contains c)

/-- Opcodes that use DST1. -/
def usesD1 (c : Nat) : Bool :=
  !([0x00, 0x0C, 0x91, 0x93, 0x94, 0x96, 0xA0, 0xA1, 0xB2, 0xB3, 0xB5, 0xB8, 0xD6, 0xE6, 0xF0, 0xF1, 0xF4, 0xF6, 0xF7].contains c)

/-- Opcodes that use DST2. -/
def usesD2 (c : Nat) : Bool := usesD1 c && !([0x01, 0x04, 0x0A].contains c)

/-- Opcodes with a predicate result (R99 and the forms tables). -/
def hasPred (c : Nat) : Bool :=
  [0x04, 0x05, 0x06, 0x08, 0x09, 0x0D, 0x10, 0x11, 0x12, 0x13, 0x1B, 0x1C, 0x1D, 0x4C, 0x8B, 0x8C, 0x9E, 0xB6, 0xB7, 0xB9,
   0xE4, 0xE5, 0xEA, 0xEB, 0xEC].contains c
    || inR c 0x17 0x1A || inR c 0x30 0x38 || inR c 0x45 0x49 || inR c 0x5B 0x5E || inR c 0xB0 0xB4 || inR c 0xC0 0xC7
    || inR c 0xD0 0xD9

/-- Opcodes that read the register named by DST1 (R101, R126, R256). -/
def readsOld (c : Nat) : Bool := [0x16, 0x37, 0x38, 0x4B, 0x53, 0x54, 0x55, 0x89, 0x8A, 0x9E].contains c

/-- Opcodes whose channel destination is a reply channel (R55). -/
def isReply (c : Nat) : Bool := inR c 0x90 0xA2 || inR c 0xB0 0xB4 || inR c 0xC0 0xC7 || inR c 0xD0 0xD9

/-- Whether an opcode may stand in a narrow element (R61). -/
def inNarrow (c : Nat) : Bool := !inR c 0x80 0x8D

/-- Whether an opcode may stand in a wide element (R61). -/
def inWide (c : Nat) : Bool :=
  !(c == 0x4C || inR c 0x97 0x9F || c == 0xA2 || inR c 0xB0 0xBA || inR c 0xC0 0xC7 || inR c 0xD0 0xD9 || inR c 0xE0 0xEE)

/-- Opcodes whose TACT holds a target format (R59). -/
def isConv (c : Nat) : Bool := inR c 0x70 0x79

/-- Opcodes whose TACT names a chain literal (R59). -/
def isChain (c : Nat) : Bool := [0x92, 0x93, 0x94, 0xA2].contains c

/-- Opcodes whose TACT is a tag or the tag of a reply (R61). The TACT of PREF and BOUNDS, which R61 gives as 0 and no rule reads, counts among them:
a nonzero one is refused as a tag, at check 14 for 4 and at check 15 else. [DESIGN CHOICE: log 80] -/
def tactIsTag (c : Nat) : Bool := !(isConv c || isChain c || c == 0x4C)

/-- Float lane and cross-lane opcodes: MODE 0 to 3 name a format (R61). -/
def isFloatMode (c : Nat) : Bool := inR c 0x50 0x6A || inR c 0x80 0x8D

/-- The MODE values that R61 defines for an opcode. -/
def modeOk (wide : Bool) (c m : Nat) : Bool :=
  if inR c 0x10 0x27 || inR c 0x30 0x38 || inR c 0x40 0x4B then true
  else if c == 0x4C then decide (m ≤ 1)
  else if isFloatMode c then true
  else if [0x70, 0x72, 0x74, 0x75, 0x78].contains c then decide (m ≤ 2)
  else if [0x90, 0x91, 0x92, 0x93, 0x95, 0x96].contains c then !wide || m == 0
  else if inR c 0x97 0x9E || c == 0xA2 then decide (m ≤ 1)
  else if c == 0x9F then m == 1
  else m == 0

/-- A target code an opcode of the conversion group accepts (R139). -/
def targetOk (c t : Nat) : Bool :=
  if c == 0x72 || c == 0x73 then inR t 1 6
  else if c == 0x76 || c == 0x77 then inR t 1 13
  else if c == 0x79 then decide (t ≤ 14)
  else inR t 7 13

/-- A source code is a head (8 to 11). -/
def isHead (s : Nat) : Bool := inR s 8 11

/-- A destination code is a channel (8 to 11). -/
def isChan (d : Nat) : Bool := inR d 8 11

/-- Check 6 of R68: the opcode is assigned. -/
def Raw.c6 (r : Raw) : Bool := assigned r.opc

/-- Check 7 of R68: the opcode may stand in the element's kind; VBCAST only in a replicate element. -/
def Raw.c7 (r : Raw) (wide repl : Bool) : Bool :=
  (if wide then inWide r.opc else inNarrow r.opc) && (r.opc != 0x80 || repl)

/-- The XD conditions of check 9 (R19): an XD bit stands only with a code 0 to 7. -/
def Raw.c9 (r : Raw) : Bool := (!r.xd1 || decide (r.d1 < 8)) && (!r.xd2 || decide (r.d2 < 8))

/-- Check 10 of R68 but for heads: an unused source is 20; TAGOF's A is a head (R102). -/
def Raw.c10 (r : Raw) : Bool :=
  (usesA r.opc || r.a == 20) && (usesB r.opc || r.b == 20) && (r.opc != 0x06 || isHead r.a)

/-- Check 12 of R68 with the destination conditions of R102, R126, R207, R250, R320 and R342. -/
def Raw.c12 (r : Raw) : Bool :=
  decide (r.d1 ≤ 12) && decide (r.d2 ≤ 12)
  && (usesD1 r.opc || r.d1 == 12) && (usesD2 r.opc || r.d2 == 12)
  && !(r.d1 != 12 && r.d2 != 12 && r.d1 == r.d2 && r.xd1 == r.xd2)
  && (!(r.opc == 0x02 || r.opc == 0x03) || (r.d1 != 12 && r.d2 != 12))
  && (r.opc != 0x07 || isChan r.d1 || isChan r.d2)
  && (r.opc != 0x0B || ((isChan r.d1 || r.d1 == 12) && (isChan r.d2 || r.d2 == 12) && !(r.d1 == 12 && r.d2 == 12)))
  && (!readsOld r.opc || decide (r.d1 < 8))
  && (!isReply r.opc || !isChan r.d2)

/-- Check 13 of R68: MODE is defined for the opcode; FA does not stand with a constant source A, nor in VLANEID. -/
def Raw.c13 (r : Raw) (wide : Bool) : Bool :=
  modeOk wide r.opc r.mode && !(isFloatMode r.opc && r.mode == 0 && inR r.a 20 23)

/-- Check 14 of R68: no tag action emits MARK. -/
def Raw.c14 (r : Raw) : Bool := !(tactIsTag r.opc && r.tact == 4)

/-- Check 15 of R68: tag actions 8 to 15 and those without a channel (R58, R102). -/
def Raw.c15 (r : Raw) : Bool :=
  !tactIsTag r.opc ||
    (decide (r.tact < 12)
      && (r.tact != 8 || isHead r.a) && (r.tact != 9 || isHead r.b) && (r.tact != 10 || isHead r.a || isHead r.b)
      && (r.tact != 11 || r.opc == 0x08 || r.opc == 0x09)
      && (r.tact == 0 || ((isChan r.d1 || isChan r.d2) && r.opc != 0x07 && r.opc != 0x0B)))

/-- Check 16 of R68 but for literals: conversion targets and chain literal indices (R59, R139). -/
def Raw.c16 (r : Raw) : Bool :=
  (!isConv r.opc || targetOk r.opc r.tact) && (!isChain r.opc || decide (r.tact < 8))

/-- The checks of one operation word in the order of R68, each with its reason code. [DEDUCED: log 68] -/
def Raw.firstFail (r : Raw) (wide repl : Bool) : Option Reject :=
  if !r.c6 then some .badOp
  else if !r.c7 wide repl then some .badKind
  else if !r.c9 then some .badUpd
  else if !r.c10 then some .badSrc
  else if !r.c12 then some .badDst
  else if !r.c13 wide then some .badMode
  else if !r.c14 then some .markEmit
  else if !r.c15 then some .badTag
  else if !r.c16 then some .badFmt
  else none

end Sys2Proof
end

