-- ==== Sys2Proof/WellFormed.lean ====
section
/-! DEFINITION. When an instruction is well formed in an element of a kind: its operation word passes the load checks of
R68 (spec/03_encoding.md) that concern one word. -/

namespace Sys2Proof

/-- i may stand in an element that is wide or not, replicate or not: its word passes the checks of R68 in one word. A step
that no operation word encodes has no word to check. -/
def Instr.wellFormed (wide repl : Bool) (i : Instr) : Bool :=
  match i.parts with
  | some (c, o) => (o.raw c).firstFail wide repl == none
  | none => true

end Sys2Proof
end

