-- ==== Sys2Proof/Decode.lean ====
section
/-! DEFINITION. The decoder of operation words, total on any bits and rejecting by the reason codes of R68, and the encoder,
both from the field table R53 (spec/03_encoding.md). -/

namespace Sys2Proof

/-- The fields of an operation word (R53) with the XD bits of its update word. -/
def Raw.ofWord (w : Word32) (xd1 xd2 : Bool) : Raw :=
  let n := w.toNat
  ⟨bits n 31 24, bits n 23 19, bits n 18 14, bits n 13 10, bits n 9 6, bits n 5 2, bits n 1 0, xd1, xd2⟩

/-- The operation word of its fields (R53). -/
def Raw.toWord (r : Raw) : Word32 :=
  BitVec.ofNat 32
    (r.opc * 2 ^ 24 + r.a * 2 ^ 19 + r.b * 2 ^ 14 + r.d1 * 2 ^ 10 + r.d2 * 2 ^ 6 + r.tact * 2 ^ 2 + r.mode)

/-- The instruction that an operation word holds in an element of a kind, or the reason code of the first check of R68 it
fails. [DEDUCED: log 68] -/
def decode (wide repl xd1 xd2 : Bool) (w : Word32) : Except Reject Instr :=
  let r := Raw.ofWord w xd1 xd2
  match r.firstFail wide repl with
  | some e => .error e
  | none =>
    match mkInstr r.opc r.op with
    | some i => .ok i
    | none => .error .badOp

/-- The operation word of an instruction of R62 and the XD bits of its update word; none for a step that no word encodes. -/
def encode (i : Instr) : Option (Word32 × Bool × Bool) :=
  i.parts.map fun p => let r := p.2.raw p.1; (r.toWord, r.xd1, r.xd2)

/-- The kind of element that decodes a word in a table check: narrow where the opcode may stand there, else wide, and
replicate, so that every opcode may stand. -/
def tableWide (w : Word32) : Bool := !inNarrow (bits w.toNat 31 24)

/-- The instruction the decoder reads from a word of the opcode table: its bits are an operation word (R53), the XD bits
clear, in an element of a kind that R61 allows. [DEDUCED: log 7] -/
def decodeTableWord (_nbits w : Nat) : Option Instr :=
  if w < 2 ^ 32 then
    match decode (tableWide (BitVec.ofNat 32 w)) true false false (BitVec.ofNat 32 w) with
    | .ok i => some i
    | .error _ => none
  else none

end Sys2Proof
end

