-- ==== Sys2Proof/Config.lean ====
section
/-! DEFINITION. What an implementation fixes and what the manual leaves open: the constants of the part, and free
values without a body, of which nothing can be proved but that they exist. -/

namespace Sys2Proof.Config

/-- A free delay in cycles for the n-th event whose time the manual leaves open (R232 "about 400 ns", R235, R342). [DESIGN CHOICE: log 5] -/
opaque freeDelay : Nat → Nat
/-- A free 64-bit value for the n-th open value. [DESIGN CHOICE: log 4] -/
opaque freeValue : Nat → Word
/-- A free choice among k alternatives (taken modulo k) where the manual gives no rule. [DESIGN CHOICE: log 4] -/
opaque freeChoice : Nat → Nat
/-- The byte that a read of a poisoned block finds at an address, by tick and open values taken, where its reader has no failing path (R369). [DESIGN CHOICE: log 96] -/
opaque lostByte : Nat → Nat → Nat → Byte
/-- A free link word, where the manual leaves a whole word open. [DESIGN CHOICE: log 4] -/
opaque freeWord : Nat → LinkWord
/-- The payload byte i of block j of the n-th save: the layout is the device's own (R374). [DESIGN CHOICE: log 40] -/
opaque savePayload : Nat → Nat → Nat → Byte
/-- The save key that the management core draws at the n-th READY, 32 bytes that never leave the device (R374). [DESIGN CHOICE: log 40] -/
opaque saveKey : Nat → List Byte
/-- The outcome of the n-th power-up's training and memory initialisation: 0 both pass, 1 training fails, 2 memory does (R408). [DESIGN CHOICE: log 32] -/
opaque bootFail : Nat → Nat
/-- The firmware image that the n-th boot finds to run where none is staged (R408, R409). [DESIGN CHOICE: log 32] -/
opaque firmwareImage : Nat → List Byte
/-- Whether a signature verifies over a digest under the fused key (R410). [DEDUCED: log 33] -/
opaque firmwareVerifies : List Byte → List Byte → Bool
/-- The bytes of an image's signature, whose place is not given: 4,627 bytes do not fit into a header of 4 KiB (R410). [DEDUCED: log 33] -/
opaque firmwareSignature : List Byte → List Byte
/-- What the n-th boot's test finds of die d: the repair byte of its tile k, and its other repair fields, MX, CE, COLL and XS from 0 (R370, R408). [DESIGN CHOICE: log 32] -/
opaque testedTile : Nat → Nat → Nat → Nat
opaque testedUnits : Nat → Nat → Nat → Nat
/-- The fused floor of security versions (R410). [DEDUCED: log 33] -/
opaque firmwareFloor : Nat
/-- The ML-DSA-87 signature by the device key over a digest (R411). [DEDUCED: log 34] -/
opaque attestationSignature : List Byte → List Byte

/-- The bytes of an image staged at a header of 4 KiB that follow the header: the place of the length in it is not given (R410). [DEDUCED: log 33] -/
opaque firmwareLength : List Byte → Nat
/-- The security version in a firmware header (R410). [DEDUCED: log 33] -/
opaque firmwareVersion : List Byte → Nat
/-- The payloads by which a package tells a participant of a partition group (record fields, data) to the others (R395): their form is not given. [DEDUCED: log 60] -/
opaque participantPayloads : List Nat → List Byte → List (List Byte)
/-- The participant (fire, record fields, data) that the payloads received from a device end in, if they do (R395). [DEDUCED: log 60] -/
opaque participantOf : List (List Byte) → Option (List Nat × List Byte)
/-- The payload of a control flit that brings word of a fenced device, and what a payload brings word of (R398). [DEDUCED: log 31] -/
opaque controlPayload : Nat → List Byte
opaque controlNotice : List Byte → Option Nat
/-- The device at the far end of a Brezil link, and the route byte that the management core gives device e after loss d (R398): the partition's
wiring and the core's choice lie outside the machine. [DEDUCED: log 31] -/
opaque farEnd : Nat → Nat
opaque reroute : Nat → Nat → Byte

/-- Bytes of HBM (R226). -/
def hbmSize : Nat := 0xC000000000
/-- Bytes of HBM in one stack (R226). -/
def stackSize : Nat := 0x1800000000
/-- Base of the scratchpad in physical space (R226). -/
def scratchBase : Nat := 0x8000000000000
/-- Bytes of scratchpad (R226). -/
def scratchSize : Nat := 0x40000000
/-- Base of the host memory window (R226). -/
def hostBase : Nat := 0xC000000000000
/-- End of the physical space of 52 bits (R226). -/
def physEnd : Nat := 0x10000000000000
/-- First byte of the global part of a slice (R227). -/
def globalBase : Nat := 0x30000
/-- First byte of the undo log in a slice when UNDO is set (R227). -/
def undoBase : Nat := 0x2C000
/-- Ticks of a microsecond at 3.6 GHz (R2). -/
def ticksPerMicro : Nat := 3600
/-- Cycles with no fire after which a solo launch is quiet (R34). -/
def quietCycles : Nat := 4096
/-- Bytes of tile save blocks, matrix-node save blocks and other unit blocks reserved at placement (R375). -/
def saveBlocksTile : Nat := 56
def saveBlocksNode : Nat := 134
def saveBlocksUnit : Nat := 4

end Sys2Proof.Config
end

