-- ==== Sys2Proof/Machine/State.lean ====
section
/-! DEFINITION. The state of the W9: everything the spec gives the machine, as plain data, with the ends of a run (faults and
refusals) and the state right after reset. Collections indexed by a number are sorted lists of (key, value) pairs in which a
key that is not listed stands for the reset value of its kind; a register of the machine that is not listed is therefore at
its reset value. -/

namespace Sys2Proof.Machine

/-- A table by number: a list of (key, value), keys rising; an absent key stands for a default the reader of it names. -/
abbrev Table (α : Type) := List (Nat × α)

/-! ## Values, tokens, channels (spec/01_element.md) -/

/-- The value of a register, literal or token (R12, R13): bits (64 in a narrow element, the upper ones zero), format code,
valid-lane count. -/
structure Val where
  bits : LinkWord := 0
  fmt : Nat := 0
  vl : Nat := 0
deriving DecidableEq, Repr, Inhabited

/-- Where a token of a channel comes from (R57, R167, R403): the image, a feed or the drain, a reply, an output channel of an element, or
a port of the unit at a tile. -/
inductive Origin where
  | none
  | reply
  | chan (e n : Nat)
  | unit (tile port : Nat)
deriving DecidableEq, Repr, Inhabited

/-- A token (R13): value, tag, the cycle from which it is visible as a head (R14), where it comes from, the fire that emitted it (R403), and, once it has
been dequeued, the first fire that dequeued it (R28). -/
structure Token where
  val : Val := {}
  tag : Nat := 0
  seen : Nat := 0
  org : Origin := .none
  fire : Nat := 0
  taken : Nat := 0
deriving DecidableEq, Repr, Inhabited

/-- An input channel (R14): its tokens, those that reach it this cycle, the entries kept for a trap-pending fire (R28), those
that have been freed before the decisions of this cycle and that an arrival may take in the next (R14, R28), the tokens that the
channel held when the cycle began and that are no longer visible (R112), the EBBs dequeued (R179), and what a cut has gathered (R372): MARKs, the record, closed. -/
structure InCh where
  q : List Token := []
  arriving : List Token := []
  kept : Nat := 0
  freeing : Nat := 0
  gone : Nat := 0
  ebbs : Nat := 0
  marks : Nat := 0
  record : List Token := []
  closed : Bool := false
deriving DecidableEq, Repr, Inhabited

/-- An entry of an output channel (R26): a token, or the reservation of a fire that has not completed. -/
inductive OutEntry where
  | tok (t : Token)
  | rsv (fire : Nat)
deriving DecidableEq, Repr, Inhabited

/-- An output channel (R14, R26): entries in decision order, the tokens that have left it before the decisions of this cycle and
that it held when the cycle began (R20, R112), the cycle in which it carried an EBB (R180), the cycle in which room last appeared and the fire
whose entry made it (R403). -/
structure OutCh where
  q : List OutEntry := []
  gone : Nat := 0
  ebbed : Option Nat := none
  room : Nat := 0
  freed : Nat := 0
deriving DecidableEq, Repr, Inhabited

/-- A slot's three words (R15). -/
structure Slot where
  trig : Word32 := 0
  op : Word32 := 0
  upd : Word32 := 0
deriving DecidableEq, Repr, Inhabited

/-- An initial token of an image (R67): channel 0-3 for i0-i3 and 4-7 for o0-o3. -/
structure Init where
  chan : Nat
  tok : Token
deriving DecidableEq, Repr, Inhabited

/-- A plane of an element (R178): slots, literals with their format codes, context enables, initial tokens, REPL, the address
of its record in the image and the record's CRC (R69). -/
structure Plane where
  slots : List Slot := List.replicate 16 {}
  lits : List (Word × Nat) := List.replicate 8 (0, 0)
  ctxen : Nat := 0
  inits : List Init := []
  repl : Bool := false
  recAddr : Nat := 0
  recLen : Nat := 0
  crc : Word32 := 0
  spmaps : List Word := List.replicate 4 0
deriving DecidableEq, Repr, Inhabited

/-- The state of one context (R12, R209). Times are those at which a register last ceased to await a write, a predicate last changed, and the context
last ceased to be predicate-pending or trap-pending, with the predicate concerned, and by number those at which a special register last ceased to
await a write, for R403. -/
structure Ctx where
  regs : List Val := List.replicate 16 {}
  preds : BitVec 8 := 0
  wv : BitVec 16 := 0
  frm : Word := 0
  fflags : Word := 0
  seqid : Word := 0
  rngseed : Word := 0
  rngpos : Word := 0
  spmap : Word := 0
  faultinfo : Word := 0
  ivec : List Nat := List.replicate 8 0
  fair : List Nat := List.replicate 16 0
  aged : List Nat := []
  inv : Nat := 0
  ended : Bool := false
  yieldTo : Nat := 0
  bars : List Nat := List.replicate 8 0
  holds : List Nat := List.replicate 4 0
  breakPass : Option Nat := none
  regTime : List Nat := List.replicate 16 0
  predTimes : List Nat := List.replicate 8 0
  pended : Nat × Nat := (0, 0)
  srTimes : Table Nat := []
deriving DecidableEq, Repr, Inhabited

/-- A bounds record in an element's stream port (R259). -/
structure Bound where
  en : Bool := false
  lo : Nat := 0
  hi : Nat := 0
  bind : Bool := false
  wr : Bool := false
  rd : Bool := false
  obj : Nat := 0
deriving DecidableEq, Repr, Inhabited

/-- A last-arrival note (R403): fire, decision tick, context, slot, latency, completion tick (none while the fire waits), cause, its channel or
register, the tick at which the cause was met, where the head of cause 1 came from, the fire that made the room of cause 4, and the registers,
predicates and outputs the fire writes. -/
structure Note where
  fire : Nat := 0
  tick : Nat := 0
  ctx : Nat := 0
  slot : Nat := 0
  lat : Nat := 0
  comp : Option Nat := none
  cause : Nat := 0
  idx : Nat := 0
  met : Nat := 0
  org : Origin := .none
  freer : Nat := 0
  writes : List Nat := []
  changesPreds : Bool := false
  outs : List Nat := []
deriving DecidableEq, Repr, Inhabited

/-- A critical-path walk under way (R404): buffer (physical or virtual), probe id, place and note reached, entries written. -/
structure Walk where
  buf : Nat := 0
  virt : Bool := false
  region : Nat := 0
  probe : Nat := 0
  elem : Nat := 0
  note : Note := {}
  entries : Nat := 0
deriving DecidableEq, Repr, Inhabited

/-- An element (R12), with the cut's, the drain's and the debugger's state of it: of `walks` the first runs and the others wait (R214).
`decided` is one more than the last cycle in which it took its decision, `barred` the first in which a slot word fetched again lets it decide
(R369). -/
structure Elem where
  active : Plane := {}
  shadow : Option Plane := none
  loaded : Bool := false
  region : Option Nat := none
  ins : List InCh := List.replicate 4 {}
  outs : List OutCh := List.replicate 4 {}
  ctxs : List Ctx := List.replicate 4 {}
  last : Nat := 3
  decided : Nat := 0
  barred : Nat := 0
  tags : List Nat := []
  bounds : List Bound := List.replicate 4 {}
  tagTime : Nat := 0
  halted : Bool := false
  frozen : Bool := false
  drained : Bool := false
  snapped : Bool := false
  saved : Bool := false
  notes : List Note := []
  walks : List Walk := []
  patched : Bool := false
  fenced : Bool := false
deriving DecidableEq, Repr, Inhabited

/-! ## Fires in flight (R24 to R28) -/

/-- What a fire writes when it completes (R25): destinations (none: nothing is written and the entry is released, R105), the
predicate result, the flags, the tag of its tokens, the wave register, a special register. -/
structure Result where
  d1 : Option Val := none
  d2 : Option Val := none
  pred : Bool := false
  flags : BitVec 6 := 0
  tag : Nat := 0
  wv : Option (BitVec 16) := none
  sr : Option (Nat × Word) := none
deriving DecidableEq, Repr, Inhabited

/-- What a fire in flight waits for: its latency, a reply of an access, the release of its earlier accesses and its home's
update, a wake register, a barrier, a task, the decoder, a unit, its sequence home, or the end of a HALT. A wait that a cut has withdrawn
(R373) is made anew at the restore. -/
inductive Wait where
  | lat
  | reply
  | rel
  | fence
  | park (w : Nat)
  | bar (level gen : Nat)
  | arrive (task count : Nat)
  | launch (addr : Nat)
  | unitSend (unit : Nat)
  | unit (unit : Nat)
  | seq (slot : Nat)
  | mask (slot obj gen deadline : Nat)
  | halt (code : Nat)
  | withdrawn (w : Wait)
deriving DecidableEq, Repr, Inhabited

/-- A fire in flight. `due` is its completion cycle when the latency fixes it; `ready` says that what it waits for has come;
`lost` names the destination registers that a later fire has already written (R25), with 16 + n for special register n; `oldHolds` holds, by
bounds entry, the hold states that a REL gave up (R260, R28); `walking` says that a walk of the element ran at the decision (R214), and `sent` is the cycle in which
what the fire sends leaves its element: it completes no earlier than in the next one; `granted` says that a masked COLLAPSE has had its
qualifying grant (R348). -/
structure Flight where
  id : Nat
  elem : Nat
  ctx : Nat
  slot : Nat
  region : Nat
  instr : Instr
  trig : Word32
  opw : Word32
  upd : Word32
  decided : Nat
  due : Option Nat
  ready : Bool
  res : Result
  heads : List (Nat × Token)
  oldPreds : BitVec 8
  trapPend : Bool
  inv : Nat
  wait : Wait
  a : Word
  b : Word
  reqTag : Option Nat
  resumed : Bool
  lost : List Nat
  oldHolds : List (Nat × Nat) := []
  walking : Bool := false
  sent : Nat := 0
  granted : Bool := false
deriving DecidableEq, Repr, Inhabited

/-! ## Memory accesses (spec/12, spec/13) -/

/-- A chain link with its wave (R46, R267). -/
structure Link where
  chain : Nat
  seq : Nat
  pred : Nat
  succ : Nat
  wave : Nat
deriving DecidableEq, Repr, Inhabited

/-- What an access does at its node; `unit` is a token that a unit's work left withheld, and `mask` the request of a masked
COLLAPSE for its mask's object, and `put` a write of the scheduler or the management core that a migration withholds. Atomic operations are numbered as ACHN's sub-operations (R276), with 8 for ACAS. -/
inductive AccKind where
  | load | store | lds | sts
  | atomic (op : Nat) (expected : Word)
  | bounds | acq | acqs | rel | waitv | pref | cnop
  | launchRec
  | notify (wake : Nat)
  | coreLoad | coreStore | coreAmo (op : Nat) | put
  | feed (chan : Nat) | sink (chan : Nat)
  | unit (u : Nat)
  | mask
deriving DecidableEq, Repr, Inhabited

/-- How far an access has come: on its way to its owner, withheld there with a fault code, on its way to its node, at its
weir, held back by a migration, waiting in a queue of its home, arrived, answered, kept with a fault record, or withdrawn by a cut. -/
inductive Stage where
  | toOwner
  | withheld (code : Nat) (since : Nat)
  | toWeir (pa : Nat)
  | atWeir (pa : Nat)
  | toNode (pa : Nat)
  | migrating (pa : Nat)
  | queued (pa : Nat)
  | tested (pa : Nat)
  | hostWindow (pa : Nat)
  | answered (pa : Nat)
  | expired (code : Nat)
  | cut
deriving DecidableEq, Repr, Inhabited

/-- An access under way: who issued it (an element's fire, or a core when `core` is set), what it does, how far it has come
and when it may take its next step; `asked` says that an XRESOLVE for its page has come since it was withheld (R384), and `named` holds what a
fault of a unit's token names (R308); `left` is the tick at which it has left the slice of its owner (R239), and `fwd` the bytes that its owner has forwarded
to it from writes that a migration withheld, or for such a write `after` the one that goes before it (R244); `anew` says that the token has come back
from a fault record, so that its owner walks for it (R380). -/
structure Access where
  id : Nat
  fire : Nat
  elem : Nat
  ctx : Nat
  slot : Nat
  region : Nat
  core : Option Nat
  kind : AccKind
  wide : Bool
  va : Nat
  size : Nat
  wr : Bool
  data : LinkWord
  inv : Nat
  opw : Word32
  reqTag : Nat
  link : Option Link
  stage : Stage
  due : Nat
  reply : LinkWord
  poison : Bool
  released : Bool
  asked : Bool := false
  named : List Int := []
  left : Nat := 0
  fwd : List (Option Byte) := []
  after : Option Nat := none
  anew : Bool := false
deriving DecidableEq, Repr

/-- A store held at its port until its invocation's boundary (R185, R368): its bytes by physical address, whether it takes an entry of the
hold log, and the offsets of those of its bytes that a write which has become visible since has superseded (R281, R284). -/
structure Held where
  port : Nat
  region : Nat
  inv : Nat
  elem : Nat
  ctx : Nat
  order : Nat
  pa : Nat
  bytes : List Byte
  logged : Bool
  dead : List Nat := []
deriving DecidableEq, Repr, Inhabited

/-- An entry of a slice's undo log (R367). -/
structure Undo where
  tile : Nat
  region : Nat
  inv : Nat
  pa : Nat
  bytes : List Byte
  cost : Nat
deriving DecidableEq, Repr, Inhabited

/-- A cached translation with its access counter (R235, R246): page base, size, physical base, attributes, the address of its leaf, and the die
and slice that cache it. -/
structure Trans where
  page : Nat
  size : Nat
  frame : Nat
  gid : Nat
  dom : Nat
  w : Bool
  leaf : Nat
  cont : Bool
  d : Bool
  count : Nat
  own : Nat × Nat := (0, 0)
deriving DecidableEq, Repr, Inhabited

/-- A page migration under way (R244): the page's address, the new frame; once published, the physical range that its reads may still
be in, old base and size. -/
structure Migration where
  va : Nat
  newFrame : Nat
  published : Bool
  old : Nat
  size : Nat
deriving DecidableEq, Repr, Inhabited

/-- A ring of BAR 0 (R412): base address, configuration word, tail and head counts. -/
structure Ring where
  base : Word := 0
  cfg : Word := 0
  tail : Word32 := 0
  head : Word32 := 0
deriving DecidableEq, Repr, Inhabited

/-- The translation registers (R243) with the owners' state: the accesses that must still leave their slice before XINV is done (R239), the caches,
and the pages whose queued bit is set (R246). -/
structure Xlate where
  ptroot : Word := 0
  spanmap : Word := 0
  fq : Ring := {}
  fqWait : List (List Byte) := []
  xresolve : Word := 0
  xinv : Word := 0
  xinvDone : Bool := false
  xinvBusy : Bool := false
  xinvWait : List Nat := []
  xmigva : Word := 0
  xmigpa : Word := 0
  migErr : Bool := false
  migDone : Bool := false
  mig : Option Migration := none
  mq : Ring := {}
  xcntth : Word := 0
  xovf : Word := 0
  xack : Word := 0
  cache : List Trans := []
  queued : List Nat := []
deriving DecidableEq, Repr, Inhabited

/-- The queue of one sync object (R263): accesses in arrival order. -/
structure SyncQueue where
  pa : Nat
  waiters : List Nat
deriving DecidableEq, Repr, Inhabited

/-- The position of a chain (R269): START, or the last released seq with its succ. -/
inductive Position where
  | start
  | after (seq succ : Nat)
deriving DecidableEq, Repr, Inhabited

/-- A chain at its weir (R269 to R277): its region, wave, position, buffered accesses in arrival order, those that were the head on
arrival and wait for their release, without an entry, the links of the current wave already released, the tick of the last release, of the first
buffering, of the last thaw, and the missing place whose gap was recorded. -/
structure Chain where
  region : Nat
  id : Nat
  wave : Nat := 0
  pos : Position := .start
  buffered : List Nat := []
  waiting : List Nat := []
  released : List Link := []
  lastRel : Nat := 0
  firstBuf : Nat := 0
  thawed : Nat := 0
  gapDone : Option (Nat × Nat) := none
deriving DecidableEq, Repr, Inhabited

/-! ## Synchronisation of work (spec/10) -/

/-- A wake register (R222): 0 EMPTY, 1 FULL, 2 WAITING; the waiting fire; value and count. -/
structure Wake where
  state : Nat := 0
  fire : Nat := 0
  val : Word := 0
  count : Nat := 0
deriving DecidableEq, Repr, Inhabited

/-- The state of a task id (R192). -/
inductive TaskState where
  | free | waiting | ready | running | reserved
deriving DecidableEq, Repr, Inhabited

/-- A named task (R192): state, signed dependence counter, the image a RESERVED id reserves, the launch concerned, whether a
reservation's shadow is loaded, a handler's pending records (R364), and the fault edge and RANK of the image it reserved last (R363,
R364). -/
structure Task where
  state : TaskState := .free
  counter : Int := 0
  image : Nat := 0
  launch : Nat := 0
  loaded : Bool := false
  pending : List Nat := []
  edge : Word := 0
  rank : Nat := 0
deriving DecidableEq, Repr, Inhabited

/-! ## Configurations, launches, regions (spec/03, spec/08, spec/09) -/

/-- A hierarchy level (R173): scope and domain. -/
structure Level where
  scope : Nat
  dom : Nat
deriving DecidableEq, Repr, Inhabited

/-- A claim entry (R173). -/
structure Claim where
  kind : Nat
  x : Nat
  y : Nat
deriving DecidableEq, Repr, Inhabited

/-- A region header (R172) as read from an image, zero fields as they stand. -/
structure Header where
  gid : Nat := 0
  rank : Nat := 0
  invwin : Nat := 0
  fairwin : Nat := 0
  h : Nat := 1
  w : Nat := 1
  hmc : Bool := false
  htask : Nat := 0
  hang : Nat := 0
  qwin : Nat := 0
  fhold : Nat := 0
  holdsz : Nat := 0
  hlog : Nat := 0
  hlogsz : Nat := 0
  undo : Bool := false
  sckpt : Bool := false
  hier : List Word := []
  claims : List Claim := []
deriving DecidableEq, Repr, Inhabited

/-- An element record of an image (R66): place, kind index, and the plane it loads. -/
structure ElemRec where
  x : Nat
  y : Nat
  elem : Nat
  plane : Plane
deriving DecidableEq, Repr, Inhabited

/-- A route program record (R164): router port and its steps of 64 egress sets. -/
structure RouteRec where
  x : Nat
  y : Nat
  wide : Bool
  port : Nat
  steps : List (List Nat)
deriving DecidableEq, Repr, Inhabited

/-- A place of a wiring record (R167). -/
structure Place where
  unit : Bool
  port : Nat
  elem : Nat
  x : Nat
  y : Nat
deriving DecidableEq, Repr, Inhabited

/-- A wiring record (R167). -/
structure WireRec where
  src : Place
  dst : Place
  swg : Bool
  tfmt : Nat
  auto : Bool
  rtag : Nat
deriving DecidableEq, Repr, Inhabited

/-- A channel binding of a solo launch (R30) with what it has moved (R31 to R33). -/
structure Binding where
  addr : Nat := 0
  count : Nat := 0
  fmt : Nat := 0
  vlast : Nat := 0
  fin : Nat := 0
  chan : Nat := 0
  sink : Bool := false
  en : Bool := false
  status : Nat := 0
  next : Nat := 0
  moved : Nat := 0
  poison : Nat := 0
  lastTag : Nat := 0
  overrun : Bool := false
  ended : Bool := false
  waiting : Bool := false
  worded : Bool := false
deriving DecidableEq, Repr, Inhabited

/-- A configuration image after the loader's reading (R64 to R67). -/
structure Image where
  addr : Nat := 0
  size : Nat := 0
  solo : Bool := false
  hdr : Header := {}
  elems : List ElemRec := []
  routes : List RouteRec := []
  wires : List WireRec := []
  binds : List Binding := []
deriving DecidableEq, Repr, Inhabited

/-- A launch record (R189). -/
structure LaunchRec where
  image : Nat := 0
  taskid : Nat := 0
  named : Bool := false
  preload : Bool := false
  keep : Bool := false
  depcnt : Nat := 0
  next : Nat := 0
  nexten : Bool := false
  cls : Nat := 0
  fedge : Bool := false
  budget : Nat := 0
  deadline : Nat := 0
  edge : Word := 0
  status : Nat := 0
  report : Nat := 0
  bwshare : Nat := 0
  phint : Bool := false
  restart : Bool := false
  oy : Nat := 0
  ox : Nat := 0
  ext : List Nat := []
  hier : List Word := []
deriving DecidableEq, Repr, Inhabited

/-- How far a launch has come. -/
inductive LaunchState where
  | waiting
  | ready (since : Nat)
  | loading (till : Nat)
  | running
  | ended
deriving DecidableEq, Repr, Inhabited

/-- Why a region is frozen: a fault record, a break, a cut for pre-emption, or the freeze of the launch it follows or that follows it (R182). -/
inductive Freeze where
  | fault (record : Nat)
  | brk (record : Nat)
  | preempt
  | leader
deriving DecidableEq, Repr, Inhabited

/-- The state of a cut (R371, R372): not begun, under way since a tick, complete. -/
inductive Cut where
  | none
  | running (since : Nat)
  | complete (since : Nat)
deriving DecidableEq, Repr, Inhabited

/-- A placed region with its launch's progress (R171 to R186, R200 to R205, R366), the router steps a cut has recorded by tile (R372),
whether a save of it is possible (R369), the writes of the control store that its present freeze has taken, by element (R382), and the record of
the BREAK that holds it until the host resumes it (R406). -/
structure Region where
  id : Nat := 0
  launch : Nat := 0
  solo : Bool := false
  wide : Bool := false
  ox : Nat := 0
  oy : Nat := 0
  hdr : Header := {}
  hier : List Level := []
  ext : List Nat := []
  cls : Nat := 0
  taskid : Nat := 0
  named : Bool := false
  edge : Word := 0
  binds : List Binding := []
  wires : List WireRec := []
  passed : Nat := 0
  first : Option Nat := none
  lastFire : Nat := 0
  freeze : Option Freeze := none
  freezeAt : Nat := 0
  halt : Option (Nat × Nat × Nat) := none
  cut : Cut := .none
  cutno : Nat := 0
  injected : Bool := false
  boundaryAt : Nat := 0
  dirtyX : List Nat := []
  dirtyS : List Nat := []
  follow : Option Nat := none
  frozenTicks : Nat := 0
  live : Bool := false
  started : Nat := 0
  predecessor : Option Nat := none
  ending : Option (Nat × Nat × Nat) := none
  steps : Table (List Nat) := []
  savable : Bool := true
  patches : List (Nat × StoreWrite) := []
  brk : Option Nat := none
deriving DecidableEq, Repr, Inhabited

/-- A decoded launch: its record, image, agent of its record (none: the management core), state, region, the record it serves
when it is a handler, its save, and the order in which it was placed; `abandoned` says that its load has been given up for a lower class and waits for
its die's network (R195). A launch that is to start again away from its place keeps its region and the
invocation it starts at (R365, R370). -/
structure Launch where
  id : Nat
  lrec : LaunchRec
  img : Image
  agent : Option Nat
  state : LaunchState
  region : Nat
  handler : Option Nat
  save : Option Nat
  placed : Nat
  followOf : Option Nat
  misplaced : Bool
  again : Option (Region × Nat) := none
  abandoned : Bool := false
deriving DecidableEq, Repr, Inhabited

/-- A launch queue (R187). -/
structure Queue where
  base : Word := 0
  cfg : Word := 0
  tail : Word32 := 0
  head : Word32 := 0
  nomap : Bool := false
  ovf : Bool := false
  badcfg : Bool := false
deriving DecidableEq, Repr, Inhabited

/-- A record that the decoder has copied (R188, R191): its source (0 to 63 the queues, 64 the internal path), bytes, the GRAPHID and
the region of the issuing fire (none: from a queue), the lowest class it may carry, and the tick of the copy. -/
structure Copied where
  src : Nat := 0
  bytes : List Byte := []
  agent : Option Nat := none
  region : Nat := 0
  minc : Nat := 0
  issuer : Option Nat := none
  since : Nat := 0
deriving DecidableEq, Repr, Inhabited

/-- The decoder (R191): the source served last and the record it decodes. -/
structure Decoder where
  last : Nat := 64
  copy : Option Copied := none
deriving DecidableEq, Repr, Inhabited

/-! ## Tiles and routers (spec/08) -/

/-- A token in a router (R158): with its route tag and plane bit, whether its advance has been taken (R166), the cycle from which it may
move on, and the target format of the swage node that it enters (R170). -/
structure RToken where
  tok : Token
  rtag : Nat
  plane : Bool
  advanced : Bool
  ready : Nat
  tfmt : Nat := 0
deriving DecidableEq, Repr, Inhabited

/-- A router input port (R160, R165): buffer, current step, active program, shadow program, whether it holds a token that
missed, and the last cycle in which tokens left it with how many (their entries are free from the next cycle). -/
structure RPort where
  buf : List RToken := []
  step : Nat := 0
  prog : List (List Nat) := []
  shadow : List (List Nat) := []
  miss : Bool := false
  left : Nat × Nat := (0, 0)
deriving DecidableEq, Repr, Inhabited

/-- A router (R158): ports north, east, south, west, local; for each output (0 to 3 the links, 8 + 4 × element + channel the
links into the tile's channels, 40 + port those into its unit) the port granted last and the cycle after the one in which it last
sent; the ejection bindings (route tag to element and channel, or 6 for the unit with its port), active and shadow. -/
structure Router where
  ports : List RPort := List.replicate 5 {}
  granted : Table Nat := []
  sent : Table Nat := []
  eject : List (Nat × Nat × Nat) := []
  shadowEject : List (Nat × Nat × Nat) := []
deriving DecidableEq, Repr, Inhabited

/-- A swage node on the wide link into a tile (R169, R170): the lanes gathered and their format, words that have crossed and wait. -/
structure Swage where
  tfmt : Nat := 0
  lanes : List Nat := []
  inq : List RToken := []
  outq : List RToken := []
deriving DecidableEq, Repr, Inhabited

/-- A tile (R158, R178 to R182, R227, R230, R381). -/
structure Tile where
  plane : Bool := false
  region : Option Nat := none
  shadowOf : Option Nat := none
  loaded : Bool := false
  narrow : Router := {}
  wide : Router := {}
  swapAt : Nat := 0
  startAt : Nat := 0
  swapped : Bool := false
  lastGid : Option Nat := none
  clearTill : Option Nat := none
  gated : Bool := false
  wakeAt : Option Nat := none
  powerOff : Bool := false
  idleFrom : Nat := 0
deriving DecidableEq, Repr, Inhabited

/-! ## Engines (spec/17, spec/18) -/

/-- A command at a unit: opcode, operands, the fire and context that sent it, the region, its class, and the operation word that issued it (R361). -/
structure Cmd where
  opc : Nat
  a : Word
  b : Word
  fire : Nat
  elem : Nat
  ctx : Nat
  slot : Nat
  region : Nat
  cls : Nat
  inv : Nat
  opw : Word32 := 0
deriving DecidableEq, Repr, Inhabited

/-- A weight plane (R295, R297): format, K, source, the codes of its rows, the scale codes of its blocks. -/
structure Weights where
  fmt : Nat
  k : Nat
  src : Nat
  rows : List (List Nat)
  scales : List (List Nat)
deriving DecidableEq, Repr, Inhabited

/-- A stream begun on a matrix node (R300): command, vectors started and written, the cycle in which the last one entered, the words of
its scale sequence that have been used up, and for each vector inside the array its entry cycle, its sums and their flags. -/
structure Stream where
  cmd : Cmd
  fmt : Nat
  k : Nat
  m : Nat
  base : Nat
  mode : Nat
  started : Nat
  written : Nat
  lastIn : Nat
  popped : Nat
  inside : List (Nat × List Word32 × BitVec 6)
deriving DecidableEq, Repr, Inhabited

/-- A repeat node (R304): the words that wait at its port, whether a stream is partly through, the RPTSETs taken, the first of which is
in force, the words it has captured, whether the capture is complete, the repetitions that have left, the word to emit next, and the
RPTENDs that wait for the repetition in progress. -/
structure Repeat where
  inq : List Token := []
  mid : Bool := false
  sets : List Cmd := []
  capture : List Token := []
  full : Bool := false
  left : Nat := 0
  next : Nat := 0
  ends : List Cmd := []
deriving DecidableEq, Repr, Inhabited

/-- A drain under way (R302): command, format, first row, number of rows, words that each result port has had. -/
structure Drain where
  cmd : Cmd
  dfmt : Nat
  base : Nat
  n : Nat
  word : Nat
deriving DecidableEq, Repr, Inhabited

/-- A weight load under way (R297): its command, the cycle of its next event, and the tile once its words have come. -/
structure Loading where
  cmd : Cmd
  due : Nat
  tile : Option Weights
deriving DecidableEq, Repr, Inhabited

/-- A matrix node (R295): its planes, accumulator rows, mode, generator and sticky flags; the commands that wait, the load, streams and
drain under way, the MLOADs since the last exchange, the first cycle in which row 0 may take a vector; the words at its ports; whether a fault
has stopped it, and the columns that the spill map takes (R247). -/
structure MxNode where
  active : Option Weights := none
  shadow : Option Weights := none
  acc : Table (List Word32) := []
  mode : Nat := 0
  seed : Word := 0
  ctr : Word := 0
  flags : BitVec 6 := 0
  cmds : List Cmd := []
  loading : Option Loading := none
  mloads : Nat := 0
  streams : List Stream := []
  drain : Option Drain := none
  nextIn : Nat := 0
  acts : List (List Token) := List.replicate 4 []
  scaleA : List Token := []
  scaleB : List Token := []
  repeats : List Repeat := List.replicate 4 {}
  outs : List (List Token) := List.replicate 2 []
  stopped : Bool := false
  spill : List Nat := []
  marks : Nat := 0
deriving DecidableEq, Repr, Inhabited

/-- A dimension of a copy (R327), both sides. -/
structure Dim where
  ext : Nat
  smode : Nat
  dmode : Nat
  sstart : Int
  sstride : Int
  sbound : Nat
  dstart : Int
  dstride : Int
  dbound : Nat
deriving DecidableEq, Repr, Inhabited

/-- A copy descriptor (R326) as read at the command's start, with the buffer or ring record it names (R331). -/
structure Desc where
  idxw : Bool
  task : Nat
  cnten : Bool
  cwen : Bool
  rop : Nat
  dkind : Nat
  skind : Nat
  esize : Nat
  dims : List Dim
  sbase : Nat
  dbase : Nat
  cwaddr : Nat
  cwval : Word
  idxaddr : Nat
  mxa : Word
  mxb : Nat
  mxop : Nat
  bank : Nat
  bankSize : Nat
  ringBase : Nat
  ringSlots : Nat
  arrival : Nat
deriving DecidableEq, Repr, Inhabited

/-- An open shadow of a page (R310): page address, frame taken, frame replaced. -/
structure Shadow where
  page : Nat
  frame : Nat
  old : Nat
deriving DecidableEq, Repr, Inhabited

/-- A command an engine runs (R305): its descriptor, next tile, FREED notices, arrival words written, open shadows, and whether its pages
have been published and its counter has been decremented. -/
structure Running where
  cmd : Cmd
  desc : Desc
  tile : Nat
  freed : Nat
  written : Nat
  shadows : List Shadow
  published : Bool
  counted : Bool
deriving DecidableEq, Repr, Inhabited

/-- A copy engine (R305, R306): its queue, spilled commands and spill ring, the commands it runs, the PUBLISHes that wait, and the cycle
from which it may move the next tile. -/
structure CopyEngine where
  queue : List Cmd := []
  spilled : List Cmd := []
  running : List Running := []
  pubs : List Cmd := []
  sp : Ring := {}
  busy : Nat := 0
deriving DecidableEq, Repr, Inhabited

/-- The frame pool and retired-frame ring of a die (R312), and the frames whose accesses have not left (R310). -/
structure Frames where
  fp : Ring := {}
  rf : Ring := {}
  retiring : List Nat := []
deriving DecidableEq, Repr, Inhabited

/-- A participant of a collective (R335, R336): command, record, whether the record is sound, whether it came from another package, from which
device and with which data, whether a partition group's participant has been told to the other packages, with the data it was told with (R395),
the round of its group that it joins, and the bytes done and the open shadows once the collective has begun, with the bytes it has had last (R318). -/
structure Participant where
  cmd : Cmd
  arg : Bool
  sound : Bool
  root : Nat
  bcast : Bool
  rop : Nat
  nm1 : Nat
  rank : Nat
  group : Nat
  src : Nat
  dst : Nat
  len : Nat
  cwaddr : Nat
  cwval : Word
  cwen : Bool
  cnten : Bool
  task : Nat
  remote : Bool
  data : List Byte
  told : Bool
  pos : Nat
  shadows : List Shadow
  dev : Nat := 0
  round : Nat := 0
  last : List Byte := []
deriving DecidableEq, Repr, Inhabited

/-! ## Sequences (spec/19) -/

/-- A soft-token register (R341). -/
structure Soft where
  kind : Nat := 0
  np : Nat := 0
  pairs : List Word := List.replicate 8 0
  digest : List Byte := List.replicate 32 0
deriving DecidableEq, Repr, Inhabited

/-- The state of a bound slot as its home caches it (R338). -/
structure SeqSlot where
  gid : Nat := 0
  share : Bool := false
  en : Bool := false
  hm1 : Nat := 0
  v : Nat := 0
  emb : Nat := 0
  seed : Word := 0
  salt : Word := 0
  pos : Word := 0
  nblk : Nat := 0
  hroot : List Byte := List.replicate 32 0
  hcur : List Byte := List.replicate 32 0
  mask : List Byte := List.replicate 32 0
  ntop : Nat := 0
  comp : List Word := List.replicate 16 0
  st : List Soft := List.replicate 4 {}
  blk : List (List Byte) := List.replicate 64 (List.replicate 48 0)
  users : List Nat := []
deriving DecidableEq, Repr, Inhabited

/-- The sequence registers (R339) and the cached slots (R338). -/
structure Seq where
  seqbase : Word := 0
  kvbase : Word := 0
  kvcfg : Word := 0
  slots : Table SeqSlot := []
deriving DecidableEq, Repr, Inhabited

/-! ## Faults, saves (spec/21) -/

/-- A fault record (R361) with where it stands and what has become of it: what else the rule of the fault has it name, for which the
layout has no place (R165, R303, R307, R308), the cuts of its launch before it, slot address (0: kept by the management core), the launch and region, whether an XRESOLVE for it has come (R384), whether it has been delivered and disposed of, and the handler launch that
serves it. -/
structure FaultRec where
  id : Nat
  code : Nat
  detail : Nat := 0
  taskid : Nat := 0
  pend : Bool := false
  saved : Bool := false
  sdirty : Bool := false
  xdirty : Bool := false
  heads : List (Nat × Token) := []
  tick : Nat := 0
  unit : Nat := 15
  x : Nat := 0
  y : Nat := 0
  elem : Nat := 0
  ctx : Nat := 0
  slot : Nat := 0
  lane : Nat := 0
  uidx : Nat := 0
  addr : Nat := 0
  inv : Nat := 0
  ivec : List Nat := []
  hdesc : Word := 0
  data : Option LinkWord := none
  link : Option Link := none
  named : List Int := []
  cutno : Nat := 0
  launch : Nat := 0
  region : Nat := 0
  slotAddr : Nat := 0
  access : Option Nat := none
  resolved : Bool := false
  delivered : Bool := false
  toMc : Bool := false
  disposed : Bool := false
  server : Nat := 0
deriving DecidableEq, Repr, Inhabited

/-- The save of a region (R371 to R375): the indices of its blocks in the pool, the tick and number of its cut, the region as it stood,
its elements with the fires and accesses withdrawn, router steps, local parts with their poisoned blocks, chains, nodes and engine commands (the
last two by claim). -/
structure Save where
  id : Nat
  launch : Nat
  cutno : Nat
  since : Nat
  blocks : List Nat
  region : Region
  elems : Table Elem
  flights : List Flight
  accesses : List Access
  steps : Table (List Nat)
  locals : Table (List Host.Cell)
  poison : List Nat
  chains : List Chain
  nodes : Table MxNode
  copies : Table (List Running × List Cmd)
deriving DecidableEq, Repr

/-- The repair map of a die (R370). -/
structure Repair where
  tiles : Table Nat := []
  mx : Nat := 0xFFFF
  ce : Nat := 0xFF
  coll : Bool := true
  xs : Nat := 0xFFFFFFFFFFFFFFFF
deriving DecidableEq, Repr, Inhabited

/-- The fault registers (R362, R375, R376) with the records, the saves and the repair maps. -/
structure Faults where
  frbase : Word := 0
  frcfg : Word := 0
  svbase : Word := 0
  svcfg : Word := 0
  prewin : Word := 0
  used : List Nat := []
  records : List FaultRec := []
  saves : List Save := []
  dispose : List (Nat × Nat) := []
  repair : List Repair := List.replicate 4 {}
deriving DecidableEq, Repr, Inhabited

/-! ## Debug, links, management (spec/23 to spec/25) -/

/-- What the management core has scanned out at a stop (R405): its number, the tick, and every element, tile with its routers, slice and unit as
it stood. -/
structure Dump where
  id : Nat
  tick : Nat
  elems : Table Elem
  tiles : Table Tile
  slices : List Host.Cell
  flights : List Flight
  accesses : List Access
  chains : List Chain
  nodes : Table MxNode
  engines : Table CopyEngine
  colls : Table (List Participant)
  seq : Seq
deriving DecidableEq, Repr

/-- The debug registers (R399) with the trace ring's count and the dump of the last stop. -/
structure Debug where
  trbase : Word := 0
  trcfg : Word := 0
  trtail : Nat := 0
  trlost : Word := 0
  stoptick : Word := 0
  arm : Bool := false
  stopped : Bool := false
  brkctl : Word := 0
  sample : Word := 0
  dbgpbuf : Word := 0
  dbgprobe : Word := 0
  brkres : Word := 0
  breaks : List Nat := []
  perf : List Word := List.replicate 8 0
  dump : Option Dump := none
deriving DecidableEq, Repr, Inhabited

/-- A Brezil link (R393, R394): up, fenced, flits resent, the SEQ it expects, the SEQ it sends next, the SEQ the far end has
acknowledged, the retry buffer, the SEQs of flits that have failed once and are not taken yet, the flits to send, and what waits for room in the retry
buffer: kind, destination, source and payload. -/
structure BrezilLink where
  up : Bool := false
  fenced : Bool := false
  resent : Nat := 0
  rxSeq : BitVec 16 := 0
  txSeq : BitVec 16 := 0
  acked : BitVec 16 := 0
  retry : List Flit := []
  failed : List (BitVec 16) := []
  out : List Flit := []
  waiting : List (Nat × Nat × Nat × List Byte) := []
deriving DecidableEq, Repr, Inhabited

/-- The partition registers (R394), the links, whether every path to the tick master is lost and one more than the tick of the tick flits sent
last (R397), the payloads of collective data by source device, the losses whose recovery has
still to begin here, and that of the recovery begun last: a device, 2,048 + a link of this package, or 4,096 + 32 × device + link for another's (R398), and the rounds of each collective group that have ended here (R395). -/
structure Partition where
  devid : Nat := 0
  rtbase : Word := 0
  cwhome : Word := 0
  links : List BrezilLink := List.replicate 18 {}
  tickLost : Bool := false
  tickSent : Nat := 0
  inbox : List (Nat × List Byte) := []
  fencedDevs : List Nat := []
  recovering : Option Nat := none
  rounds : Table Nat := []
deriving DecidableEq, Repr, Inhabited

/-- What the loader reports of an image that it refuses (R68): the check (0x23A to 0x23F for 23a to 23f), the section type (0: the header and the
section table), the record, the slot where there is one, and the byte offset of the failing field. -/
structure Refused where
  check : Nat
  ty : Nat
  record : Nat
  slot : Option Nat
  off : Nat
deriving DecidableEq, Repr, Inhabited

/-- The management registers (R409), the firmware image that runs and the one that has passed for the next reset, empty where none has (R410), the save key (R374), the report in
progress, the management core's log (R192, R369, R413) and the loader's reports, by the address of the image (R68). -/
structure Mgmt where
  fwsvn : Nat := 0
  fail : Nat := 0
  fwstaged : Bool := false
  ready : Bool := false
  fwstage : Word := 0
  attaddr : Word := 0
  attErr : Bool := false
  attGo : Bool := false
  attnonce : List Byte := List.replicate 64 0
  attTaken : List Byte := []
  running : List Byte := []
  staged : List Byte := []
  ksave : List Byte := List.replicate 32 0
  boots : Nat := 0
  log : List (Nat × Nat) := []
  refusals : List (Nat × Refused) := []
deriving DecidableEq, Repr, Inhabited

/-- What a core's access was (R390). -/
inductive CoreOp where
  | load | store | amo
deriving DecidableEq, Repr, Inhabited

/-- How an application core's access ended: value, or the load, store or AMO access fault with stval (R390). -/
structure CoreDone where
  core : Nat
  val : Word
  faulted : Bool
  stval : Nat
  op : CoreOp := .load
deriving DecidableEq, Repr, Inhabited

/-- Which element, context and slot the fire being decided belongs to. -/
structure Cursor where
  elem : Nat := 0
  ctx : Nat := 0
  slot : Nat := 0
deriving DecidableEq, Repr, Inhabited

/-- The state of a W9 package. `turns` names, for each owner and memory node, the requester that it has served last (R195), and `shares` what a timed launch
has had of a port it claims, by 64 × launch + port: the window of 1 µs, and the bytes served in it at class 0 (R198). `inputs` holds what comes from outside (host writes, cores, links, errors), each with the tick
from which it may be taken; `phase` is the part of the cycle: 0 what precedes the decisions, 1 the decisions, 2 the moves that
follow them; `free` counts the open values taken so far (Config); `ids` numbers fires, accesses, launches,
regions, records and saves. -/
structure State where
  tick : Nat := 0
  phase : Nat := 0
  cursor : Cursor := {}
  inputs : List (Nat × Instr) := []
  free : Nat := 0
  ids : Nat := 1
  elems : Table Elem := []
  tiles : Table Tile := []
  swages : Table Swage := []
  flights : List Flight := []
  mem : List Host.Cell := []
  poison : List Nat := []
  held : List Held := []
  undo : List Undo := []
  accesses : List Access := []
  turns : Table Nat := []
  shares : Table (Nat × Nat) := []
  xl : Xlate := {}
  sync : List SyncQueue := []
  waitv : List Nat := []
  chains : List Chain := []
  gapwin : Word := 0
  wakes : Table Wake := []
  tasks : Table Task := []
  deplost : Bool := false
  queues : Table Queue := []
  decoder : Decoder := {}
  launches : List Launch := []
  regions : List Region := []
  nodes : Table MxNode := []
  engines : Table CopyEngine := []
  frames : Table Frames := []
  colls : Table (List Participant) := []
  seq : Seq := {}
  faults : Faults := {}
  dbg : Debug := {}
  part : Partition := {}
  mgmt : Mgmt := {}
  coreDone : List CoreDone := []
  hostReads : List (Nat × List Byte) := []
deriving DecidableEq, Repr

/-- How the machine may stop. -/
inductive Fault where
  /-- A host access that neither HDM range of R386 maps: the spec gives such an address no meaning. Raised by HOST_MEM_WRITE
  and HOST_MEM_READ. Safe: no claim about a run goes past it. -/
  | hostUnmapped (pa : Nat)
deriving DecidableEq, Repr

/-- Why a step has no meaning here. -/
inductive Refusal where
  /-- The instruction is not modelled yet; raised by its arm of exec. Safe: nothing is claimed of it. -/
  | notModelled (mnemonic : String)
deriving DecidableEq, Repr

/-- The machine right after reset: before the boot phases of R408, nothing loaded, every register at the value the spec gives
for reset or, where it gives none, at the value the assumption log names. [DESIGN CHOICE: log 1] -/
def State.reset : State := {}

end Sys2Proof.Machine
end

