-- ==== Sys2Proof/Machine/Ops.lean ====
section
/-! DEFINITION. The named operations over the state: tables, memory, the places of the package, registers and channels,
held stores, rings, and the fault path: raising a fault (R359 to R364) and what follows its disposition (R365). -/

namespace Sys2Proof.Machine

/-! ## Tables -/

/-- The value of key k, or d where the table does not list it. -/
def tget {α : Type} (t : Table α) (k : Nat) (d : α) : α :=
  match t with
  | [] => d
  | (j, v) :: r => if j = k then v else tget r k d

/-- The value of key k, if listed. -/
def tget? {α : Type} (t : Table α) (k : Nat) : Option α :=
  match t with
  | [] => none
  | (j, v) :: r => if j = k then some v else tget? r k

/-- The table with key k at v, keys kept rising. -/
def tput {α : Type} (t : Table α) (k : Nat) (v : α) : Table α :=
  match t with
  | [] => [(k, v)]
  | (j, w) :: r => if k < j then (k, v) :: (j, w) :: r else if k = j then (k, v) :: r else (j, w) :: tput r k v

/-- The table without key k. -/
def tdel {α : Type} (t : Table α) (k : Nat) : Table α := t.filter fun p => p.1 != k

/-! ## Bytes -/

/-- The little-endian number of a list of bytes (R7). -/
def leNat : List Byte → Nat
  | [] => 0
  | b :: r => b.toNat + 256 * leNat r

/-- The n low bytes of a number, least significant first (R7). -/
def natLe : Nat → Nat → List Byte
  | 0, _ => []
  | n + 1, x => BitVec.ofNat 8 x :: natLe n (x / 256)

/-- The n bytes of a double, least significant first. -/
def wordLe (n : Nat) (w : Word) : List Byte := natLe n w.toNat

/-! ## Memory: sorted cells, a byte that is not listed reads zero (R408) -/

/-- The byte at a physical address. [DESIGN CHOICE: log 3] -/
def memGet (m : List Host.Cell) (a : Nat) : Byte :=
  match m with
  | [] => 0
  | (k, v) :: r => if k = a then v else if a < k then 0 else memGet r a

/-- The memory with byte v at a; writing zero removes the cell. [DESIGN CHOICE: log 3] -/
def memPut (m : List Host.Cell) (a : Nat) (v : Byte) : List Host.Cell :=
  match m with
  | [] => if v = 0 then [] else [(a, v)]
  | (k, w) :: r =>
    if a < k then (if v = 0 then (k, w) :: r else (a, v) :: (k, w) :: r)
    else if a = k then (if v = 0 then r else (a, v) :: r)
    else (k, w) :: memPut r a v

/-- The canonical form of memory: addresses strictly rising, and no cell holds the value of an unlisted byte. [DESIGN CHOICE: log 3] -/
abbrev memWf (m : List Host.Cell) : Prop := m.Pairwise (fun x y => x.1 < y.1) ∧ ∀ c ∈ m, c.2 ≠ 0

/-- n bytes from a, in address order. -/
def memRead (m : List Host.Cell) (a n : Nat) : List Byte := (List.range n).map fun i => memGet m (a + i)

/-- The memory with bytes written from a. -/
def memWrite (m : List Host.Cell) (a : Nat) : List Byte → List Host.Cell
  | [] => m
  | b :: r => memWrite (memPut m a b) (a + 1) r

/-- The double at a physical address. -/
def State.double (s : State) (pa : Nat) : Nat := leNat (memRead s.mem pa 8)

/-! ## Places of the package (R3, R163, R226, R227, R231) -/

/-- The key of a tile in package coordinates; row-major order. [DESIGN CHOICE: log 64] -/
def tileKey (x y : Nat) : Nat := y * 64 + x
def tileX (t : Nat) : Nat := t % 64
def tileY (t : Nat) : Nat := t / 64
/-- The die of a tile (R3): column d[0], row d[1]. -/
def tileDie (t : Nat) : Nat := tileX t / 32 + 2 * (tileY t / 32)
/-- The tile at die-relative coordinates of a die (R3). -/
def dieTile (d x y : Nat) : Nat := tileKey (32 * (d % 2) + x) (32 * (d / 2) + y)
/-- The key of element e (0-3 narrow, 4-5 wide) of a tile. [DESIGN CHOICE: log 64] -/
def elemKey (t e : Nat) : Nat := t * 8 + e
def elemTile (e : Nat) : Nat := e / 8
def elemIdx (e : Nat) : Nat := e % 8
/-- Whether an element is wide (R66). -/
def isWide (e : Nat) : Bool := decide (4 ≤ elemIdx e)

/-- Router hops between two tiles, by dimension order (R159). -/
def hops (t u : Nat) : Nat :=
  (tileX t - tileX u) + (tileX u - tileX t) + (tileY t - tileY u) + (tileY u - tileY t)
/-- Die edges crossed between two tiles (R159). -/
def crossings (t u : Nat) : Nat :=
  (if tileX t / 32 = tileX u / 32 then 0 else 1) + (if tileY t / 32 = tileY u / 32 then 0 else 1)
/-- Cycles from an output at t to an arrival (R159). -/
def travel (t u : Nat) : Nat := 2 + hops t u + 5 * crossings t u

/-- Attach tile of matrix node n = 16 × die + j (R163). -/
def nodeTile (n : Nat) : Nat := dieTile (n / 16) (8 * (n % 16 % 4) + 3) (8 * (n % 16 / 4) + 3)
/-- Attach tile of copy engine n = 8 × die + j (R163). -/
def engineTile (n : Nat) : Nat := dieTile (n / 8) (4 * (n % 8) + 1) 16
/-- Attach tile of memory port n = 16 × die + j and its weir (R163). -/
def portTile (n : Nat) : Nat :=
  dieTile (n / 16) (4 * (n % 16 % 8) + 2) (if n % 16 < 8 then 0 else 31)
/-- Attach tile of a die's collective engine (R163). -/
def collTile (d : Nat) : Nat := dieTile d 16 15
/-- Attach tile of a die's sequence unit (R337). -/
def seqTile (d : Nat) : Nat := dieTile d 16 16
/-- Attach tile of translation slice xsj of a die (R235). -/
def sliceTile (d j : Nat) : Nat := dieTile d (4 * (j % 8) + 2) (4 * (j / 8) + 2)
/-- Attach tile of a die's application cluster (R390). -/
def clusterTile (d : Nat) : Nat := dieTile d 15 16
/-- Attach tile of the host (R388). -/
def hostTile : Nat := dieTile 0 0 16

/-- The unit of a kind (1 node, 2 engine, 3 port, 4 collective) attached at a tile (R163, R173). -/
def unitAt (kind t : Nat) : Option Nat :=
  let n := if kind = 1 then 64 else if kind = 2 then 32 else if kind = 3 then 64 else if kind = 4 then 4 else 0
  let at_ := if kind = 1 then nodeTile else if kind = 2 then engineTile else if kind = 3 then portTile else collTile
  (List.range n).find? fun u => at_ u == t

def isHbm (pa : Nat) : Bool := decide (pa < Config.hbmSize)
def isScratch (pa : Nat) : Bool := decide (Config.scratchBase ≤ pa) && decide (pa < Config.scratchBase + Config.scratchSize)
def isHostWin (pa : Nat) : Bool := decide (Config.hostBase ≤ pa) && decide (pa < Config.physEnd)
/-- The tile of a scratchpad address (R227). -/
def scratchTile (pa : Nat) : Nat :=
  let o := pa - Config.scratchBase
  dieTile (bits o 29 28) (bits o 22 18) (bits o 27 23)
/-- The byte of a scratchpad address within its slice (R227). -/
def sliceByte (pa : Nat) : Nat := bits (pa - Config.scratchBase) 17 0
/-- The global part of a slice (R227). -/
def isGlobal (pa : Nat) : Bool := isScratch pa && decide (Config.globalBase ≤ sliceByte pa)
/-- The physical address of byte b of a tile's slice (R227). -/
def slicePa (t b : Nat) : Nat :=
  Config.scratchBase + tileDie t * 2 ^ 28 + (tileY t % 32) * 2 ^ 23 + (tileX t % 32) * 2 ^ 18 + b
/-- The memory port of an HBM address, 16 × die + port (R231). -/
def portOf (pa : Nat) : Nat :=
  let st := pa / Config.stackSize
  16 * (st / 2) + 8 * (st % 2) + bits pa 10 8
/-- The tile where a physical address is reached. -/
def paTile (pa : Nat) : Nat :=
  if isHbm pa then portTile (portOf pa) else if isScratch pa then scratchTile pa else hostTile

/-! ## Access to the parts of the state -/

def State.elem (s : State) (e : Nat) : Elem := tget s.elems e {}
def State.setElem (s : State) (e : Nat) (x : Elem) : State := { s with elems := tput s.elems e x }
def State.modElem (s : State) (e : Nat) (f : Elem → Elem) : State := s.setElem e (f (s.elem e))
def Elem.ctx (x : Elem) (c : Nat) : Ctx := x.ctxs.getD c {}
def Elem.modCtx (x : Elem) (c : Nat) (f : Ctx → Ctx) : Elem := { x with ctxs := x.ctxs.modify c f }
def State.ctx (s : State) (e c : Nat) : Ctx := (s.elem e).ctx c
def State.modCtx (s : State) (e c : Nat) (f : Ctx → Ctx) : State := s.modElem e fun x => x.modCtx c f
def Elem.in_ (x : Elem) (c : Nat) : InCh := x.ins.getD c {}
def Elem.out (x : Elem) (c : Nat) : OutCh := x.outs.getD c {}
def Elem.modIn (x : Elem) (c : Nat) (f : InCh → InCh) : Elem := { x with ins := x.ins.modify c f }
def Elem.modOut (x : Elem) (c : Nat) (f : OutCh → OutCh) : Elem := { x with outs := x.outs.modify c f }
def Plane.slot (p : Plane) (k : Nat) : Slot := p.slots.getD k {}
def State.tile (s : State) (t : Nat) : Tile := tget s.tiles t {}
def State.modTile (s : State) (t : Nat) (f : Tile → Tile) : State := { s with tiles := tput s.tiles t (f (s.tile t)) }
def State.node (s : State) (n : Nat) : MxNode := tget s.nodes n {}
def State.modNode (s : State) (n : Nat) (f : MxNode → MxNode) : State := { s with nodes := tput s.nodes n (f (s.node n)) }
def State.engine (s : State) (n : Nat) : CopyEngine := tget s.engines n {}
def State.modEngine (s : State) (n : Nat) (f : CopyEngine → CopyEngine) : State :=
  { s with engines := tput s.engines n (f (s.engine n)) }
def State.frame (s : State) (d : Nat) : Frames := tget s.frames d {}
def State.modFrame (s : State) (d : Nat) (f : Frames → Frames) : State := { s with frames := tput s.frames d (f (s.frame d)) }
def State.task (s : State) (n : Nat) : Task := tget s.tasks n {}
def State.modTask (s : State) (n : Nat) (f : Task → Task) : State := { s with tasks := tput s.tasks n (f (s.task n)) }
def State.queue (s : State) (q : Nat) : Queue := tget s.queues q {}
def State.modQueue (s : State) (q : Nat) (f : Queue → Queue) : State := { s with queues := tput s.queues q (f (s.queue q)) }
def State.wake (s : State) (w : Nat) : Wake := tget s.wakes w {}
def State.setWake (s : State) (w : Nat) (x : Wake) : State := { s with wakes := tput s.wakes w x }
def State.region? (s : State) (g : Nat) : Option Region := s.regions.find? (·.id == g)
def State.modRegion (s : State) (g : Nat) (f : Region → Region) : State :=
  { s with regions := s.regions.map fun r => if r.id == g then f r else r }
def State.launch? (s : State) (l : Nat) : Option Launch := s.launches.find? (·.id == l)
def State.modLaunch (s : State) (l : Nat) (f : Launch → Launch) : State :=
  { s with launches := s.launches.map fun x => if x.id == l then f x else x }
def State.flight? (s : State) (f : Nat) : Option Flight := s.flights.find? (·.id == f)
def State.modFlight (s : State) (f : Nat) (g : Flight → Flight) : State :=
  { s with flights := s.flights.map fun x => if x.id == f then g x else x }
def State.access? (s : State) (a : Nat) : Option Access := s.accesses.find? (·.id == a)
def State.modAccess (s : State) (a : Nat) (f : Access → Access) : State :=
  { s with accesses := s.accesses.map fun x => if x.id == a then f x else x }
def State.dropAccess (s : State) (a : Nat) : State := { s with accesses := s.accesses.filter (·.id != a) }
def State.record? (s : State) (k : Nat) : Option FaultRec := s.faults.records.find? (·.id == k)
def State.modRecord (s : State) (k : Nat) (f : FaultRec → FaultRec) : State :=
  { s with faults := { s.faults with records := s.faults.records.map fun r => if r.id == k then f r else r } }
def State.log (s : State) (kind x : Nat) : State := { s with mgmt := { s.mgmt with log := s.mgmt.log ++ [(kind, x)] } }
/-- The 64-bit global tick (R2). -/
def State.now (s : State) : Word := BitVec.ofNat 64 s.tick
/-- A new identifier. -/
def State.newId (s : State) : State := { s with ids := s.ids + 1 }
/-- One more open value taken. [DESIGN CHOICE: log 4] -/
def State.useFree (s : State) : State := { s with free := s.free + 1 }
/-- A free delay from now (Config.freeDelay). [DESIGN CHOICE: log 5, 6, 66] -/
def State.later (s : State) : Nat := s.tick + Config.freeDelay s.free

/-- The region an element belongs to. -/
def State.regionOf (s : State) (e : Nat) : Option Region := (s.elem e).region.bind s.region?

/-- The cells of a region's rectangle, row by row. -/
def Region.tiles (r : Region) : List Nat :=
  (List.range r.hdr.h).flatMap fun y => (List.range r.hdr.w).map fun x => tileKey (r.ox + x) (r.oy + y)
/-- Whether a tile lies in a region. -/
def Region.holds (r : Region) (t : Nat) : Bool :=
  decide (r.ox ≤ tileX t) && decide (tileX t < r.ox + r.hdr.w) && decide (r.oy ≤ tileY t) && decide (tileY t < r.oy + r.hdr.h)
/-- The loaded elements of a region, in element order. -/
def State.regionElems (s : State) (g : Nat) : List (Nat × Elem) := s.elems.filter fun p => p.2.region == some g && p.2.loaded
/-- FAIRWIN, INVWIN and the other header fields with their defaults (R172). -/
def Region.fairwin (r : Region) : Nat := if r.hdr.fairwin = 0 then 8 else r.hdr.fairwin
def Region.invwin (r : Region) : Nat := if r.hdr.invwin = 0 then 2 else r.hdr.invwin
def Region.hangTicks (r : Region) : Nat := (if r.hdr.hang = 0 then 1000 else r.hdr.hang) * Config.ticksPerMicro
def Region.qwin (r : Region) : Nat := if r.hdr.qwin = 0 then 4096 else r.hdr.qwin
def Region.fholdTicks (r : Region) : Nat := (if r.hdr.fhold = 0 then 50 else r.hdr.fhold) * Config.ticksPerMicro
def Region.holdsz (r : Region) : Nat := if r.hdr.holdsz = 0 then 256 else r.hdr.holdsz
/-- The number of invocations (R183, R189). -/
def Region.ninv (r : Region) : Nat := (r.ext.map fun e => if e = 0 then 1 else e).foldl (· * ·) 1
/-- The coordinates of invocation k, IVEC0 varying fastest (R183). -/
def Region.coords (r : Region) (k : Nat) : List Nat :=
  ((List.range 8).foldl (fun (p : List Nat × Nat) j =>
    let e := let x := r.ext.getD j 1; if x = 0 then 1 else x
    (p.1 ++ [p.2 % e], p.2 / e)) ([], k)).1

/-- The units of a kind that a region claims, in claim order, by unit index (R173, R321). -/
def Region.claimed (r : Region) (kind : Nat) : List Nat :=
  (r.hdr.claims.filter (·.kind == kind)).filterMap fun c => unitAt kind (tileKey (r.ox + c.x) (r.oy + c.y))

/-- The enabled contexts of a plane. -/
def Plane.contexts (p : Plane) : List Nat := (List.range 4).filter fun c => p.ctxen.testBit c

/-! ## Registers and channels -/

/-- Register d n of a context (R12, R18). -/
def Ctx.reg (c : Ctx) (n : Nat) : Val := c.regs.getD n {}
/-- The context with register n written. -/
def Ctx.setReg (c : Ctx) (n : Nat) (v : Val) : Ctx :=
  { c with regs := c.regs.set n v }

/-- The head of an input channel visible at tick t (R14). -/
def InCh.head (c : InCh) (t : Nat) : Option Token :=
  match c.q with
  | x :: _ => if x.seen ≤ t then some x else none
  | [] => none

/-- Entries of an input channel of depth 4 that are free (R12, R14, R28). [DEDUCED: log 75] -/
def InCh.space (c : InCh) : Bool := decide (c.q.length + c.arriving.length + c.kept + c.freeing < 4)
/-- The channel as the next cycle begins: what was freed before the decisions may be taken from then on. -/
def InCh.turn (c : InCh) : InCh := { c with freeing := 0, gone := 0 }
/-- Room for a token from outside: what a restore has still to place comes first (R378). -/
def InCh.room (c : InCh) : Bool := c.space && c.record.isEmpty
/-- The same for a token that sets out now and arrives in the next cycle: what this cycle frees it may take (R14, R28). [DEDUCED: log 75] -/
def InCh.roomNext (c : InCh) : Bool := decide (c.q.length + c.arriving.length + c.kept < 4) && c.record.isEmpty
/-- A head that has been dequeued stands again at the front, behind those restored ones that were ahead of it in the channel: their first fire is an
earlier one (R28). -/
def InCh.restore (c : InCh) (h : Token) : InCh :=
  let older := fun (k : Token) => k.taken != 0 && decide (k.taken < h.taken)
  { c with q := c.q.takeWhile older ++ h :: c.q.dropWhile older, kept := c.kept - 1 }
/-- An element takes no decision any more in cycle t: it has taken one, or a slot word is being fetched again (R21, R369). -/
def Elem.busyAt (x : Elem) (t : Nat) : Bool := decide (t < x.decided) || decide (t < x.barred)
/-- Tokens and reservations that an output channel held when the cycle began (R20, R112). -/
def OutCh.held (c : OutCh) : Nat := c.q.length + c.gone
/-- Room for one more reservation in an output channel of depth 2, as the cycle began (R20 condition 5). [DEDUCED: log 75] -/
def OutCh.hasRoom (c : OutCh) : Bool := decide (c.held < 2)
/-- The channel as the next cycle begins. -/
def OutCh.turn (c : OutCh) : OutCh := { c with gone := 0 }
/-- The oldest token of an output channel that may pass on at tick t (R26). -/
def OutCh.front (c : OutCh) (t : Nat) : Option Token :=
  match c.q with
  | .tok x :: _ => if x.seen ≤ t then some x else none
  | _ => none
/-- The output channel with the reservation of fire f made a token, or released (R105). -/
def OutCh.settle (c : OutCh) (f : Nat) (t : Option Token) : OutCh :=
  { c with q := c.q.flatMap fun x => if x == .rsv f then (match t with | some k => [.tok k] | none => []) else [x] }

/-- The occupancy word of R112, as the cycle began: a token that has left since counts, an arrival of the cycle does not. -/
def Elem.occupancy (x : Elem) (t : Nat) : Nat :=
  let i := fun c => ((x.in_ c).q.filter fun k => decide (k.seen ≤ t)).length + (x.in_ c).gone
  let o := fun c => (x.out c).held
  i 0 + i 1 * 2 ^ 3 + i 2 * 2 ^ 6 + i 3 * 2 ^ 9 + o 0 * 2 ^ 12 + o 1 * 2 ^ 14 + o 2 * 2 ^ 16 + o 3 * 2 ^ 18

/-- A request tag is free again at tick t (R252); it had been awaited where all sixteen were taken (R403). -/
def Elem.freeTag (x : Elem) (n t : Nat) : Elem :=
  { x with tags := x.tags.erase n, tagTime := if 16 ≤ x.tags.length then t else x.tagTime }

/-! ## Special-register words (R210) -/

/-- CTXID (R210). -/
def State.ctxid (s : State) (e c : Nat) : Word :=
  match s.regionOf e with
  | some r => BitVec.ofNat 64 ((if r.named then 2 ^ 24 + r.taskid * 2 ^ 12 else 0) + c)
  | none => BitVec.ofNat 64 c

/-- ELEMID (R210). -/
def State.elemid (s : State) (e : Nat) : Word :=
  let t := elemTile e
  let rel := match s.regionOf e with
    | some r => if r.solo then 0 else (tileY t - r.oy) * 2 ^ 24 + (tileX t - r.ox) * 2 ^ 16
    | none => 0
  BitVec.ofNat 64 (rel + tileDie t * 2 ^ 14 + (tileX t % 32) * 2 ^ 9 + (tileY t % 32) * 2 ^ 4 + elemIdx e)

/-! ## Rings (R412) -/

def Ring.logsz (r : Ring) : Nat := bits r.cfg.toNat 5 1
def Ring.en (r : Ring) : Bool := r.cfg.toNat.testBit 0
/-- Entries in the ring (R412). -/
def ringCount (tail head : Word32) : Nat := (tail - head).toNat
def Ring.count (r : Ring) : Nat := ringCount r.tail r.head
def Ring.full (r : Ring) : Bool := decide (2 ^ r.logsz ≤ r.count)
def Ring.empty (r : Ring) : Bool := r.count == 0
/-! The launch queues as rings (R187, R188). -/

def Queue.logsz (q : Queue) : Nat := bits q.cfg.toNat 5 1
def Queue.en (q : Queue) : Bool := q.cfg.toNat.testBit 0
/-- LOGSZ is in range. -/
def Queue.sized (q : Queue) : Bool := decide (4 ≤ q.logsz) && decide (q.logsz ≤ 12)
/-- A queue is served (R187). -/
def Queue.served (q : Queue) : Bool := q.en && q.sized && !q.nomap

/-- A class 0 launch that is no PRELOAD (R197). -/
def LaunchRec.timed (r : LaunchRec) : Bool := r.cls == 0 && !r.preload

/-- The address of entry n of a ring of entries of sz bytes (R412). -/
def Ring.entry (r : Ring) (n : Word32) (sz : Nat) : Nat := r.base.toNat + (n.toNat % 2 ^ r.logsz) * sz

/-! ## Performed stores, poison, held stores (R185, R254, R369) -/

/-- A held store has byte pa, and no write that came after it has superseded it. -/
def Held.covers (h : Held) (pa : Nat) : Bool := decide (h.pa ≤ pa) && decide (pa < h.pa + h.bytes.length) && !h.dead.contains (pa - h.pa)

/-- A held store after a write of the bytes that `p` names has become visible at its node: in the order of each byte that write follows it
(R281, R284). [DEDUCED: log 77] -/
def Held.over (h : Held) (p : Nat → Bool) : Held :=
  { h with dead := h.dead ++ (List.range h.bytes.length).filter fun i => p (h.pa + i) && !h.dead.contains i }

/-- A store of bytes performs: memory is written, a block it covers whole loses its poison (R369), and the stores held at its node for those
bytes are superseded (R284). -/
def State.perform (s : State) (pa : Nat) (b : List Byte) : State :=
  { s with mem := memWrite s.mem pa b
           poison := s.poison.filter fun k => !(decide (pa ≤ 64 * k) && decide (64 * k + 64 ≤ pa + b.length))
           held := s.held.map fun h => h.over fun a => decide (pa ≤ a) && decide (a < pa + b.length) }

/-- Blocks of n bytes copied whole from pa to q stay poisoned where they were: what could not be read there cannot be read here (R369). [DEDUCED: log 57] -/
def State.carryPoison (s : State) (pa q n : Nat) : State :=
  { s with poison := s.poison ++ (s.poison.filter fun k => decide (pa ≤ 64 * k) && decide (64 * k < pa + n)).map fun k => k - pa / 64 + q / 64 }

/-- Whether any block of a range is poisoned. -/
def State.poisoned (s : State) (pa n : Nat) : Bool :=
  s.poison.any fun k => decide (pa < 64 * k + 64) && decide (64 * k < pa + n)

/-- The bits of a value whose read met an uncorrectable error: an open value of `size` bytes in a narrow element (R71, R253). [DESIGN CHOICE: log 4; DEDUCED: log 50] -/
def State.poisonBits (s : State) (wide : Bool) (size : Nat) : LinkWord :=
  if wide then Config.freeWord s.free else BitVec.ofNat 512 ((Config.freeValue s.free).toNat % 2 ^ (8 * size))

/-- Bytes read from pa by a reader for which R369 names no failing path, the loader, the decoder or a table walk: those of a poisoned block are open. [DESIGN CHOICE: log 96] -/
def State.found (s : State) (pa : Nat) (b : List Byte) : List Byte :=
  b.mapIdx fun i x => if s.poison.contains ((pa + i) / 64) then Config.lostByte s.tick s.free (pa + i) else x

/-- The double that such a reader finds. [DESIGN CHOICE: log 96] -/
def State.foundDouble (s : State) (pa : Nat) : Nat := leNat (s.found pa (memRead s.mem pa 8))

/-- A region sees its own held stores, those of the launch it follows and those of its follow-on: they count as one region (R185, R286). -/
def State.sees (s : State) (g h : Nat) : Bool :=
  let follows := fun (g h : Nat) => match s.region? g with | some r => r.predecessor == some h | none => false
  g == h || follows g h || follows h g

/-- The byte at pa as region g reads it: the latest held store that covers it, or memory (R185). -/
def State.byteFor (s : State) (g pa : Nat) : Byte :=
  match (s.held.filter fun x => x.covers pa && s.sees g x.region).getLast? with
  | some x => x.bytes.getD (pa - x.pa) 0
  | none => memGet s.mem pa

/-- n bytes from pa as region g reads them. -/
def State.readFor (s : State) (g pa n : Nat) : List Byte := (List.range n).map fun i => s.byteFor g (pa + i)

/-! ## Replies, and the homes' answer to a write (R253, R261, R263, R266) -/

/-- The reply of an access sets out for its issuer: at once over the mesh where the path is a slice's, else after an open time. -/
def State.reply (s : State) (a : Access) (p : Nat) (v : LinkWord) (poison : Bool) : State :=
  let local_ := a.kind == .lds
  let due := if local_ then s.tick + travel (paTile p) (elemTile a.elem) else s.later + 1
  let s1 := s.modAccess a.id fun x => { x with stage := .answered p, due := due, reply := v, poison := poison }
  if local_ then s1 else s1.useFree

/-- The reply with the double at an address: where its block is poisoned the failing path, with an open value (R253, R369). -/
def State.replyWord (s : State) (a : Access) (p v : Nat) : State :=
  if s.poisoned p 8 then s.useFree.reply a p (s.poisonBits false 8) true else s.reply a p (BitVec.ofNat 512 v) false

/-- What the front of an object's queue makes of the object, where it may be served (R263). -/
def objectServe (k : AccKind) (o : Nat) : Option Nat :=
  let x := o.testBit 63
  let shr := bits o 62 48
  match k with
  | .acq => if !x && shr == 0 then some (o + 2 ^ 63) else none
  | .acqs | .mask => if !x && decide (shr < 32767) then some (o + 2 ^ 48) else none
  | _ => none

/-- The home of an address: a memory port, or a slice. -/
def homeOf (p : Nat) : Nat := if isHbm p then portOf p else 2 ^ 16 + scratchTile p

/-- The home tests the word of a WAITV (R266): it is answered, takes one of the home's 64 places, or is tested again in 1,024 cycles. A
poisoned word cannot be tested, and takes the failing path (R253). -/
def State.testWord (s : State) (a : Access) (p : Nat) : State :=
  let w := s.double p
  if a.data.toNat % 2 ^ 64 ≤ w || s.poisoned p 8 then
    { s with waitv := s.waitv.filter (· != a.id) }.replyWord a p w
  else if s.waitv.contains a.id then s
  else
    let n := (s.waitv.filter fun b => match s.access? b with | some x => (match x.stage with | .queued q => homeOf q == homeOf p | _ => false) | none => false).length
    if n < 64 then { s.modAccess a.id (fun x => { x with stage := .queued p }) with waitv := s.waitv ++ [a.id] }
    else s.modAccess a.id fun x => { x with stage := .tested p, due := s.tick + 1024 }

/-- The homes test the words of the WAITVs they keep that a write of n bytes from pa has reached (R266). -/
def State.testWaits (s : State) (pa n : Nat) : State :=
  s.waitv.foldl (fun s i =>
    match s.access? i with
    | some a => (match a.stage with
      | .queued p => if pa < p + 8 ∧ p < pa + n then s.testWord a p else s
      | _ => s)
    | none => s) s

/-- The home serves an object's queue (R263). Each update is a write that the WAITVs of the word see. -/
def State.serve (s : State) (p : Nat) : Nat → State
  | 0 => s
  | n + 1 =>
    match (s.sync.find? (·.pa == p)).bind (fun q => q.waiters.head?) with
    | none => s
    | some ai =>
      match s.access? ai with
      | none => s
      | some a =>
        match objectServe a.kind (s.double p) with
        | none => s
        | some o =>
          let s1 := s.perform p (natLe 8 o)
          let s2 := { s1 with sync := s1.sync.map fun (q : SyncQueue) => if q.pa == p then { q with waiters := q.waiters.tail } else q }
          State.serve ((s2.replyWord a p o).testWaits p 8) p n

/-- The length of an object's queue. -/
def State.waiting (s : State) (p : Nat) : Nat := match s.sync.find? (·.pa == p) with | some q => q.waiters.length | none => 0

/-- The homes' answer to a write of n bytes from pa: the words that WAITVs wait on are tested, and the queues of its objects are served, before
any later write (R263, R266). [DEDUCED: log 74] -/
def State.react (s : State) (pa n : Nat) : State :=
  let s1 := s.testWaits pa n
  ((s1.sync.map (·.pa)).filter fun p => decide (pa < p + 8) && decide (p < pa + n)).foldl (fun s p => s.serve p (s.waiting p)) s1

/-- A write of bytes performs, and the homes answer it. -/
def State.putBytes (s : State) (pa : Nat) (b : List Byte) : State := (s.perform pa b).react pa b.length

/-! ## Held stores perform (R185, R257, R264, R281, R284) -/

/-- A held store performs: what no later write has superseded of it enters memory. -/
def State.landHeld (s : State) (h : Held) : State :=
  let live := (List.range h.bytes.length).filter fun i => !h.dead.contains i
  { s with mem := live.foldl (fun m i => memPut m (h.pa + i) (h.bytes.getD i 0)) s.mem
           poison := if h.dead.isEmpty then s.poison.filter fun k => !(decide (h.pa ≤ 64 * k) && decide (64 * k + 64 ≤ h.pa + h.bytes.length))
             else s.poison }

/-- The first n held stores that a predicate picks perform. One that has performed supersedes those that reached its node before it; those that
reached it later follow it in the order of each byte, and perform in their turn (R281, R284, R285). [DEDUCED: log 77] -/
def State.performFirst (p : Held → Bool) : Nat → State → State
  | 0, s => s
  | n + 1, s =>
    match s.held.findIdx? p with
    | none => s
    | some i =>
      let h := s.held.getD i default
      let early := (s.held.take i).map fun (x : Held) => x.over h.covers
      State.performFirst p n (({ s.landHeld h with held := early ++ s.held.drop (i + 1) }).react h.pa h.bytes.length)

/-- The held stores a predicate picks perform, in the order in which they reached their ports (R185, R257, R264). [DESIGN CHOICE: log 66] -/
def State.performHeld (s : State) (p : Held → Bool) : State := State.performFirst p s.held.length s

/-- The held stores a predicate picks are discarded (R185, R368). -/
def State.discardHeld (s : State) (p : Held → Bool) : State := { s with held := s.held.filter fun x => !p x }

/-- The writes of a region that its fires make at its slot home or engines, held where HBM-backed (R345). [DEDUCED: log 61] -/
def State.storeFor (s : State) (g e c inv pa : Nat) (b : List Byte) : State :=
  if isHbm pa then
    { s.newId with held := s.held ++ [⟨portOf pa, g, inv, e, c, s.ids, pa, b, false, []⟩] }
  else s.perform pa b

/-! ## Flags of restartability (R366) -/

/-- An effect of an open invocation outside the region (R366). -/
def State.markX (s : State) (g inv : Nat) : State := s.modRegion g fun r => { r with dirtyX := inv :: r.dirtyX.erase inv }
/-- A local-part write of an open invocation that cannot be undone (R366). -/
def State.markS (s : State) (g inv : Nat) : State := s.modRegion g fun r => { r with dirtyS := inv :: r.dirtyS.erase inv }

/-! ## Trace and counters (R400, R401, R407) -/

/-- Adds to a performance counter, saturating (R407). [DEDUCED: log 16] -/
def State.perf (s : State) (j n : Nat) : State :=
  { s with dbg := { s.dbg with perf := s.dbg.perf.modify j fun w =>
      if 2 ^ 64 ≤ w.toNat + n then BitVec.allOnes 64 else w + BitVec.ofNat 64 n } }

/-- Whether a region is traced (R402): EN set and its task named, or ALL. The bits are BRKCTL's. -/
def State.traced (s : State) (g : Nat) : Bool :=
  match s.region? g with
  | some r =>
    let b := s.dbg.brkctl.toNat
    s.dbg.trcfg.toNat.testBit 0 && (b.testBit 13 || (r.named && bits b 11 0 == r.taskid))
  | none => false

/-- Whether a region takes breaks (R215, R399). -/
def State.takesBreaks (s : State) (g : Nat) : Bool :=
  match s.region? g with
  | some r => let b := s.dbg.brkctl.toNat; b.testBit 12 && (b.testBit 13 || (r.named && bits b 11 0 == r.taskid))
  | none => false

/-- A Twitia record enters the trace ring or is dropped (R400). -/
def State.trace (s : State) (kind unit place d2 d3 : Nat) : State :=
  let d := s.dbg
  let lg := bits d.trcfg.toNat 5 1
  if !d.trcfg.toNat.testBit 0 then s
  else if !d.trcfg.toNat.testBit 6 && decide (2 ^ lg ≤ d.trtail) then { s with dbg := { d with trlost := d.trlost + 1 } }
  else
    let b := natLe 8 s.tick ++ natLe 8 (kind * 2 ^ 56 + unit * 2 ^ 52 + place) ++ natLe 8 d2 ++ natLe 8 d3
    { (s.perform (d.trbase.toNat + 32 * (d.trtail % 2 ^ lg)) b) with dbg := { d with trtail := d.trtail + 1 } }

/-- The place of an element, context and slot in the layout of bits 47:0 of R361 offset 16. -/
def placeBits (e c k lane : Nat) : Nat :=
  let t := elemTile e
  tileY t * 2 ^ 40 + tileX t * 2 ^ 32 + elemIdx e * 2 ^ 29 + c * 2 ^ 27 + k * 2 ^ 23 + lane * 2 ^ 16

/-! ## Raising a fault (R359 to R362) -/

/-- The fire traps of class 1 in index order (R360). -/
inductive Trap where
  | badFormat | badLane | badTag | rngSat | badSr | srRo | badAddr | misaligned | scratchRange | badBounds
  | boundsViolation | bindingViolation | notHeld | badScope | badLevel | barOverrun | badTask | badWake
  | wakeBusy | badFret | badUnit | badCmd | noSeq | seqDenied | badToken | seqRange | stEmpty | notHard
  | badMix | softChanged | noMask | badTemp | blockFull | blockOpen | seqNokv
  | trapUser | brk
deriving DecidableEq, Repr, Inhabited

/-- The code of a fire trap (R360). -/
def Trap.code : Trap → Nat
  | .badFormat => 0x101 | .badLane => 0x102 | .badTag => 0x103 | .rngSat => 0x104 | .badSr => 0x105 | .srRo => 0x106
  | .badAddr => 0x107 | .misaligned => 0x108 | .scratchRange => 0x109 | .badBounds => 0x10A | .boundsViolation => 0x10B
  | .bindingViolation => 0x10C | .notHeld => 0x10D | .badScope => 0x10E | .badLevel => 0x10F | .barOverrun => 0x110
  | .badTask => 0x111 | .badWake => 0x112 | .wakeBusy => 0x113 | .badFret => 0x114 | .badUnit => 0x115 | .badCmd => 0x116
  | .noSeq => 0x117 | .seqDenied => 0x118 | .badToken => 0x119 | .seqRange => 0x11A | .stEmpty => 0x11B | .notHard => 0x11C
  | .badMix => 0x11D | .softChanged => 0x11E | .noMask => 0x11F | .badTemp => 0x120 | .blockFull => 0x121
  | .blockOpen => 0x122 | .seqNokv => 0x123 | .trapUser => 0x201 | .brk => 0x202

/-- Codes of region faults (R360). -/
def cNotMapped : Nat := 0x301
def cWriteProt : Nat := 0x302
def cBadPte : Nat := 0x303
def cDomain : Nat := 0x304
def cMapLocal : Nat := 0x305
def cPhysReserved : Nat := 0x306
def cDataPoison : Nat := 0x307
def cHoldOverflow : Nat := 0x308
def cSpillFault : Nat := 0x309
def cLinkAmbiguous : Nat := 0x401
def cChainStale : Nat := 0x402
def cChainDupseq : Nat := 0x403
def cChainMismatch : Nat := 0x404
def cOrderOverflow : Nat := 0x405
def cMxNoshadow : Nat := 0x501
def cMxRange : Nat := 0x502
def cMxFormat : Nat := 0x503
def cMxPoison : Nat := 0x504
def cRptOverflow : Nat := 0x505
def cCopyBounds : Nat := 0x506
def cCopyAddrOvf : Nat := 0x507
def cCopyDstpage : Nat := 0x508
def cCopyOverlap : Nat := 0x509
def cCopyBaddesc : Nat := 0x50A
def cCollMismatch : Nat := 0x50B
def cRouteMiss : Nat := 0x601
def cCfgResidue : Nat := 0x602
def cQuiescent : Nat := 0x603
def cHang : Nat := 0x604
def cUnitLasting : Nat := 0x701
def cImageChanged : Nat := 0x702
def cDataLost : Nat := 0x703
def cSaveCorrupt : Nat := 0x801
def cPlaceMismatch : Nat := 0x802

/-- The doubles of a fault record (R361), offsets 0 to 56. -/
def FaultRec.doubles (r : FaultRec) : List Nat :=
  let f := fun (b : Bool) (k : Nat) => if b then 2 ^ k else 0
  let heads := (r.heads.map fun p => 2 ^ p.1).foldl (· + ·) 0
  [ r.code * 2 ^ 52 + r.detail * 2 ^ 36 + r.taskid * 2 ^ 24 + f r.pend 7 + f r.saved 6 + f r.sdirty 5 + f r.xdirty 4 + heads,
    r.tick,
    r.unit * 2 ^ 60 + r.y * 2 ^ 40 + r.x * 2 ^ 32 + r.elem * 2 ^ 29 + r.ctx * 2 ^ 27 + r.slot * 2 ^ 23 + r.lane * 2 ^ 16 + r.uidx,
    r.addr, r.inv,
    (((List.range 4).map fun j => (r.ivec.getD j 0) * 2 ^ (16 * j))).foldl (· + ·) 0,
    (((List.range 4).map fun j => (r.ivec.getD (4 + j) 0) * 2 ^ (16 * j))).foldl (· + ·) 0,
    r.hdesc.toNat ]

/-- The 512 bytes of a fault record (R361): the doubles, the head block, zero. -/
def FaultRec.bytes (r : FaultRec) : List Byte :=
  let hd := fun j =>
    match r.heads.find? (·.1 == j) with
    | some p => natLe 64 p.2.val.bits.toNat
    | none => match r.data with
      | some d => if j = 0 then natLe 64 d.toNat else List.replicate 64 0
      | none => List.replicate 64 0
  r.doubles.flatMap (natLe 8) ++ (List.range 4).flatMap hd ++ List.replicate 192 0

/-- HDESC of a fire trap (R361): tag, format and count of each consumed head. -/
def headDesc (hs : List (Nat × Token)) : Word :=
  BitVec.ofNat 64 ((hs.map fun p => p.2.tag * 2 ^ (3 * p.1) + p.2.val.fmt * 2 ^ (4 * p.1 + 12) + p.2.val.vl * 2 ^ (7 * p.1 + 28)).foldl (· + ·) 0)

/-- A launch has come to an end of its own: DONE, HALTED, QUIET or OVERRUN. Its status words and its block are still to be written. -/
def Region.ownEnd (r : Region) : Bool := match r.ending with | some st => [1, 2, 3, 5].contains st.1 | none => false

/-- A region may take a fault: it has not ended, or it is a solo launch whose last stores and status words are still to come, and may be withheld
(R359, R413). [DEDUCED: log 37] -/
def Region.faultable (r : Region) : Bool := r.ending.isNone || (r.solo && r.ownEnd)

/-- A fault has frozen a region (R359). -/
def Region.faulted (r : Region) : Bool := match r.freeze with | some (.fault _) => true | _ => false

/-- The region freezes in the cycle after the present one (R359); a region frozen already stays so under its new cause, and a BREAK holds it until
the host resumes it (R406). -/
def Region.stop (r : Region) (why : Freeze) (t : Nat) : Region :=
  { r with freeze := some why, freezeAt := if r.freeze.isSome then r.freezeAt else t + 1
           brk := match why with | .brk k => some k | _ => r.brk }

/-- The record of a fault of region rg (R361): the oldest open invocation but for a fire trap, and the flags of R366. -/
def State.faultRecord (s : State) (rg : Region) (r : FaultRec) : FaultRec :=
  let inv := if r.code / 256 ≤ 2 then r.inv else rg.passed
  let open_ := fun (l : List Nat) => l.any fun i => decide (rg.passed ≤ i)
  { r with id := s.ids, tick := s.tick, launch := rg.launch, region := rg.id, cutno := rg.cutno, inv := inv, ivec := rg.coords inv
           taskid := if rg.named then rg.taskid else 0, sdirty := open_ rg.dirtyS, xdirty := open_ rg.dirtyX }

/-- A fault is raised (R359): a record is made with the state of its region (R361), and the region freezes, with what follows it on its
tiles (R182). The record is written and delivered when the cut has ended (R371, R372, R364). BREAK has neither cut nor fault edge (R215,
R406). A further fault of a region that a fault has frozen has a record of its own under the same freeze and cut; a BREAK of a region frozen in any
way is decided again after the thaw. [DEDUCED: log 37] -/
def State.takeFault (s : State) (g : Nat) (r : FaultRec) : State :=
  match s.region? g with
  | none => s
  | some rg =>
    let brk := r.code == Trap.brk.code
    if !rg.faultable || (brk && rg.freeze.isSome) then s
    else
      let k := s.ids
      let s1 := { s.newId with faults := { s.faults with records := s.faults.records ++ [s.faultRecord rg r] } }
      let s2 := if brk then { s1 with dbg := { s1.dbg with breaks := s1.dbg.breaks ++ [k] } } else s1
      let s3 := if rg.faulted then s2 else s2.modRegion g fun x => x.stop (if brk then .brk k else .fault k) s.tick
      match rg.follow with
      | some f => s3.modRegion f fun x => if x.freeze.isNone then x.stop .leader s.tick else x
      | none => s3

/-- A fire trap (R27): the record names the place of the fire and holds the heads it would have consumed. -/
def State.takeTrap (s : State) (e c k inv : Nat) (hs : List (Nat × Token)) (t : Trap) (detail lane addr : Nat) : State :=
  match (s.elem e).region with
  | none => s
  | some g =>
    s.takeFault g { id := 0, code := t.code, detail := detail, heads := hs, unit := 0, x := tileX (elemTile e), y := tileY (elemTile e)
                    elem := elemIdx e, ctx := c, slot := k, lane := lane, addr := addr, inv := inv, hdesc := headDesc hs }

/-- The stores held for the open invocations of a region are discarded (R185, R272). [DEDUCED: log 47] -/
def State.discardOpen (s : State) (g : Nat) : State :=
  s.discardHeld fun h => h.region == g && (match s.region? g with | some r => decide (r.passed ≤ h.inv) | none => false)

/-- A region fault of a unit (R272, R303, R308): unit number of R361 with its tile and index, and the issuer, whose place the record
holds (R361); the lasting fault of a unit has no issuer, and its record holds the tile. `named` is what else the fault's rule has the record name. An engine's fault discards the
held stores of open invocations, as a weir's does. [DEDUCED: log 14, 47] -/
def State.unitFault (s : State) (g cd unit tile uidx e c k addr : Nat) (named : List Int := []) : State :=
  let s1 := if cd / 256 = 5 ∨ unit = 3 ∨ unit = 4 then s.discardOpen g else s
  let t := if unit = 8 ∨ cd = cUnitLasting then tile else elemTile e
  s1.takeFault g { id := 0, code := cd, unit := unit, x := tileX t, y := tileY t, uidx := uidx, elem := elemIdx e, ctx := c
                   slot := k, addr := addr, named := named }

/-- The command that a fire gave a copy engine: in its queue, running, or a PUBLISH that waits. -/
def State.copyOf (s : State) (n fire : Nat) : Option Cmd :=
  ((s.engine n).queue ++ (s.engine n).running.map (·.cmd) ++ (s.engine n).pubs).find? fun c => c.fire == fire

/-- A copy fault (R308): the command ends, the shadows of its destination are dropped, and its region faults. The dropped frames go to the
die's retired-frame ring. The record's ADDR is the command's A operand or the failing address, and `named` the side, dimension and index vector of
the failing element. [DEDUCED: log 57] -/
def State.copyFault (s : State) (n : Nat) (c : Cmd) (cd addr : Nat) (named : List Int := []) : State :=
  let dropped := ((s.engine n).running.filter fun r => r.cmd.fire == c.fire).flatMap fun r => if r.published then [] else r.shadows.map (·.frame)
  let s1 := s.modEngine n fun e =>
    { e with queue := e.queue.filter (·.fire != c.fire), running := e.running.filter (·.cmd.fire != c.fire), pubs := e.pubs.filter (·.fire != c.fire) }
  let s2 := s1.modFrame (n / 8) fun f => { f with retiring := f.retiring ++ dropped }
  let s3 := { s2 with accesses := s2.accesses.filter fun a => !(a.fire == c.fire && (match a.kind with | .unit _ => true | _ => false)) }
  s3.unitFault c.region cd 3 (engineTile n) n c.elem c.ctx c.slot addr named

/-- A step taken only where its condition holds: elsewhere nothing happens. [DESIGN CHOICE: log 8] -/
@[inline] def guarded (p : Bool) (s t : State) : Host.Outcome State Fault Refusal := if p then .next t else .next s

end Sys2Proof.Machine
end

