-- ==== Sys2Proof/Machine/Operands.lean ====
section
/-! DEFINITION. Operand forms: what each source select code supplies in a narrow and in a wide element (R12, R54), lane widths
(R96, R124), valid lanes (R72, R125), result values (R71, R97, R108) and tags (R58, R59). -/

namespace Sys2Proof.Machine

/-! ## Sources -/

/-- A scalar as a source supplies it: its bits in a narrow element, the low w bits in every lane of a wide one (R12, R54). -/
def scalar (wide : Bool) (w x : Nat) : LinkWord :=
  if wide then BitVec.ofNat 512 (repLanes w (if w = 6 then 84 else 512 / w) x) else BitVec.ofNat 512 (x % 2 ^ 64)

/-- LANE in a wide element: each lane of width w holds its own index (R54). -/
def laneIds (w : Nat) : LinkWord := BitVec.ofNat 512 (packLanes w (List.range (if w = 6 then 84 else 512 / w)))

/-- The value a source supplies (R54). `w` is the lane width at which the instruction reads it; a conversion reads a literal at
the width of the literal's own code and a scalar at 64 bits (R12). -/
def Elem.operand (x : Elem) (wide : Bool) (c : Ctx) (t : Nat) (elemid : Word) (w : Nat) (own : Bool) (src : Src) : Val :=
  match src with
  | .d n => c.reg n.val
  | .head n => match (x.in_ n.val).head t with
    | some k => k.val
    | none => {}
  | .lit n =>
    let l := x.active.lits.getD n.val (0, 0)
    { bits := scalar wide (if own then laneBits l.2 else w) l.1.toNat, fmt := l.2, vl := 0 }
  | .zero => {}
  | .ones => { bits := if wide then BitVec.allOnes 512 else BitVec.ofNat 512 (2 ^ 64 - 1) }
  | .wv => { bits := scalar wide w c.wv.toNat }
  | .lane => { bits := if wide then laneIds w else elemid.setWidth 512 }

/-- The tag of the head a source names, if it names one. -/
def Elem.srcTag (x : Elem) (t : Nat) (src : Src) : Option Nat :=
  match src with
  | .head n => ((x.in_ n.val).head t).map (·.tag)
  | _ => none

/-- Bits 63:0 of a value: zext(a, 64). -/
def Val.w64 (v : Val) : Word := v.bits.setWidth 64
def Val.n64 (v : Val) : Nat := v.w64.toNat

/-! ## Lane widths and valid lanes -/

/-- Lane width of an integer width MODE (R61, R96). -/
def intWidth (mode : Nat) : Nat := 64 / 2 ^ mode

/-- Operation format of a float lane or cross-lane instruction: MODE, or under FA the code of A (R124). -/
def opFormat (mode afmt : Nat) : Nat := if mode = 0 then afmt else mode + 6

/-- Lanes of width w in a word: 84 at 6 bits, else 512 / w. -/
def laneCount (w : Nat) : Nat := if w = 6 then 84 else 512 / w

/-- The valid bits of a wide value: its count of lanes of its own width, or those of all its lanes where the count is 0 or no less (R72, R125). [DESIGN CHOICE: log 91] -/
def Val.validBits (v : Val) : Nat :=
  let all := if laneBits v.fmt = 6 then 504 else 512
  if v.vl = 0 then all else min all (v.vl * laneBits v.fmt)

/-- Lanes of width w that lie wholly within the valid bits of a value (R125). -/
def Val.valid (v : Val) (w : Nat) : Nat := min (v.validBits / w) (laneCount w)

/-- A value as every fire writes it (R71): zero above the lane in a narrow element, and above bit 503 of a 6-bit word in a wide one. -/
def Val.trim (v : Val) (wide : Bool) : Val :=
  let n := if wide then (if laneBits v.fmt = 6 then 504 else 512) else laneBits v.fmt
  { v with bits := BitVec.ofNat 512 (v.bits.toNat % 2 ^ n) }

/-- A value as a fire that moves it writes it (R71, R72, R97): zero above the lane in a narrow element, above the valid bits in a wide one. -/
def Val.clean (v : Val) (wide : Bool) : Val :=
  { v with bits := BitVec.ofNat 512 (v.bits.toNat % 2 ^ (if wide then v.validBits else laneBits v.fmt)) }

/-- Valid lanes of a lane-wise result of width w from its sources; a count of zero counts as full (R72). [DESIGN CHOICE: log 91] -/
def validOf (wide : Bool) (w : Nat) (srcs : List Val) : Nat :=
  if wide then (srcs.map fun v => if v.vl = 0 then laneCount w else v.valid w).foldl min (laneCount w) else 1

/-- A count as it is written: zero when it is the whole word (R72). No count says that no lane is valid: of such a result, which only a source
whose valid bits hold no whole lane of the width gives, the model writes 0 as well. [DESIGN CHOICE: log 76] -/
def countOf (n full : Nat) : Nat := if full ≤ n then 0 else n

/-! ## Results -/

/-- Lane results in order: the lanes, the OR of their conditions (R99), the OR of their flags (R89). -/
def lanewise (n : Nat) (f : Nat → Nat × Bool × Flags) : List Nat × Bool × Flags :=
  (List.range n).foldr (fun l acc => let r := f l; (r.1 :: acc.1, r.2.1 || acc.2.1, r.2.2 ||| acc.2.2)) ([], false, 0)

/-- The value of lane results of width w: zero above them (R71, R72). -/
def laneVal (wide : Bool) (w fmt : Nat) (lanes : List Nat) : Val :=
  { bits := BitVec.ofNat 512 (packLanes w lanes), fmt := fmt, vl := if wide then countOf lanes.length (laneCount w) else 0 }

/-- A 64-bit result: in a wide element lane 0 with every other lane zero and a count of 1 (R106, R108, R112, R208). -/
def scalarVal (wide : Bool) (fmt : Nat) (x : Nat) : Val :=
  { bits := BitVec.ofNat 512 (x % 2 ^ 64), fmt := fmt, vl := if wide then 1 else 0 }

/-- Format code of a result of width n (R97). -/
def intFmt (afmt n : Nat) : Nat :=
  if isIntFmt afmt && laneBits afmt == n then afmt
  else if n = 64 then 5 else if n = 32 then 3 else if n = 8 then 1 else 0

/-! ## Tags (R58, R59) -/

/-- The tag that a fire's TACT chooses; action 11 is ITER's own (R108). -/
def tagOf (opc tact : Nat) (aTag bTag : Option Nat) : Nat :=
  if tactIsTag opc then
    if tact < 8 then tact
    else if tact = 8 then aTag.getD 0
    else if tact = 9 then bTag.getD 0
    else if tact = 10 then (if aTag = some 1 || bTag = some 1 then 1 else 0)
    else 0
  else aTag.getD 0

end Sys2Proof.Machine
end

