-- ==== Sys2Proof/Machine/Fire.lean ====
section
/-! DEFINITION. The fire: when a slot is eligible (R20), which slot an element fires (R21, R22), what a decided fire does in one
step (R24, R26, R28), its last-arrival note (R403), and how a meaning of an instruction becomes a step of the machine. -/

namespace Sys2Proof.Machine

/-! ## Sets of opcodes -/

/-- Fires that take a request tag (R252). [DEDUCED: log 53] -/
def takesTag (c : Nat) : Bool := inR c 0x90 0x9F || c == 0xA1 || c == 0xA2 || inR c 0xB0 0xB4
/-- Fires held back by a BOUNDS in flight in their element, or by a FENCE of their context (R259, R265). -/
def isMemFire (c : Nat) : Bool := inR c 0x90 0xA2 || inR c 0xB0 0xB4
/-- Fires that round under RM and so read FRM (R125, R209); conversions do under MODE 0. -/
def readsFrm (c mode : Nat) : Bool :=
  inR c 0x50 0x55 || [0x60, 0x65, 0x68, 0x69, 0x81, 0x85, 0x8A].contains c || ([0x70, 0x72, 0x74, 0x75, 0x78].contains c && mode == 0)
/-- Fires that draw (R95). -/
def isDraw (c : Nat) : Bool := c == 0x4E || c == 0x71

/-! ## What a fire reads -/

/-- The surroundings of a fire at its decision: the state, its element, context and slot, its trigger and update words, its
instruction, and the values of its sources. -/
structure Env where
  s : State
  e : Nat
  k : Nat
  j : Nat
  g : Region
  x : Elem
  c : Ctx
  i : Instr
  opc : Nat
  o : Op
  trig : Nat
  upd : Nat
  wide : Bool
  a : Val
  b : Val
  old : Val
  aTag : Option Nat
  bTag : Option Nat

/-- The lane width at which an opcode reads its sources (R96, R124). R12 names no width for the others, a wide store with a literal B among
them: the model reads them at 64 bits. [DESIGN CHOICE: log 76] -/
def readWidth (opc mode afmt : Nat) : Nat :=
  if inR opc 0x10 0x27 || inR opc 0x30 0x38 || inR opc 0x40 0x4C then intWidth mode
  else if isFloatMode opc then laneBits (opFormat mode afmt)
  else 64

/-- The value of DST1's register, which some instructions read (R101). -/
def Ctx.oldOf (c : Ctx) (d : Dst) : Val :=
  match d with
  | .d n => c.reg n.val
  | _ => {}

/-- The values of A and B as a fire that moves them writes them (R71, R72). -/
def Env.moved (v : Env) : Val := v.a.clean v.wide
def Env.movedB (v : Env) : Val := v.b.clean v.wide

/-- The surroundings of instruction i in slot j of context k of element e, if i is a fire and the element is in a region. -/
def State.envAt (s : State) (e k j : Nat) (i : Instr) : Option Env :=
  match i.parts, s.regionOf e with
  | some (opc, o), some g =>
    let x := s.elem e
    let c := x.ctx k
    let wide := isWide e
    let eid := s.elemid e
    let own := isConv opc
    let a0 := x.operand wide c s.tick eid 64 own o.a
    let w := readWidth opc o.mode.val a0.fmt
    let sl := x.active.slot j
    some { s := s, e := e, k := k, j := j, g := g, x := x, c := c, i := i, opc := opc, o := o, trig := sl.trig.toNat
           upd := sl.upd.toNat, wide := wide, a := x.operand wide c s.tick eid w own o.a
           b := x.operand wide c s.tick eid w own o.b, old := c.oldOf o.d1, aTag := x.srcTag s.tick o.a, bTag := x.srcTag s.tick o.b }
  | _, _ => none

/-- The surroundings of a fire at the cursor. [DEDUCED: log 11] -/
def State.env (s : State) (i : Instr) : Option Env := s.envAt s.cursor.elem s.cursor.ctx s.cursor.slot i

/-! ## Eligibility (R20) -/

/-- The registers an operand pair and an old value name (condition 6 of R20). -/
def opReads (o : Op) (opc : Nat) : List Nat :=
  let r := fun (x : Src) => match x with | .d n => [n.val] | _ => []
  r o.a ++ r o.b ++ (if readsOld opc then (match o.d1 with | .d n => [n.val] | _ => []) else [])

/-- The registers an operation names as destinations. -/
def opWrites (o : Op) : List Nat :=
  let r := fun (x : Dst) => match x with | .d n => [n.val] | _ => []
  r o.d1 ++ r o.d2

/-- The output channels an operation reserves entries in; a reply channel is none (R55). -/
def opOuts (o : Op) (opc : Nat) : List Nat :=
  let r := fun (x : Dst) => match x with | .chan n => [n.val] | _ => []
  if isReply opc then [] else r o.d1 ++ r o.d2

/-- The opcode and operands of a fire in flight. -/
def Flight.opc (f : Flight) : Nat := (f.instr.opcode).getD 0
def Flight.op (f : Flight) : Op := (f.instr.op).getD default

/-- The fires in flight of a context. -/
def State.flightsOf (s : State) (e k : Nat) : List Flight := s.flights.filter fun f => f.elem == e && f.ctx == k

/-- The registers of a context that await a write (R20). -/
def State.awaiting (s : State) (e k : Nat) : List Nat := (s.flightsOf e k).flatMap fun f => opWrites f.op

/-- The special registers of a context that await a write, by number (R209). -/
def State.srAwaiting (s : State) (e k : Nat) : List Nat :=
  (s.flightsOf e k).flatMap fun f =>
    (if f.res.wv.isSome then [0] else []) ++ (match f.res.sr with | some (n, _) => [n] | none => [])

/-- The special registers a fire reads, named or implicit (R109, R209, R211). -/
def Env.srReads (v : Env) : List Nat :=
  let isWv := fun (x : Src) => x == .wv
  (if isWv v.o.a || isWv v.o.b || isChain v.opc then [0] else [])
    ++ (if readsFrm v.opc v.o.mode.val then [1] else [])
    ++ (if isDraw v.opc then [7, 8] else [])
    ++ (if inR v.opc 0xE0 0xEE then [6] else [])
    ++ (if v.opc == 0xF2 || v.opc == 0xF3 then [v.a.n64] else [])
    ++ (match v.i with | .fret _ => [0x0A] | _ => [])

/-- Whether the head of channel n meets PRESENT, CONTROL and TSEL (conditions 3 and 4 of R20). -/
def Elem.headOk (x : Elem) (t trig n : Nat) : Bool :=
  !bit trig (12 + n) ||
    (match (x.in_ n).head t with
     | none => false
     | some h => if bit trig (8 + n) then h.tag == bits trig 7 5 else decide (h.tag ≤ 1))

/-- Condition 2 of R20. -/
def predsOk (trig : Nat) (p : BitVec 8) : Bool := (p.toNat &&& bits trig 31 24) == bits trig 23 16

/-- Whether an element may decide fires at all: it is loaded in a live region that is not frozen, has not halted or drained,
its region has not halted or ended, its tile has swapped and its clock runs, and the package is not stopped (R111, R180, R181,
R186, R359, R381, R405). [DEDUCED: log 67] -/
def State.runs (s : State) (e : Nat) (g : Region) : Bool :=
  let x := s.elem e
  let t := s.tile (elemTile e)
  x.loaded && g.live && (g.freeze.isNone || decide (s.tick < g.freezeAt)) && !x.halted && !x.frozen && !x.drained
    && (match g.halt with | some (h, _, _) => decide (s.tick ≤ h) | none => true) && g.ending.isNone
    && decide (t.startAt ≤ s.tick) && !t.gated && t.wakeAt.isNone && !t.powerOff && !s.dbg.stopped

/-- Whether a fire meets the conditions of R20, with the further ones of R183, R213, R220, R252, R259 and R265. -/
def Env.met (v : Env) : Bool :=
  let fl := v.s.flightsOf v.e v.k
  let aw := v.s.awaiting v.e v.k
  let sa := v.s.srAwaiting v.e v.k
  v.x.active.ctxen.testBit v.k && (!bit v.upd 10 || bits v.upd 9 8 == v.k) && bit v.upd 0
    && predsOk v.trig v.c.preds
    && (List.range 4).all (v.x.headOk v.s.tick v.trig)
    && (opOuts v.o v.opc).all (fun n => (v.x.out n).hasRoom)
    && (opReads v.o v.opc).all (fun n => !aw.contains n)
    && v.srReads.all (fun n => !sa.contains n)
    && !fl.any (fun f => f.upd.toNat.testBit 12 || f.trapPend)
    && !v.c.ended && decide (v.c.inv < v.g.passed + v.g.invwin) && decide (v.c.yieldTo ≤ v.s.tick)
    && (!takesTag v.opc || decide (v.x.tags.length < 16))
    && (!isMemFire v.opc || (!(v.s.flights.any fun f => f.elem == v.e && f.opc == 0xA1) && !fl.any (fun f => f.opc == 0xB3)))

/-- Whether a fire is eligible in an element that may decide (R20). -/
def Env.eligible (v : Env) : Bool := v.s.runs v.e v.g && v.met

/-- An element decides at most one fire in a cycle (R21). [DEDUCED: log 11] -/
def Env.ready (v : Env) : Bool := v.eligible && !v.x.busyAt v.s.tick

/-- The instruction in a valid slot of an element's active plane. -/
def State.slotInstr (s : State) (e j : Nat) : Option Instr :=
  let p := (s.elem e).active
  let sl := p.slot j
  let u := sl.upd.toNat
  if bit u 0 then
    match decode (isWide e) p.repl (bit u 4) (bit u 3) sl.op with
    | .ok i => some i
    | .error _ => none
  else none

/-- Whether slot j meets the conditions of R20 in context k, whether or not the element may decide. -/
def State.slotMet (s : State) (e k j : Nat) : Bool :=
  match (s.slotInstr e j).bind (s.envAt e k j) with
  | some v => v.met
  | none => false

/-- Whether slot j is eligible in context k. -/
def State.eligible (s : State) (e k j : Nat) : Bool :=
  match (s.slotInstr e j).bind (s.envAt e k j) with
  | some v => v.eligible
  | none => false

/-- The eligible slots of a context, by index. -/
def State.eligibleSlots (s : State) (e k : Nat) : List Nat := (List.range 16).filter fun j => s.eligible e k j

/-! ## Choosing the fire (R21, R22) -/

/-- The slot that a context fires among its eligible ones (R21 step 2); after a thaw by CONTINUE, first the BRK that trapped
(R406). -/
def pickSlot (x : Elem) (c : Ctx) (el : List Nat) : Option Nat :=
  match (c.breakPass.toList ++ c.aged).filter (el.contains ·) with
  | j :: _ => some j
  | [] => match el.filter fun j => (x.active.slot j).trig.toNat.testBit 0 with
    | j :: _ => some j
    | [] => el.head?

/-- The context and slot that an element fires in this cycle (R21). [DESIGN CHOICE: log 2] -/
def State.choose (s : State) (e : Nat) : Option (Nat × Nat) :=
  let x := s.elem e
  if x.busyAt s.tick then none
  else
    ((List.range 4).map fun n => (x.last + 1 + n) % 4).findSome? fun k =>
      (pickSlot x (x.ctx k) (s.eligibleSlots e k)).map fun j => (k, j)

/-- The fairness counters of a context after a decision in which slots `el` were eligible and, if the context was chosen, slot
`fired` fired (R22). -/
def Ctx.age (c : Ctx) (fairwin : Nat) (el : List Nat) (fired : Option Nat) : Ctx :=
  let fair := (List.range 16).map fun n =>
    let f := c.fair.getD n 0
    if !el.contains n || fired == some n then 0 else if fired.isSome then min (f + 1) 15 else f
  let kept := c.aged.filter fun n => el.contains n && fired != some n
  let new := (List.range 16).filter fun n => decide (fairwin ≤ fair.getD n 0) && !kept.contains n
  { c with fair := fair, aged := kept ++ new }

/-- The contexts of an element after a decision of slot j in context k (R22). -/
def State.agedCtxs (s : State) (e fairwin k j : Nat) : List Ctx :=
  (List.range 4).map fun n => ((s.elem e).ctx n).age fairwin (s.eligibleSlots e n) (if n = k then some j else none)

/-! ## Last-arrival notes (R403) -/

/-- The conditions of R20 that a fire met, each with its cause number, channel or register, and the tick at which it was met. A special register that
the fire reads counts as a register, under 16 + its number (R209). [DEDUCED: log 16] -/
def Env.causes (v : Env) : List (Nat × Nat × Nat) :=
  let heads := (List.range 4).flatMap fun n =>
    if bit v.trig (12 + n) then (match (v.x.in_ n).head v.s.tick with
      | some h => [(if h.org == .reply then 5 else 1, n, h.seen)]
      | none => []) else []
  let regs := (opReads v.o v.opc).flatMap fun n => let t := v.c.regTime.getD n 0; if t = 0 then [] else [(2, n, t)]
  let preds := (List.range 8).flatMap fun n => let t := v.c.predTimes.getD n 0; if bit v.trig (24 + n) && t != 0 then [(3, n, t)] else []
  let outs := (opOuts v.o v.opc).flatMap fun n => let t := (v.x.out n).room; if t = 0 then [] else [(4, n, t)]
  let tags := if takesTag v.opc && v.x.tagTime != 0 then [(5, 0, v.x.tagTime)] else []
  let pend := if v.c.pended.1 = 0 then [] else [(3, v.c.pended.2, v.c.pended.1)]
  let srs := v.srReads.flatMap fun n => let t := tget v.c.srTimes n 0; if t = 0 then [] else [(2, 16 + n, t)]
  heads ++ regs ++ srs ++ preds ++ pend ++ outs ++ tags

/-- The condition met last, the lower cause number in a tie; cause 0 where there was none (R403). -/
def lastMet (l : List (Nat × Nat × Nat)) : Nat × Nat × Nat :=
  l.foldl (fun m x => if m.1 = 0 || m.2.2 < x.2.2 || (m.2.2 == x.2.2 && decide (x.1 < m.1)) then x else m) (0, 0, 0)

/-- The note of a fire of latency lat; the completion of one that waits for an event is still to come (R403). -/
def Env.note (v : Env) (lat : Nat) (wait : Wait) (srs : List Nat := []) : Note :=
  let m := lastMet v.causes
  { fire := v.s.ids, tick := v.s.tick, ctx := v.k, slot := v.j, lat := lat, comp := if wait = .lat then some (v.s.tick + lat) else none, cause := m.1, idx := m.2.1, met := m.2.2
    org := if m.1 = 1 then (match (v.x.in_ m.2.1).head v.s.tick with | some h => h.org | none => .none) else .none
    freer := if m.1 = 4 then (v.x.out m.2.1).freed else 0, writes := opWrites v.o ++ srs, changesPreds := bits v.upd 31 16 != 0 || bit v.upd 12, outs := opOuts v.o v.opc }

/-- The note before a note on a critical path, with its element (R403): a head leads to the element whose output channel it left,
room to the fire whose entry made it. -/
def State.stepBack (s : State) (e : Nat) (n : Note) : Option (Nat × Note) :=
  let ns := (s.elem e).notes
  let latest := fun (u : Nat) (l : List Note) (p : Note → Bool) => ((l.filter p).getLast?).map fun m => (u, m)
  if n.cause = 1 then
    match n.org with
    | .chan u _ => latest u (s.elem u).notes fun m => m.comp.any fun c => decide (c + travel (elemTile u) (elemTile e) + 1 ≤ n.met)
    | _ => none
  else if n.cause = 2 then latest e ns fun m => m.ctx == n.ctx && m.writes.contains n.idx && m.comp.any fun c => decide (c ≤ n.met)
  else if n.cause = 3 then latest e ns fun m => m.ctx == n.ctx && m.changesPreds && decide (m.tick < n.met)
  else if n.cause = 4 then latest e ns fun m => m.fire == n.freer
  else none

/-! ## The decision -/

/-- What a fire does at its decision, as its instruction gives it: its latency, its results for DST1 and DST2 (none: nothing is
written), its predicate result and flags, a tag of its own, a special register it writes, whether it draws, what its completion
waits for, and whether its context is trap-pending. -/
structure Go where
  lat : Nat := 1
  d1 : Option Val := none
  d2 : Option Val := none
  pred : Bool := false
  flags : Flags := 0
  tag : Option Nat := none
  wv : Option (BitVec 16) := none
  sr : Option (Nat × Word) := none
  draw : Bool := false
  wait : Wait := .lat
  trapPend : Bool := false
deriving DecidableEq, Repr

/-- The outcome of a decision: the fire traps (with the detail, lane and address of its record), or goes. -/
inductive Dec where
  | trap (t : Trap) (detail lane addr : Nat)
  | go (g : Go)
deriving DecidableEq, Repr

/-- The special registers that a fire writes at its completion, as 16 + their number. -/
def Go.srWrites (g : Go) : List Nat := (if g.wv.isSome then [16] else []) ++ (match g.sr with | some (n, _) => [16 + n] | none => [])

/-- A head as a fire takes it: it bears the first fire that has dequeued it (R28). -/
def Token.takenBy (k : Token) (f : Nat) : Token := { k with taken := if k.taken = 0 then f else k.taken }

/-- The heads a fire dequeues (R24). -/
def Env.heads (v : Env) : List (Nat × Token) :=
  (List.range 4).filterMap fun n => if bit v.trig (1 + n) then ((v.x.in_ n).head v.s.tick).map fun k => (n, k.takenBy v.s.ids) else none

/-- Whether a register of d8 to d15 of the context lies in an accumulator column (R247, R248). -/
def Ctx.inColumn (c : Ctx) : Bool := bits c.spmap.toNat 15 14 == 2

/-- Two cycles more for a source in an accumulator column (R100, R247): a fire that waits sends what it sends that much later. -/
def Env.extraLat (v : Env) : Nat := if v.c.inColumn && (opReads v.o v.opc).any (fun n => decide (8 ≤ n)) then 2 else 0

/-- The tag of the tokens a fire emits. -/
def Env.tag (v : Env) (g : Go) : Nat := g.tag.getD (tagOf v.opc v.o.tact.val v.aTag v.bTag)

/-- The fire in flight that a decision makes. -/
def Env.flight (v : Env) (g : Go) : Flight :=
  let lat := g.lat + v.extraLat
  { id := v.s.ids, elem := v.e, ctx := v.k, slot := v.j, region := v.g.id, instr := v.i
    trig := BitVec.ofNat 32 v.trig, opw := (v.x.active.slot v.j).op, upd := BitVec.ofNat 32 v.upd, decided := v.s.tick
    due := match g.wait with | .lat => some (v.s.tick + lat) | .halt _ => some (v.s.tick + lat) | _ => none
    ready := false
    res := { d1 := g.d1, d2 := g.d2, pred := g.pred, flags := g.flags, tag := v.tag g, wv := g.wv, sr := g.sr }
    heads := v.heads, oldPreds := v.c.preds, trapPend := g.trapPend, inv := v.c.inv, wait := g.wait, a := v.a.w64, b := v.b.w64
    reqTag := if takesTag v.opc then (List.range 16).find? (fun n => !v.x.tags.contains n) else none
    resumed := false, lost := [], walking := !v.x.walks.isEmpty, sent := v.s.tick + v.extraLat }

/-- The predicates after CLEAR and then SET (R24). -/
def predsNext (upd : Nat) (p : BitVec 8) : BitVec 8 :=
  (p &&& ~~~(BitVec.ofNat 8 (bits upd 23 16))) ||| BitVec.ofNat 8 (bits upd 31 24)

/-- The change times of the predicates when they go from p to q at tick t (R403). -/
def predTimesNext (l : List Nat) (p q : BitVec 8) (t : Nat) : List Nat :=
  l.mapIdx fun n o => if p.getLsbD n == q.getLsbD n then o else t

/-- An input channel after the dequeue of its head (R14); an EBB dequeued is counted by the drain logic, not here. -/
def InCh.dequeue (c : InCh) (keep : Bool) : InCh :=
  { c with q := c.q.tail, kept := if keep then c.kept + 1 else c.kept }

/-- The context of a fire after the atomic step of R24. -/
def Env.ctxNext (v : Env) (g : Go) (c : Ctx) : Ctx :=
  { c with preds := predsNext v.upd c.preds
           predTimes := predTimesNext c.predTimes c.preds (predsNext v.upd c.preds) (v.s.tick + 1)
           rngpos := if g.draw then drawNext c.rngpos else c.rngpos
           breakPass := none }

/-- The element of a fire after the atomic step of R24. -/
def Env.elemNext (v : Env) (g : Go) : Elem :=
  let x := v.x
  let ins := x.ins.mapIdx fun n c => if bit v.trig (1 + n) then c.dequeue g.trapPend else c
  let outs := x.outs.mapIdx fun n c => if (opOuts v.o v.opc).contains n then { c with q := c.q ++ [OutEntry.rsv v.s.ids] } else c
  let ctxs := (v.s.agedCtxs v.e v.g.fairwin v.k v.j).modify v.k (v.ctxNext g)
  { x with ins := ins, outs := outs, ctxs := ctxs, last := v.k, decided := v.s.tick + 1
           tags := match (v.flight g).reqTag with | some n => n :: x.tags | none => x.tags
           notes := (x.notes ++ [v.note (g.lat + v.extraLat) g.wait g.srWrites]).drop (x.notes.length - 15) }

/-- The sample record of a traced element, for its first fire at or after a multiple of P: none of its fires has been decided since, be it that it
trapped (R402). -/
def Env.sample (v : Env) (lat : Nat) (wait : Wait) (s : State) : State :=
  let p := bits s.dbg.sample.toNat 31 0
  if p = 0 || !s.traced v.g.id || decide (s.tick / p * p < v.x.decided) || (v.x.notes.getLast?.any fun m => decide (s.tick / p * p ≤ m.tick)) then s
  else
    let n := v.note lat wait
    let prod := match s.stepBack v.e n with | some (_, m) => m.tick | none => 0
    s.trace 4 0 (placeBits v.e v.k v.j 0) (n.cause * 2 ^ 32 + ((v.x.active.slot v.j).op).toNat) prod

/-- The state after the decision of a fire that does not trap (R24). -/
def Env.commit (v : Env) (g : Go) : State :=
  let s1 := v.s.setElem v.e (v.elemNext g)
  let s2 := { s1 with flights := s1.flights ++ [v.flight g], ids := s1.ids + 1 }
  let s3 := s2.modRegion v.g.id fun r =>
    { r with first := if r.first.isNone then some v.s.tick else r.first, lastFire := v.s.tick }
  let s4 := if s3.traced v.g.id then s3.perf 0 1 else s3
  v.sample (g.lat + v.extraLat) g.wait s4

/-- A fire that has been decided is undone (R28): its heads return to the front of their channels, the predicates of SET and CLEAR
and the hold states that a REL gave up take their prior values, its reservations and its request tag are released. -/
def State.undoFire (s : State) (f : Flight) : State :=
  let m := BitVec.ofNat 8 (bits f.upd.toNat 23 16 ||| bits f.upd.toNat 31 24)
  let s1 := s.modElem f.elem fun x =>
    let ins := x.ins.mapIdx fun n c =>
      match f.heads.find? (·.1 == n) with
      | some (_, h) => c.restore h
      | none => c
    { x with ins := ins, outs := x.outs.map fun c => c.settle f.id none
             tags := match f.reqTag with | some n => x.tags.erase n | none => x.tags
             ctxs := x.ctxs.modify f.ctx fun c =>
               { c with preds := (c.preds &&& ~~~m) ||| (f.oldPreds &&& m)
                        holds := f.oldHolds.foldl (fun l p => l.set p.1 p.2) c.holds } }
  { s1 with flights := s1.flights.filter (·.id != f.id), accesses := s1.accesses.filter (·.fire != f.id) }

/-- A trap of a fire detected after its decision (R28). Its context decides no fire in the cycle of the detection (R27). [DEDUCED: log 12] -/
def State.lateTrap (s : State) (f : Flight) (t : Trap) (addr : Nat) : State :=
  ((s.undoFire f).takeTrap f.elem f.ctx f.slot f.inv f.heads t 0 0 addr).modElem f.elem fun x =>
    { x with ctxs := x.ctxs.modify f.ctx fun c => { c with yieldTo := max c.yieldTo (s.tick + 1) } }

/-- The detection point of a fire passes without a trap: the kept entries are freed, and an arrival may take them in the next cycle (R28). -/
def State.detected (s : State) (f : Nat) : State :=
  match s.flight? f with
  | some x =>
    if x.trapPend then
      (s.modFlight f fun y => { y with trapPend := false }).modElem x.elem fun e =>
        { e with ctxs := e.ctxs.modify x.ctx fun c => { c with pended := (s.tick, 0) }, ins := e.ins.mapIdx fun n c => if x.heads.any (·.1 == n) then { c with kept := c.kept - 1, freeing := c.freeing + 1 } else c }
    else s
  | none => s

/-- The state after the decision of a fire that traps (R27): nothing but the record and the element's decision, which counts as one and may be the
sampled one (R402, R407). -/
def Env.trapped (v : Env) (t : Trap) (detail lane addr : Nat) : State :=
  let s1 := (v.s.takeTrap v.e v.k v.j v.c.inv v.heads t detail lane addr).modElem v.e fun x => { x with decided := v.s.tick + 1 }
  v.sample 1 .lat (if v.s.traced v.g.id then s1.perf 0 1 else s1)

/-- The step of an instruction with a meaning: `sem` says what the fire does at its decision, and `post` what it does to the rest
of the machine in that step. A fire that is not eligible is not decided (R20). [DEDUCED: log 11] -/
def fireWith (sem : Env → Dec) (post : Env → Go → State → State) (i : Instr) (s : State) : Host.Outcome State Fault Refusal :=
  match s.env i with
  | none => .next s
  | some v =>
    if v.ready then
      match sem v with
      | .trap t d l a => .next (v.trapped t d l a)
      | .go g => .next (post v g (v.commit g))
    else .next s

/-- The step of an instruction that touches nothing beyond its element. -/
def fire (sem : Env → Dec) (i : Instr) (s : State) : Host.Outcome State Fault Refusal :=
  fireWith sem (fun _ _ s => s) i s

/-- A result for both destinations (R98). -/
def Go.both (lat : Nat) (v : Val) : Go := { lat := lat, d1 := some v, d2 := some v }

end Sys2Proof.Machine
end

