-- ==== Sys2Proof/Machine/Integer.lean ====
section
/-! DEFINITION. The integer instructions (spec/05_instr_integer_stream.md R96 to R101, R113 to R115): one lane function for each,
applied to every lane by `intFire`; the fixed-width ones by `fixFire`. -/

namespace Sys2Proof.Machine

/-- A lane-wise integer fire: `f n a b old` gives the lane result and its condition, `lat n` the latency (R96 to R100). `two` says
whether B is a source. [DESIGN CHOICE: log 90] -/
def intSem (two : Bool) (lat : Nat → Nat) (f : Nat → Nat → Nat → Nat → Nat × Bool) (v : Env) : Dec :=
  let n := intWidth v.o.mode.val
  let nv := validOf v.wide n (if two then [v.a, v.b] else [v.a])
  let r := lanewise nv fun l =>
    let x := f n (laneAt v.a.bits.toNat n l) (laneAt v.b.bits.toNat n l) (laneAt v.old.bits.toNat n l)
    (x.1 % 2 ^ n, x.2, 0)
  .go { Go.both (lat n) (laneVal v.wide n (intFmt v.a.fmt n) r.1) with pred := r.2.1 }

/-- A lane-wise integer fire of two sources with a fixed latency. -/
def intFire (lat : Nat) (f : Nat → Nat → Nat → Nat × Bool) (i : Instr) (s : State) : Host.Outcome State Fault Refusal :=
  fire (intSem true (fun _ => lat) fun n a b _ => f n a b) i s

/-- A lane-wise integer fire of one source with a fixed latency. -/
def intFire1 (lat : Nat) (f : Nat → Nat → Nat × Bool) (i : Instr) (s : State) : Host.Outcome State Fault Refusal :=
  fire (intSem false (fun _ => lat) fun n a _ _ => f n a) i s

/-- Latency of a division by lane width (R114). -/
def divLat (n : Nat) : Nat := if n = 64 then 24 else if n = 32 then 16 else if n = 16 then 10 else 8

/-- A division, whose latency is set by the lane width (R114). -/
def divFire (f : Nat → Nat → Nat → Nat × Bool) (i : Instr) (s : State) : Host.Outcome State Fault Refusal :=
  fire (intSem true divLat fun n a b _ => f n a b) i s

/-- A fixed-width integer fire on 64-bit lanes with its own format code (R115). -/
def fixFire (two : Bool) (lat fmt : Nat) (f : Nat → Nat → Nat) (i : Instr) (s : State) : Host.Outcome State Fault Refusal :=
  fire (fun v =>
    let nv := validOf v.wide 64 (if two then [v.a, v.b] else [v.a])
    let r := lanewise nv fun l => (f (laneAt v.a.bits.toNat 64 l) (laneAt v.b.bits.toNat 64 l) % 2 ^ 64, false, 0)
    .go (.both lat (laneVal v.wide 64 fmt r.1))) i s

/-- The smallest signed value of n bits. -/
def minS (n : Nat) : Int := -(2 ^ (n - 1) : Nat)

/-- A signed result saturated to n bits, and whether it was (R113). -/
def satS (n : Nat) (v : Int) : Nat × Bool :=
  let r := satI v (minS n) (-minS n - 1)
  (wrapN r n, decide (r ≠ v))

/-- ADD: wrap(a + b); the predicate result is the carry (R113). -/
def execAdd (o : Op) (s : State) : Host.Outcome State Fault Refusal :=
  intFire 1 (fun n a b => (a + b, decide (2 ^ n ≤ a + b))) (.add o) s

/-- SUB: wrap(a - b); the predicate result is the borrow (R113). -/
def execSub (o : Op) (s : State) : Host.Outcome State Fault Refusal :=
  intFire 1 (fun n a b => (wrapN ((a : Int) - b) n, decide (a < b))) (.sub o) s

/-- NEG: wrap(-a); the predicate result is s(a) = min (R113). -/
def execNeg (o : Op) (s : State) : Host.Outcome State Fault Refusal :=
  intFire1 1 (fun n a => (wrapN (-(a : Int)) n, decide (sextN a n = minS n))) (.neg o) s

/-- MUL: wrap(a × b); the predicate result says that the signed product is out of range (R113). -/
def execMul (o : Op) (s : State) : Host.Outcome State Fault Refusal :=
  intFire 3 (fun n a b => (a * b, (satS n (sextN a n * sextN b n)).2)) (.mul o) s

/-- MULH: the high half of the signed product (R113). -/
def execMulh (o : Op) (s : State) : Host.Outcome State Fault Refusal :=
  intFire 3 (fun n a b => (wrapN (sextN a n * sextN b n / (2 ^ n : Nat)) n, false)) (.mulh o) s

/-- MULHU: the high half of the unsigned product (R113). -/
def execMulhu (o : Op) (s : State) : Host.Outcome State Fault Refusal :=
  intFire 3 (fun n a b => (a * b / 2 ^ n, false)) (.mulhu o) s

/-- MAD: wrap(old + a × b), old being DST1 at decision (R101, R113). -/
def execMad (o : Op) (s : State) : Host.Outcome State Fault Refusal :=
  fire (intSem true (fun _ => 3) fun _ a b old => (old + a * b, false)) (.mad o) s

/-- DIVU: unsigned quotient, all ones for a divisor of zero (R114). -/
def execDivu (o : Op) (s : State) : Host.Outcome State Fault Refusal :=
  divFire (fun n a b => (if b = 0 then 2 ^ n - 1 else a / b, decide (b = 0))) (.divu o) s

/-- REMU: unsigned remainder, the dividend for a divisor of zero (R114). -/
def execRemu (o : Op) (s : State) : Host.Outcome State Fault Refusal :=
  divFire (fun _ a b => (if b = 0 then a else a % b, decide (b = 0))) (.remu o) s

/-- The condition of DIV and REM: a divisor of zero, or min divided by -1 (R113). -/
def divCond (n a b : Nat) : Bool := decide (b = 0) || (decide (sextN a n = minS n) && decide (sextN b n = -1))

/-- DIV: quotient truncated towards zero; -1 for a divisor of zero, min on overflow (R114). -/
def execDiv (o : Op) (s : State) : Host.Outcome State Fault Refusal :=
  divFire (fun n a b => (if b = 0 then 2 ^ n - 1 else if divCond n a b then a else wrapN ((sextN a n).tdiv (sextN b n)) n, divCond n a b)) (.div o) s

/-- REM: the remainder of DIV; the dividend for a divisor of zero, 0 on overflow (R114). -/
def execRem (o : Op) (s : State) : Host.Outcome State Fault Refusal :=
  divFire (fun n a b => (if b = 0 then a else if divCond n a b then 0 else wrapN ((sextN a n).tmod (sextN b n)) n, divCond n a b)) (.rem o) s

/-- ADDSAT: the signed sum saturated (R113). -/
def execAddsat (o : Op) (s : State) : Host.Outcome State Fault Refusal :=
  intFire 1 (fun n a b => satS n (sextN a n + sextN b n)) (.addsat o) s

/-- SUBSAT: the signed difference saturated (R113). -/
def execSubsat (o : Op) (s : State) : Host.Outcome State Fault Refusal :=
  intFire 1 (fun n a b => satS n (sextN a n - sextN b n)) (.subsat o) s

/-- ABS: wrap(abs(s(a))); min gives min (R113). -/
def execAbs (o : Op) (s : State) : Host.Outcome State Fault Refusal :=
  intFire1 1 (fun n a => ((sextN a n).natAbs, decide (sextN a n = minS n))) (.abs o) s

/-- MIN: the smaller of s(a) and s(b) (R113). -/
def execMin (o : Op) (s : State) : Host.Outcome State Fault Refusal :=
  intFire 1 (fun n a b => (if sextN a n ≤ sextN b n then a else b, false)) (.min o) s

/-- MAX: the larger of s(a) and s(b) (R113). -/
def execMax (o : Op) (s : State) : Host.Outcome State Fault Refusal :=
  intFire 1 (fun n a b => (if sextN b n ≤ sextN a n then a else b, false)) (.max o) s

/-- MINU: the smaller of u(a) and u(b) (R113). -/
def execMinu (o : Op) (s : State) : Host.Outcome State Fault Refusal :=
  intFire 1 (fun _ a b => (if a ≤ b then a else b, false)) (.minu o) s

/-- MAXU: the larger of u(a) and u(b) (R113). -/
def execMaxu (o : Op) (s : State) : Host.Outcome State Fault Refusal :=
  intFire 1 (fun _ a b => (if b ≤ a then a else b, false)) (.maxu o) s

/-- AND (R113). -/
def execAnd (o : Op) (s : State) : Host.Outcome State Fault Refusal :=
  intFire 1 (fun _ a b => (a &&& b, false)) (.and o) s

/-- OR (R113). -/
def execOr (o : Op) (s : State) : Host.Outcome State Fault Refusal :=
  intFire 1 (fun _ a b => (a ||| b, false)) (.or o) s

/-- XOR (R113). -/
def execXor (o : Op) (s : State) : Host.Outcome State Fault Refusal :=
  intFire 1 (fun _ a b => (a ^^^ b, false)) (.xor o) s

/-- ANDN: a and not b (R113). -/
def execAndn (o : Op) (s : State) : Host.Outcome State Fault Refusal :=
  intFire 1 (fun n a b => (a &&& (2 ^ n - 1 - b), false)) (.andn o) s

/-- ORN: a or not b (R113). -/
def execOrn (o : Op) (s : State) : Host.Outcome State Fault Refusal :=
  intFire 1 (fun n a b => (a ||| (2 ^ n - 1 - b), false)) (.orn o) s

/-- NOT (R113). -/
def execNot (o : Op) (s : State) : Host.Outcome State Fault Refusal :=
  intFire1 1 (fun n a => (2 ^ n - 1 - a, false)) (.not o) s

/-- ADDW: the 32-bit sum, sign-extended (R115). -/
def execAddw (o : Op) (s : State) : Host.Outcome State Fault Refusal :=
  fixFire true 1 5 (fun a b => wrapN (sextN (a + b) 32) 64) (.addw o) s

/-- SUBW: the 32-bit difference, sign-extended (R115). -/
def execSubw (o : Op) (s : State) : Host.Outcome State Fault Refusal :=
  fixFire true 1 5 (fun a b => wrapN (sextN (wrapN ((a : Int) - b) 32) 32) 64) (.subw o) s

/-- MULW: the 32-bit product, sign-extended (R115). -/
def execMulw (o : Op) (s : State) : Host.Outcome State Fault Refusal :=
  fixFire true 3 5 (fun a b => wrapN (sextN (a * b) 32) 64) (.mulw o) s

/-- SEXTB: sext(a[7:0]) (R115). -/
def execSextb (o : Op) (s : State) : Host.Outcome State Fault Refusal :=
  fixFire false 1 5 (fun a _ => wrapN (sextN a 8) 64) (.sextb o) s

/-- SEXTH: sext(a[15:0]) (R115). -/
def execSexth (o : Op) (s : State) : Host.Outcome State Fault Refusal :=
  fixFire false 1 5 (fun a _ => wrapN (sextN a 16) 64) (.sexth o) s

/-- SEXTW: sext(a[31:0]) (R115). -/
def execSextw (o : Op) (s : State) : Host.Outcome State Fault Refusal :=
  fixFire false 1 5 (fun a _ => wrapN (sextN a 32) 64) (.sextw o) s

/-- ZEXTB: zext(a[7:0]) (R115). -/
def execZextb (o : Op) (s : State) : Host.Outcome State Fault Refusal :=
  fixFire false 1 6 (fun a _ => a % 2 ^ 8) (.zextb o) s

/-- ZEXTH: zext(a[15:0]) (R115). -/
def execZexth (o : Op) (s : State) : Host.Outcome State Fault Refusal :=
  fixFire false 1 6 (fun a _ => a % 2 ^ 16) (.zexth o) s

/-- ZEXTW: zext(a[31:0]) (R115). -/
def execZextw (o : Op) (s : State) : Host.Outcome State Fault Refusal :=
  fixFire false 1 6 (fun a _ => a % 2 ^ 32) (.zextw o) s

end Sys2Proof.Machine
end

