-- ==== Sys2Proof/Machine/Bits.lean ====
section
/-! DEFINITION. Compare, select, shift, count and bit-field instructions, LEA, HASH and DRAW
(spec/05_instr_integer_stream.md R116 to R123). -/

namespace Sys2Proof.Machine

/-- A comparison writes 1 or 0 in each lane; its predicate result is the condition (R116). -/
def cmpFire (f : Nat → Nat → Nat → Bool) (i : Instr) (s : State) : Host.Outcome State Fault Refusal :=
  intFire 1 (fun n a b => (if f n a b then 1 else 0, f n a b)) i s

/-- CEQ: a = b (R116). -/
def execCeq (o : Op) (s : State) : Host.Outcome State Fault Refusal :=
  cmpFire (fun _ a b => decide (a = b)) (.ceq o) s

/-- CNE: a ≠ b (R116). -/
def execCne (o : Op) (s : State) : Host.Outcome State Fault Refusal :=
  cmpFire (fun _ a b => decide (a ≠ b)) (.cne o) s

/-- CLT: s(a) < s(b) (R116). -/
def execClt (o : Op) (s : State) : Host.Outcome State Fault Refusal :=
  cmpFire (fun n a b => decide (sextN a n < sextN b n)) (.clt o) s

/-- CLE: s(a) ≤ s(b) (R116). -/
def execCle (o : Op) (s : State) : Host.Outcome State Fault Refusal :=
  cmpFire (fun n a b => decide (sextN a n ≤ sextN b n)) (.cle o) s

/-- CLTU: u(a) < u(b) (R116). -/
def execCltu (o : Op) (s : State) : Host.Outcome State Fault Refusal :=
  cmpFire (fun _ a b => decide (a < b)) (.cltu o) s

/-- CLEU: u(a) ≤ u(b) (R116). -/
def execCleu (o : Op) (s : State) : Host.Outcome State Fault Refusal :=
  cmpFire (fun _ a b => decide (a ≤ b)) (.cleu o) s

/-- CTST: (a and b) ≠ 0 (R116). -/
def execCtst (o : Op) (s : State) : Host.Outcome State Fault Refusal :=
  cmpFire (fun _ a b => decide (a &&& b ≠ 0)) (.ctst o) s

/-- CMOVNZ and CMOVZ: A where the condition on B holds, the old value of DST1 elsewhere; the format code is A's integer code of
width n, else that of the old value (R117), whose lane a narrow result is cut to (R71). -/
def cmovSem (want : Bool) (v : Env) : Dec :=
  let n := intWidth v.o.mode.val
  let nv := validOf v.wide n [v.a, v.b]
  let r := lanewise nv fun l =>
    let c := (laneAt v.b.bits.toNat n l != 0) == want
    (if c then laneAt v.a.bits.toNat n l else laneAt v.old.bits.toNat n l, c, 0)
  let fmt := if isIntFmt v.a.fmt && laneBits v.a.fmt == n then v.a.fmt else v.old.fmt
  .go { Go.both 1 ((laneVal v.wide n fmt r.1).trim v.wide) with pred := r.2.1 }

/-- CMOVNZ: A where B is nonzero (R117). -/
def execCmovnz (o : Op) (s : State) : Host.Outcome State Fault Refusal :=
  fire (cmovSem true) (.cmovnz o) s

/-- CMOVZ: A where B is zero (R117). -/
def execCmovz (o : Op) (s : State) : Host.Outcome State Fault Refusal :=
  fire (cmovSem false) (.cmovz o) s

/-- SHL: wrap(u(a) × 2^c), c being the low log2 n bits of b (R118). -/
def execShl (o : Op) (s : State) : Host.Outcome State Fault Refusal :=
  intFire 1 (fun n a b => (a * 2 ^ (b % n), false)) (.shl o) s

/-- SHR: u(a) >> c (R118). -/
def execShr (o : Op) (s : State) : Host.Outcome State Fault Refusal :=
  intFire 1 (fun n a b => (a / 2 ^ (b % n), false)) (.shr o) s

/-- SAR: wrap(s(a) >> c) (R118). -/
def execSar (o : Op) (s : State) : Host.Outcome State Fault Refusal :=
  intFire 1 (fun n a b => (wrapN (sextN a n / (2 ^ (b % n) : Nat)) n, false)) (.sar o) s

/-- ROL: rotate left by c (R118). -/
def execRol (o : Op) (s : State) : Host.Outcome State Fault Refusal :=
  intFire 1 (fun n a b => (a * 2 ^ (b % n) % 2 ^ n ||| a / 2 ^ (n - b % n), false)) (.rol o) s

/-- ROR: rotate right by c (R118). -/
def execRor (o : Op) (s : State) : Host.Outcome State Fault Refusal :=
  intFire 1 (fun n a b => (a / 2 ^ (b % n) ||| a * 2 ^ (n - b % n) % 2 ^ n, false)) (.ror o) s

/-- Bit j of the result is bit n - 1 - j of a. -/
def revBits (n a : Nat) : Nat := packLanes 1 ((List.range n).map fun j => laneAt a 1 (n - 1 - j))

/-- Byte j of the result is byte n/8 - 1 - j of a. -/
def revBytes (n a : Nat) : Nat := packLanes 8 ((List.range (n / 8)).map fun j => laneAt a 8 (n / 8 - 1 - j))

/-- The number of zero bits below the lowest 1 of the n low bits of a; n when there is none. -/
def trailing (n a : Nat) : Nat := ((List.range n).find? fun j => bit a j).getD n

/-- CLZ: the zero bits above the highest 1, n for zero (R119). -/
def execClz (o : Op) (s : State) : Host.Outcome State Fault Refusal :=
  intFire1 1 (fun n a => (trailing n (revBits n a), decide (a = 0))) (.clz o) s

/-- CTZ: the zero bits below the lowest 1, n for zero (R119). -/
def execCtz (o : Op) (s : State) : Host.Outcome State Fault Refusal :=
  intFire1 1 (fun n a => (trailing n a, decide (a = 0))) (.ctz o) s

/-- POPC: the number of 1 bits (R119). -/
def execPopc (o : Op) (s : State) : Host.Outcome State Fault Refusal :=
  intFire1 1 (fun n a => (((List.range n).filter fun j => bit a j).length, decide (a = 0))) (.popc o) s

/-- BREV: the bits in reverse order (R119). -/
def execBrev (o : Op) (s : State) : Host.Outcome State Fault Refusal :=
  intFire1 1 (fun n a => (revBits n a, decide (a = 0))) (.brev o) s

/-- BSWAP: the bytes in reverse order (R119). -/
def execBswap (o : Op) (s : State) : Host.Outcome State Fault Refusal :=
  intFire1 1 (fun n a => (revBytes n a, decide (a = 0))) (.bswap o) s

/-- The position, length and sign bit of a bit field in b (R120), the length kept within the lane; none for an empty field. -/
def fieldOf (n b : Nat) : Option (Nat × Nat × Bool) :=
  let pos := b % 64
  let len := bits b 14 8
  if len = 0 ∨ n ≤ pos then none else some (pos, min len (n - pos), bit b 15)

/-- BFX extracts the bit field that b describes, zero for an empty one (R120). -/
def execBfx (o : Op) (s : State) : Host.Outcome State Fault Refusal :=
  intFire 1 (fun n a b => (match fieldOf n b with
    | none => 0
    | some (pos, w, sx) => let f := a / 2 ^ pos % 2 ^ w; if sx then wrapN (sextN f w) n else f, false)) (.bfx o) s

/-- BFI inserts the low bits of a into the old value of DST1 at the field that b describes (R120). -/
def execBfi (o : Op) (s : State) : Host.Outcome State Fault Refusal :=
  fire (intSem true (fun _ => 1) fun n a b old => (match fieldOf n b with
    | none => old
    | some (pos, w, _) => let mask := (2 ^ w - 1) * 2 ^ pos; (old &&& (2 ^ n - 1 - mask)) ||| (a * 2 ^ pos &&& mask), false)) (.bfi o) s

/-- LEA: wrap(u(a) + u(b) × 2^s, n) as U64, s in TACT; the predicate result is the carry (R121). -/
def execLea (o : Op) (s : State) : Host.Outcome State Fault Refusal :=
  fire (fun v =>
    let n := intWidth v.o.mode.val
    let x := v.a.n64 % 2 ^ n + v.b.n64 % 2 ^ n * 2 ^ v.o.tact.val
    .go { Go.both 1 (laneVal v.wide 64 6 [x % 2 ^ n]) with pred := decide (2 ^ n ≤ x) }) (.lea o) s

/-- The mixing of HASH: x under the key k (R122). -/
def mix64 (x k : Word) : Word :=
  let x := x ^^^ k.rotateLeft 23
  let x := x ^^^ (x >>> 33)
  let x := x * 0xD4E12B976C3FA85D
  let x := x ^^^ (x >>> 28)
  let x := x * 0x7B19E6A305C4D2F7
  x ^^^ (x >>> 31)

/-- HASH mixes each 64-bit lane of A under the same lane of B; RAW (R122). -/
def execHash (o : Op) (s : State) : Host.Outcome State Fault Refusal :=
  fixFire true 4 0 (fun a b => (mix64 (BitVec.ofNat 64 a) (BitVec.ofNat 64 b)).toNat) (.hash o) s

/-- A fire that draws: it traps RNG_SAT at the last index under RSTE, else advances the counter, with RNGSAT at the last index
(R91, R94). `f` gives the rest from the draw. [DEDUCED: log 10] -/
def drawing (f : Env → Word → Dec) (v : Env) : Dec :=
  if drawSat v.c.rngpos && v.c.frm.toNat.testBit 8 then .trap .rngSat 0 0 0
  else
    match f v (drawOf v.c.rngseed v.c.rngpos) with
    | .go g => .go { g with draw := true, flags := g.flags ||| flagIf (drawSat v.c.rngpos) fRNGSAT }
    | t => t

/-- DRAW writes one draw, in a wide element rotated left by 5 × l in lane l (R123). [DEDUCED: log 10] -/
def execDraw (o : Op) (s : State) : Host.Outcome State Fault Refusal :=
  fire (drawing fun v d => .go (.both 2 (laneVal v.wide 64 6
    (if v.wide then (List.range 8).map fun l => rotl64 d.toNat (5 * l) else [d.toNat])))) (.draw o) s

end Sys2Proof.Machine
end

