-- ==== Sys2Proof/Machine/Float.lean ====
section
/-! DEFINITION. Lane floating point (spec/06_instr_float_vector.md R124 to R137): one lane function for each instruction, applied
to every lane by `floatFire`. -/

namespace Sys2Proof.Machine

/-- FRM's rounding mode at decision (R88, R125). -/
def Env.rm (v : Env) : Rm := Rm.ofField v.c.frm.toNat

/-- A source carries the operation format or RAW (R124). -/
def codeOk (fmt : Nat) (v : Val) : Bool := v.fmt == fmt || v.fmt == 0

/-- A lane-wise float fire, whose valid lanes follow A and B, not the old value of DST1 (R72). [DESIGN CHOICE: log 76]
`f rm fmt a b old` gives the lane result, its condition and its flags. `two` says whether B is a
source, `three` whether the old value of DST1 is; `out` gives the result's format code (R124, R125). [DESIGN CHOICE: log 76] -/
def floatSem (two three : Bool) (lat : Nat) (out : Nat → Nat) (f : Rm → Nat → Nat → Nat → Nat → Nat × Bool × Flags) (v : Env) : Dec :=
  let fmt := opFormat v.o.mode.val v.a.fmt
  if !isIeee fmt || !codeOk fmt v.a || (two && !codeOk fmt v.b) || (three && !codeOk fmt v.old) then .trap .badFormat 0 0 0
  else
    let w := laneBits fmt
    let nv := validOf v.wide w (if two then [v.a, v.b] else [v.a])
    let r := lanewise nv fun l => f v.rm fmt (laneAt v.a.bits.toNat w l) (laneAt v.b.bits.toNat w l) (laneAt v.old.bits.toNat w l)
    .go { Go.both lat (laneVal v.wide w (out fmt) r.1) with pred := r.2.1, flags := r.2.2 }

/-- A float fire of two sources whose result is in the operation format. -/
def floatFire (lat : Nat) (f : Rm → Nat → Nat → Nat → Nat × Flags) (i : Instr) (s : State) : Host.Outcome State Fault Refusal :=
  fire (floatSem true false lat id fun rm fmt a b _ => let r := f rm fmt a b; (r.1, false, r.2)) i s

/-- A float fire of one source whose result is in the operation format. -/
def floatFire1 (lat : Nat) (f : Rm → Nat → Nat → Nat × Flags) (i : Instr) (s : State) : Host.Outcome State Fault Refusal :=
  fire (floatSem false false lat id fun rm fmt a _ _ => let r := f rm fmt a; (r.1, false, r.2)) i s

/-- A signalling NaN operand sets NV (R75). -/
def sigFlag (l : List Num) : Flags := flagIf (l.any Num.isSnan) fNV

/-- A sum rounded once; ∞ - ∞ of operands that are not NaN is invalid (R127). -/
def sumOut (rm : Rm) (fmt : Nat) (x y : Num) (fl : Flags) : Nat × Flags :=
  let r := encodeFloat fmt rm (Num.add rm x y)
  match Num.add rm x y with
  | .nan _ => (canonNan fmt, fl ||| flagIf (!x.isNan && !y.isNan) fNV)
  | _ => (r.1, r.2 ||| fl)

/-- A product is invalid: 0 × ∞ (R127). -/
def badProduct (x y : Num) : Bool := !x.isNan && !y.isNan && (Num.mul x y).isNan

/-- a × b, then plus or minus an addend, fused (R127): `sub` negates the addend, `rev` the product. -/
def fusedOut (sub rev : Bool) (rm : Rm) (fmt a b c : Nat) : Nat × Bool × Flags :=
  let x := decodeIeee fmt a
  let y := decodeIeee fmt b
  let z := decodeIeee fmt c
  let fl := sigFlag [x, y, z] ||| flagIf (badProduct x y) fNV
  let p := Num.mul x y
  if x.isNan || y.isNan || z.isNan || badProduct x y then (canonNan fmt, false, fl)
  else
    let r := sumOut rm fmt (if rev then p.negate else p) (if sub then z.negate else z) fl
    (r.1, false, r.2)

/-- The sign bit of a lane. -/
def signBit (fmt : Nat) : Nat := 2 ^ (laneBits fmt - 1)
/-- A lane without its sign bit. -/
def magBits (fmt a : Nat) : Nat := a % signBit fmt

/-- FMIN and FMAX: -0 below +0, one NaN gives the other operand (R128). -/
def minMax (pickB : Num → Num → Bool) (fmt a b : Nat) : Nat × Flags :=
  let x := decodeIeee fmt a
  let y := decodeIeee fmt b
  let fl := sigFlag [x, y]
  if x.isNan && y.isNan then (canonNan fmt, fl) else if x.isNan then (b, fl) else if y.isNan then (a, fl)
  else (if pickB x y then b else a, fl)

/-- A sign operation: a NaN in a gives the canonical NaN (R129). -/
def signOut (fmt a r : Nat) : Nat × Flags :=
  let x := decodeIeee fmt a
  if x.isNan then (canonNan fmt, sigFlag [x]) else (r, 0)

/-- A float comparison writes 1 or 0 as I32 or RAW (R130): `f` decides two numbers, `un` is the answer for a NaN, `quiet` says
that a quiet NaN sets no flag. -/
def fcmpFire (un quiet : Bool) (f : Ordering → Bool) (i : Instr) (s : State) : Host.Outcome State Fault Refusal :=
  fire (floatSem true false 1 (fun fmt => if fmt = 7 then 3 else 0) fun _ fmt a b _ =>
    let x := decodeIeee fmt a
    let y := decodeIeee fmt b
    let c := if x.isNan || y.isNan then un else f (x.cmp y)
    (if c then 1 else 0, c, if quiet then sigFlag [x, y] else flagIf (x.isNan || y.isNan) fNV)) i s

/-- The class mask of FCLASS (R130). -/
def classMask (fmt a : Nat) : Nat :=
  let fb := (ieeeParams fmt).2
  let sub := decide (magBits fmt a < 2 ^ fb)
  match decodeIeee fmt a with
  | .nan sg => if sg then 2 ^ 8 else 2 ^ 9
  | .inf s => if s then 2 ^ 0 else 2 ^ 7
  | .fin s m _ =>
    if m = 0 then (if s then 2 ^ 3 else 2 ^ 4)
    else if sub then (if s then 2 ^ 2 else 2 ^ 5)
    else (if s then 2 ^ 1 else 2 ^ 6)

/-- Rounding to an integral value in the same format (R131); `nx` says that an inexact rounding sets NX. -/
def integralOut (nx : Bool) (rm : Rm) (fmt a : Nat) : Nat × Flags :=
  match decodeIeee fmt a with
  | .nan sg => (canonNan fmt, flagIf sg fNV)
  | .inf _ => (a, 0)
  | .fin s m e =>
    let r := roundTo rm s m e 0
    ((encodeIeee fmt .rne s r.1 0).1, flagIf (nx && r.2) fNX)

/-- 2^a for |a| ≤ 0.5, to nearest whatever RM (R132). -/
def exp2Out (fmt a : Nat) : Nat × Flags :=
  match decodeIeee fmt a with
  | .nan sg => (canonNan fmt, flagIf sg fNV)
  | .inf _ => (canonNan fmt, fNV)
  | .fin s m e =>
    if m = 0 then ((encodeIeee fmt .rne false 1 0).1, 0)
    else if (Num.fin false m e).cmp (.fin false 1 (-1)) == .gt then (canonNan fmt, fNV)
    else
      let x : Int := ((if 0 ≤ e then m * 2 ^ e.toNat * ln2Fix else m * ln2Fix / 2 ^ (-e).toNat : Nat) : Int)
      ((encodeFloat fmt .rne (sticky false (expFix (if s then -x else x)).toNat)).1, fNX)

/-- a × 2^t, t being b truncated towards zero (R133). -/
def ldexpOut (rm : Rm) (fmt a b : Nat) : Nat × Flags :=
  let x := decodeIeee fmt a
  let y := decodeIeee fmt b
  let fl := sigFlag [x, y]
  let sg := if x.neg? then signBit fmt else 0
  match y with
  | .nan _ => (canonNan fmt, fl)
  | .inf neg =>
    match x with
    | .nan _ => (if neg then 0 else ieeeInf fmt false, fl)
    | .inf _ => if neg then (canonNan fmt, fl ||| fNV) else (ieeeInf fmt x.neg?, fl)
    | .fin _ m _ =>
      if neg then (sg, fl) else if m = 0 then (canonNan fmt, fl ||| fNV) else (ieeeInf fmt x.neg?, fl)
  | .fin t n f =>
    match x with
    | .nan _ => (canonNan fmt, fl)
    | .inf _ => (a, fl)
    | .fin s m e =>
      if m = 0 then (a, fl)
      else
        let k := min (roundTo .rtz t n f 0).1 4096
        let r := encodeIeee fmt rm s m (if t then e - k else e + k)
        (r.1, r.2 ||| fl)

/-- floor(log2 |a|) as a value of the format (R135). -/
def getexpOut (fmt a : Nat) : Nat × Flags :=
  match decodeIeee fmt a with
  | .nan sg => (canonNan fmt, flagIf sg fNV)
  | .inf _ => (ieeeInf fmt false, 0)
  | .fin _ m e =>
    if m = 0 then (ieeeInf fmt true, fDZ)
    else ((encodeFloat fmt .rne (Num.ofInt ((Nat.log2 m : Int) + e))).1, 0)

/-- |a| × 2^-floor(log2 |a|) with the sign of a (R135). -/
def getmantOut (fmt a : Nat) : Nat × Flags :=
  match decodeIeee fmt a with
  | .nan sg => (canonNan fmt, flagIf sg fNV)
  | .inf _ => (canonNan fmt, fNV)
  | .fin s m _ => if m = 0 then (a, 0) else ((encodeIeee fmt .rne s m (-(Nat.log2 m : Int))).1, 0)

/-- 1 / a rounded once (R136). -/
def rcpOut (rm : Rm) (fmt a : Nat) : Nat × Flags :=
  match decodeIeee fmt a with
  | .nan sg => (canonNan fmt, flagIf sg fNV)
  | .inf s => (if s then signBit fmt else 0, 0)
  | .fin s m e => if m = 0 then (ieeeInf fmt s, fDZ) else encodeFloat fmt rm (recipNum s m e)

/-- 1 / sqrt(a) rounded once (R136). -/
def rsqOut (rm : Rm) (fmt a : Nat) : Nat × Flags :=
  match decodeIeee fmt a with
  | .nan sg => (canonNan fmt, flagIf sg fNV)
  | .inf s => if s then (canonNan fmt, fNV) else (0, 0)
  | .fin s m e =>
    if m = 0 then (ieeeInf fmt s, fDZ) else if s then (canonNan fmt, fNV) else encodeFloat fmt rm (rsqrtNum m e)

/-- log2(a) for 1 ≤ a < 2, to nearest whatever RM (R137). -/
def log2Out (fmt a : Nat) : Nat × Flags :=
  match decodeIeee fmt a with
  | .nan sg => (canonNan fmt, flagIf sg fNV)
  | .inf _ => (canonNan fmt, fNV)
  | .fin s m e =>
    if s || m = 0 || (Nat.log2 m : Int) + e ≠ 0 then (canonNan fmt, fNV)
    else if m = 2 ^ Nat.log2 m then (0, 0)
    else ((encodeFloat fmt .rne (sticky false (lnFix m (Nat.log2 m) * 2 ^ 192 / ln2Fix))).1, fNX)

/-- FADD: rnd(a + b) (R127). -/
def execFadd (o : Op) (s : State) : Host.Outcome State Fault Refusal :=
  floatFire 3 (fun rm fmt a b => let x := decodeIeee fmt a; let y := decodeIeee fmt b; sumOut rm fmt x y (sigFlag [x, y])) (.fadd o) s

/-- FSUB: rnd(a - b) (R127). -/
def execFsub (o : Op) (s : State) : Host.Outcome State Fault Refusal :=
  floatFire 3 (fun rm fmt a b => let x := decodeIeee fmt a; let y := decodeIeee fmt b; sumOut rm fmt x y.negate (sigFlag [x, y])) (.fsub o) s

/-- A product rounded once; 0 × ∞ is invalid (R127). -/
def mulOut (rm : Rm) (fmt a b : Nat) : Nat × Flags :=
  let x := decodeIeee fmt a
  let y := decodeIeee fmt b
  let fl := sigFlag [x, y] ||| flagIf (badProduct x y) fNV
  match Num.mul x y with
  | .nan _ => (canonNan fmt, fl)
  | p => let r := encodeFloat fmt rm p; (r.1, r.2 ||| fl)

/-- FMUL: rnd(a × b) (R127). -/
def execFmul (o : Op) (s : State) : Host.Outcome State Fault Refusal :=
  floatFire 3 mulOut (.fmul o) s

/-- FMA: rnd(a × b + old) (R127). -/
def execFma (o : Op) (s : State) : Host.Outcome State Fault Refusal :=
  fire (floatSem true true 4 id (fusedOut false false)) (.fma o) s

/-- FMS: rnd(a × b - old) (R127). -/
def execFms (o : Op) (s : State) : Host.Outcome State Fault Refusal :=
  fire (floatSem true true 4 id (fusedOut true false)) (.fms o) s

/-- FNMA: rnd(old - a × b) (R127). -/
def execFnma (o : Op) (s : State) : Host.Outcome State Fault Refusal :=
  fire (floatSem true true 4 id (fusedOut false true)) (.fnma o) s

/-- FMIN: the lesser operand (R128). -/
def execFmin (o : Op) (s : State) : Host.Outcome State Fault Refusal :=
  floatFire 1 (fun _ => minMax fun x y => y.less x) (.fmin o) s

/-- FMAX: the greater operand (R128). -/
def execFmax (o : Op) (s : State) : Host.Outcome State Fault Refusal :=
  floatFire 1 (fun _ => minMax fun x y => x.less y) (.fmax o) s

/-- FABS clears the sign bit (R129). -/
def execFabs (o : Op) (s : State) : Host.Outcome State Fault Refusal :=
  floatFire1 1 (fun _ fmt a => signOut fmt a (magBits fmt a)) (.fabs o) s

/-- FNEG inverts the sign bit (R129). -/
def execFneg (o : Op) (s : State) : Host.Outcome State Fault Refusal :=
  floatFire1 1 (fun _ fmt a => signOut fmt a (a ^^^ signBit fmt)) (.fneg o) s

/-- FCOPYSIGN gives a with the sign bit of b, of which it reads nothing else (R129). -/
def execFcopysign (o : Op) (s : State) : Host.Outcome State Fault Refusal :=
  floatFire 1 (fun _ fmt a b => signOut fmt a (magBits fmt a + (b - magBits fmt b))) (.fcopysign o) s

/-- FCEQ: a = b (R130). -/
def execFceq (o : Op) (s : State) : Host.Outcome State Fault Refusal :=
  fcmpFire false true (· == .eq) (.fceq o) s

/-- FCLT: a < b; any NaN sets NV (R130). -/
def execFclt (o : Op) (s : State) : Host.Outcome State Fault Refusal :=
  fcmpFire false false (· == .lt) (.fclt o) s

/-- FCLE: a ≤ b; any NaN sets NV (R130). -/
def execFcle (o : Op) (s : State) : Host.Outcome State Fault Refusal :=
  fcmpFire false false (· != .gt) (.fcle o) s

/-- FCUN: either operand is NaN (R130). -/
def execFcun (o : Op) (s : State) : Host.Outcome State Fault Refusal :=
  fcmpFire true true (fun _ => false) (.fcun o) s

/-- FCLASS writes the class mask as I32 or RAW and sets no flag (R130). -/
def execFclass (o : Op) (s : State) : Host.Outcome State Fault Refusal :=
  fire (floatSem false false 1 (fun fmt => if fmt = 7 then 3 else 0) fun _ fmt a _ _ => (classMask fmt a, false, 0)) (.fclass o) s

/-- FRINT rounds to an integral value under RM and sets NX (R131). -/
def execFrint (o : Op) (s : State) : Host.Outcome State Fault Refusal :=
  floatFire1 2 (integralOut true) (.frint o) s

/-- FFLOOR rounds towards -∞ (R131). -/
def execFfloor (o : Op) (s : State) : Host.Outcome State Fault Refusal :=
  floatFire1 2 (fun _ => integralOut false .rdn) (.ffloor o) s

/-- FCEIL rounds towards +∞ (R131). -/
def execFceil (o : Op) (s : State) : Host.Outcome State Fault Refusal :=
  floatFire1 2 (fun _ => integralOut false .rup) (.fceil o) s

/-- FTRUNC rounds towards zero (R131). -/
def execFtrunc (o : Op) (s : State) : Host.Outcome State Fault Refusal :=
  floatFire1 2 (fun _ => integralOut false .rtz) (.ftrunc o) s

/-- FEXP2F: 2^a for |a| ≤ 0.5 (R132). -/
def execFexp2f (o : Op) (s : State) : Host.Outcome State Fault Refusal :=
  floatFire1 6 (fun _ => exp2Out) (.fexp2f o) s

/-- FLDEXP: rnd(a × 2^t) (R133). -/
def execFldexp (o : Op) (s : State) : Host.Outcome State Fault Refusal :=
  floatFire 2 ldexpOut (.fldexp o) s

/-- FGETEXP: floor(log2 |a|) (R135). -/
def execFgetexp (o : Op) (s : State) : Host.Outcome State Fault Refusal :=
  floatFire1 1 (fun _ => getexpOut) (.fgetexp o) s

/-- FGETMANT: the mantissa of a with its sign (R135). -/
def execFgetmant (o : Op) (s : State) : Host.Outcome State Fault Refusal :=
  floatFire1 1 (fun _ => getmantOut) (.fgetmant o) s

/-- FRCP: rnd(1 / a) (R136). -/
def execFrcp (o : Op) (s : State) : Host.Outcome State Fault Refusal :=
  floatFire1 8 rcpOut (.frcp o) s

/-- FRSQ: rnd(1 / sqrt(a)) (R136). -/
def execFrsq (o : Op) (s : State) : Host.Outcome State Fault Refusal :=
  floatFire1 10 rsqOut (.frsq o) s

/-- FLOG2F: log2(a) for 1 ≤ a < 2 (R137). -/
def execFlog2f (o : Op) (s : State) : Host.Outcome State Fault Refusal :=
  floatFire1 8 (fun _ => log2Out) (.flog2f o) s

end Sys2Proof.Machine
end

