-- ==== Sys2Proof/Machine/Issue.lean ====
section
/-! DEFINITION. What fires start beyond their element: accesses and their order (R252 to R254), releases (R280), and the pieces
that the memory, synchronisation and engine instructions share. -/

namespace Sys2Proof.Machine

/-! ## Accesses -/

/-- Whether an access is chain-ordered. -/
def Access.chained (a : Access) : Bool := a.link.isSome

/-- A token that a unit's work left withheld, or a sequence unit's request for a mask; it is no access of the issuing context. -/
def Access.ofUnit (a : Access) : Bool := match a.kind with | .unit _ | .mask => true | _ => false

/-- An access has arrived (R254): it has reached its memory node, or its home. -/
def Access.arrived (a : Access) : Bool :=
  match a.stage with
  | .queued _ | .tested _ | .answered _ => true
  | _ => false

/-- The accesses a context issued before fire f. -/
def State.earlier (s : State) (e k f : Nat) : List Access :=
  s.accesses.filter fun a => a.core.isNone && a.elem == e && a.ctx == k && decide (a.id < f) && a.fire != f && !a.ofUnit

/-- What a release requires of a context's earlier accesses (R264, R280): each has arrived, and each chain access has been
released by its weir, which its arrival presupposes. -/
def State.releasable (s : State) (e k f : Nat) : Bool := (s.earlier e k f).all Access.arrived

/-- A release at a scope (R280): at DIE scope and wider the context's held stores of earlier fires perform, and an open invocation
has an effect outside its region (R366). -/
def State.release (s : State) (g e k inv f scope : Nat) : State :=
  if 5 ≤ scope then
    (s.performHeld fun h => h.region == g && h.elem == e && h.ctx == k && decide (h.order < f)).markX g inv
  else s

/-- The physical address of a region scratch address (R227, R228). -/
def Region.scratchPa (g : Region) (a : Nat) : Nat := slicePa (tileKey (g.ox + bits a 23 18) (g.oy + bits a 29 24)) (bits a 17 0)

/-- An access of a fire, at the stage it begins in. -/
def Env.access (v : Env) (kind : AccKind) (va size : Nat) (wr : Bool) (data : LinkWord) (link : Option Link) (stage : Stage)
    (due : Nat) : Access :=
  { id := v.s.ids + 1, fire := v.s.ids, elem := v.e, ctx := v.k, slot := v.j, region := v.g.id, core := none, kind := kind
    wide := v.wide, va := va, size := size, wr := wr, data := data, inv := v.c.inv, opw := (v.x.active.slot v.j).op
    reqTag := ((List.range 16).find? (fun n => !v.x.tags.contains n)).getD 0, link := link, stage := stage, due := due + v.extraLat, reply := 0
    poison := false, released := false }

/-- The state with an access under way. -/
def State.issue (s : State) (a : Access) : State := { s.newId with accesses := s.accesses ++ [a] }

/-- A translated access sets out for its owner (R234); its travel is open (Config.freeDelay). -/
def Env.toOwner (v : Env) (kind : AccKind) (va size : Nat) (wr : Bool) (data : LinkWord) (s : State) : State :=
  (s.issue (v.access kind va size wr data none .toOwner (s.later + 1))).useFree

/-- What the access of a core is: a load, a store or an AMO (R390). -/
def Access.coreOp (a : Access) : CoreOp := match a.kind with | .coreStore => .store | .coreAmo _ => .amo | _ => .load

/-- An access that reads or writes bytes at its node, for the order of R254. -/
def Access.touches (a : Access) : Bool :=
  match a.kind with
  | .pref | .cnop | .launchRec | .notify _ | .unit _ | .mask => false
  | _ => true

/-- Two accesses of one chain: their weir orders them (R274). -/
def sameChain (a b : Access) : Bool :=
  match a.link, b.link with
  | some x, some y => x.chain == y.chain && a.region == b.region
  | _, _ => false

/-- Two accesses have one issuer: an element, or a core. -/
def sameIssuer (a b : Access) : Bool := a.core == b.core && (a.core.isSome || a.elem == b.elem)

/-! ## Completion of fires that wait -/

/-- The result of a fire that waits: what its completion will write. -/
def State.resolve (s : State) (f : Nat) (d1 d2 : Option Val) (pred : Bool) (due : Nat) : State :=
  s.modFlight f fun x => { x with ready := true, due := some due, res := { x.res with d1 := d1, d2 := d2, pred := pred } }

/-- The format code of a narrow reply of size bytes (R253). -/
def replyFmt (size : Nat) : Nat := intFmt 0 (8 * size)

/-! ## Domains of barriers (R174, R218) -/

/-- Whether two contexts of a region lie in the same instance of a domain. -/
def Region.sameDomain (g : Region) (dom e k e' k' : Nat) : Bool :=
  let t := elemTile e
  let u := elemTile e'
  match dom with
  | 0 => e == e' && k == k'
  | 1 => e == e'
  | 2 => t == u
  | 3 => (tileX t - g.ox) / 4 == (tileX u - g.ox) / 4 && (tileY t - g.oy) / 4 == (tileY u - g.oy) / 4
  | 5 => tileDie t == tileDie u
  | _ => true

/-- Whether an element stands on a tile that has still to swap to a region. -/
def State.toSwap (s : State) (g e : Nat) : Bool := (s.tile (elemTile e)).shadowOf == some g

/-- The participants of a barrier: enabled contexts of the launch in the issuer's instance of the domain, those on tiles that have still to
swap among them (R218). -/
def State.participants (s : State) (g : Region) (dom e k : Nat) : List (Nat × Nat) :=
  let here := (s.elems.filter fun p => !s.toSwap g.id p.1 && p.2.region == some g.id && p.2.loaded).map fun p => (p.1, p.2.active)
  let coming := (s.elems.filter fun p => s.toSwap g.id p.1).filterMap fun p => p.2.shadow.map fun x => (p.1, x)
  (here ++ coming).flatMap fun p => (p.2.contexts.filter fun c => g.sameDomain dom e k p.1 c).map fun c => (p.1, c)

end Sys2Proof.Machine
end

