-- ==== Sys2Proof/Machine/System.lean ====
section
/-! DEFINITION. The system instructions (spec/10_instr_control.md R209 to R217) but BRK, which stands in Debug. -/

namespace Sys2Proof.Machine

/-- The value of special register n of a context; none for a reserved number (R209). [DESIGN CHOICE: log 95] -/
def State.readSr (s : State) (e k n : Nat) : Option Word :=
  let c := s.ctx e k
  match n with
  | 0x00 => some (c.wv.setWidth 64)
  | 0x01 => some c.frm
  | 0x02 => some c.fflags
  | 0x03 => some (s.ctxid e k)
  | 0x04 => some (s.elemid e)
  | 0x05 => some s.now
  | 0x06 => some c.seqid
  | 0x07 => some c.rngseed
  | 0x08 => some c.rngpos
  | 0x09 => some c.spmap
  | 0x0A => some c.faultinfo
  | _ => if 0x10 ≤ n ∧ n ≤ 0x17 then some (BitVec.ofNat 64 (c.ivec.getD (n - 0x10) 0 % 2 ^ 16)) else none

/-- The registers that WRSR may write (R209). -/
def srWritable (n : Nat) : Bool := [0x00, 0x01, 0x02, 0x06, 0x07, 0x08].contains n

/-- A context with special register n written; reserved bits of FRM, FFLAGS and SEQID are ignored (R88, R89, R211, R340). -/
def Ctx.writeSr (c : Ctx) (n : Nat) (v : Word) : Ctx :=
  match n with
  | 0x00 => { c with wv := v.setWidth 16 }
  | 0x01 => { c with frm := v &&& 0x103 }
  | 0x02 => { c with fflags := writeFlags v }
  | 0x06 => { c with seqid := v &&& 0x7FFF }
  | 0x07 => { c with rngseed := v }
  | 0x08 => { c with rngpos := v }
  | 0x0A => { c with faultinfo := v }
  | _ => c

/-- A U64 result of a system instruction (R208). -/
def Env.u64 (v : Env) (x : Nat) : Val := scalarVal v.wide 6 x

/-- TRAP traps TRAP_USER with the user code A[15:0] (R216). -/
def execTrap (o : Op) (s : State) : Host.Outcome State Fault Refusal :=
  fire (fun v => .trap .trapUser (v.a.n64 % 2 ^ 16) 0 0) (.trap o) s

/-- RDSR reads the special register that A names (R211). -/
def execRdsr (o : Op) (s : State) : Host.Outcome State Fault Refusal :=
  fire (fun v =>
    match v.s.readSr v.e v.k v.a.n64 with
    | none => .trap .badSr 0 0 0
    | some x => .go (.both 1 (v.u64 x.toNat))) (.rdsr o) s

/-- WRSR reads the special register that A names and writes B to it at completion (R211). -/
def execWrsr (o : Op) (s : State) : Host.Outcome State Fault Refusal :=
  fire (fun v =>
    match v.s.readSr v.e v.k v.a.n64 with
    | none => .trap .badSr 0 0 0
    | some x =>
      if !srWritable v.a.n64 then .trap .srRo 0 0 0
      else .go { Go.both 1 (v.u64 x.toNat) with sr := some (v.a.n64, v.b.w64) }) (.wrsr o) s

/-- PROBE starts a critical-path walk into the path buffer at B; the walk begins when the fire completes (R214). -/
def execProbe (o : Op) (s : State) : Host.Outcome State Fault Refusal :=
  fire (fun v => if v.b.n64 % 4096 ≠ 0 ∨ 2 ^ 57 ≤ v.b.n64 then .trap .badAddr 0 0 v.b.n64 else .go {}) (.probe o) s

/-- TICK writes the global tick to DST1 and its distance from A to DST2 (R212). -/
def execTick (o : Op) (s : State) : Host.Outcome State Fault Refusal :=
  fire (fun v => .go { d1 := some (v.u64 v.s.now.toNat), d2 := some (v.u64 (v.s.now - v.a.w64).toNat) }) (.tick o) s

/-- FRET ends the handling of the fault record that FAULTINFO names; at completion FAULTINFO becomes 0 and the disposition passes
to the scheduler (R217). -/
def execFret (o : Op) (s : State) : Host.Outcome State Fault Refusal :=
  fire (fun v =>
    if v.c.faultinfo = 0 ∨ v.a.w64 ≠ v.c.faultinfo ∨ 3 ≤ v.b.n64 then .trap .badFret 0 0 v.a.n64
    else .go { sr := some (0x0A, 0) }) (.fret o) s

/-- YIELD holds its context for the n - 1 cycles after its decision (R213). -/
def execYield (o : Op) (s : State) : Host.Outcome State Fault Refusal :=
  fireWith (fun _ => .go {}) (fun v _ s => s.modCtx v.e v.k fun c => { c with yieldTo := v.s.tick + v.a.n64 % 2 ^ 16 }) (.yield o) s

end Sys2Proof.Machine
end

