-- ==== Sys2Proof/Machine/Work.lean ====
section
/-! DEFINITION. The instructions that synchronise work: NOTIFY, PARK, BAR, ARRIVE, TASKDONE and LAUNCH
(spec/10_instr_control.md R218 to R222). -/

namespace Sys2Proof.Machine

/-- A value delivered to a wake register (R222): a waiting PARK takes it, else the register becomes or stays FULL. -/
def State.notify (s : State) (w : Nat) (v : Word) : State :=
  let r := s.wake w
  if r.state = 2 then
    match s.flight? r.fire with
    | some f =>
      let wide := isWide f.elem
      (s.setWake w {}).resolve r.fire (some (scalarVal wide 6 v.toNat)) (some (scalarVal wide 6 1)) true s.tick
    | none => s.setWake w { state := 1, val := v, count := 1 }
  else s.setWake w { state := 1, val := v, count := if r.state = 1 then min (r.count + 1) 255 else 1 }

/-- NOTIFY delivers B to wake register A after a release at SANDBOX scope (R222). -/
def execNotify (o : Op) (s : State) : Host.Outcome State Fault Refusal :=
  fireWith (fun v => if 2 ^ 12 ≤ v.a.n64 then .trap .badWake 0 0 0 else .go {})
    (fun v _ s => s.issue (v.access (.notify v.a.n64) 0 8 true (v.b.bits) none (.toNode 0) (s.tick + 1))) (.notify o) s

/-- PARK waits on wake register A; a FULL register is taken at once (R222). -/
def execPark (o : Op) (s : State) : Host.Outcome State Fault Refusal :=
  fireWith (fun v =>
    if 2 ^ 12 ≤ v.a.n64 then .trap .badWake 0 0 0
    else
      let r := v.s.wake v.a.n64
      if r.state = 2 then .trap .wakeBusy 0 0 0
      else if r.state = 1 then .go { d1 := some (v.u64 r.val.toNat), d2 := some (v.u64 r.count), pred := true }
      else .go { pred := true, wait := .park v.a.n64 })
    (fun v _ s => s.setWake v.a.n64 (if (v.s.wake v.a.n64).state = 1 then {} else { state := 2, fire := v.s.ids })) (.park o) s

/-- BAR arrives at the next generation of the issuer's barrier at level A (R218). -/
def execBar (o : Op) (s : State) : Host.Outcome State Fault Refusal :=
  fireWith (fun v =>
    let l := v.a.n64
    if v.g.hier.length ≤ l then .trap .badLevel 0 0 0
    else
      let n := v.c.bars.getD l 0
      if (v.s.flightsOf v.e v.k).any (fun f => match f.wait with | .bar l' g => !f.ready && l' == l && decide (g + 2 ≤ n) | _ => false)
      then .trap .barOverrun 0 0 0
      else .go { pred := true, wait := .bar l n })
    (fun v _ s => s.modCtx v.e v.k fun c => { c with bars := c.bars.modify v.a.n64 (· + 1) }) (.bar o) s

/-- ARRIVE decrements the dependence counter of task A by B[15:0], 0 meaning 1, after a release at PACKAGE scope (R219). -/
def execArrive (o : Op) (s : State) : Host.Outcome State Fault Refusal :=
  fire (fun v =>
    if 2 ^ 12 ≤ v.a.n64 then .trap .badTask 0 0 0
    else .go { wait := .arrive v.a.n64 (if v.b.n64 % 2 ^ 16 = 0 then 1 else v.b.n64 % 2 ^ 16) }) (.arrive o) s

/-- TASKDONE ends its context's invocation k; the IVEC registers follow at completion (R220). -/
def execTaskdone (o : Op) (s : State) : Host.Outcome State Fault Refusal :=
  fireWith (fun v =>
    let last := decide (v.g.ninv ≤ v.c.inv + 1)
    .go { Go.both 1 (v.u64 (if last then 2 ^ 64 - 1 else v.c.inv + 1)) with pred := last })
    (fun v _ s => s.modCtx v.e v.k fun c =>
      { c with inv := c.inv + 1, ended := decide (v.g.ninv ≤ v.c.inv + 1) }) (.taskdone o) s

/-- LAUNCH hands the record at A to the decoder, as a release at PACKAGE scope; the record is translated as a load of the issuing
context (R221). [DEDUCED: log 51] -/
def execLaunch (o : Op) (s : State) : Host.Outcome State Fault Refusal :=
  fireWith (fun v => if v.a.n64 % 256 ≠ 0 ∨ 2 ^ 57 ≤ v.a.n64 then .trap .badAddr 0 0 v.a.n64 else .go { wait := .launch v.a.n64 })
    (fun v _ s => v.toOwner .launchRec v.a.n64 256 false 0 s) (.launch o) s

end Sys2Proof.Machine
end

