-- ==== Sys2Proof/Machine/Memory.lean ====
section
/-! DEFINITION. The memory, chain and sync-object instructions at their decision (spec/13_instr_memory.md R249 to R276): their
checks, the access each sends, and what its fire waits for. -/

namespace Sys2Proof.Machine

/-! ## Checks at decision -/

/-- Bytes of an access of opcodes 0x90 to 0x96 (R251). -/
def Env.memSize (v : Env) : Nat := if v.wide then 64 else 8 / 2 ^ v.o.mode.val

/-- What a store of opcodes 0x91 to 0x96 stores: the low bytes of B (R255). -/
def Env.storeData (v : Env) : LinkWord := BitVec.ofNat 512 (v.b.bits.toNat % 2 ^ (8 * v.memSize))

/-- The rights of R260 that an access needs, and how it must hold a bound object: 0 not at all, 1 shared, 2 exclusively. -/
structure Need where
  rd : Bool
  wr : Bool
  hold : Nat

def needLoad : Need := ⟨true, false, 1⟩
def needStore : Need := ⟨false, true, 2⟩
def needBoth : Need := ⟨true, true, 2⟩
def needSync : Need := ⟨true, true, 0⟩
def needWait : Need := ⟨true, false, 0⟩

/-- The entry that decides a bounds check: the lowest enabled one that covers the access (R260). -/
def Elem.decides (x : Elem) (addr size : Nat) : Option Nat :=
  (List.range 4).find? fun n =>
    let b := x.bounds.getD n {}
    b.en && decide (b.lo ≤ addr) && decide (addr + size ≤ b.hi)

/-- The check of R260: the trap it raises, if any. -/
def Env.boundsTrap (v : Env) (addr size : Nat) (n : Need) : Option Trap :=
  if v.x.bounds.any (·.en) then
    match v.x.decides addr size with
    | none => some .boundsViolation
    | some i =>
      let b := v.x.bounds.getD i {}
      if (n.rd && !b.rd) || (n.wr && !b.wr) then some .boundsViolation
      else if b.bind && decide (v.c.holds.getD i 0 < n.hold) then some .bindingViolation
      else none
  else none

/-- The checks of a translated access: BAD_ADDR, MISALIGNED, then bounds records (R251, R260). -/
def Env.checked (v : Env) (size : Nat) (need : Need) (d : Dec) : Dec :=
  let a := v.a.n64
  if 2 ^ 57 ≤ a then .trap .badAddr 0 0 a
  else if a % size ≠ 0 then .trap .misaligned 0 0 a
  else match v.boundsTrap a size need with
    | some t => .trap t 0 0 a
    | none => d

/-- The checks of a scratch access (R228, R251). -/
def Env.scratchChecked (v : Env) (size : Nat) (d : Dec) : Dec :=
  let a := v.a.n64
  let lim := if v.g.hdr.undo then 0x2C000 else 0x30000
  if 2 ^ 30 ≤ a ∨ v.g.hdr.w ≤ bits a 23 18 ∨ v.g.hdr.h ≤ bits a 29 24 ∨ lim ≤ bits a 17 0 + size - 1 then
    .trap .scratchRange 0 0 a
  else if a % size ≠ 0 then .trap .misaligned 0 0 a
  else d

/-- The trace record of a bounds fault (R401). -/
def Env.boundsRecord (v : Env) (t : Trap) (addr size : Nat) (s : State) : State :=
  if s.traced v.g.id && (t == .boundsViolation || t == .bindingViolation) then
    s.trace 3 0 (placeBits v.e v.k v.j 0) addr (t.code * 16 + (v.x.decides addr size).getD 0)
  else s

/-- A fire with memory checks: as `fireWith`, with the trace record of a bounds fault (R401). -/
def memFire (size : Env → Nat) (sem : Env → Dec) (post : Env → Go → State → State) (i : Instr) (s : State) :
    Host.Outcome State Fault Refusal :=
  match fireWith sem post i s, s.env i with
  | .next t, some v =>
    if v.ready then
      match sem v with
      | .trap tr _ _ a => .next (v.boundsRecord tr a (size v) t)
      | .go _ => .next t
    else .next t
  | r, _ => r

/-! ## Loads and stores -/

/-- A fire that waits for its reply (R249). -/
def awaitReply : Go := { wait := .reply }

/-- LD issues a load through the page's owner; the fire completes at its reply (R255). -/
def execLd (o : Op) (s : State) : Host.Outcome State Fault Refusal :=
  memFire Env.memSize (fun v => v.checked v.memSize needLoad (.go awaitReply))
    (fun v _ s => v.toOwner .load v.a.n64 v.memSize false 0 s) (.ld o) s

/-- ST issues a store of B's low bytes; the fire completes in one cycle and the store travels on (R255). -/
def execSt (o : Op) (s : State) : Host.Outcome State Fault Refusal :=
  memFire Env.memSize (fun v => v.checked v.memSize needStore (.go {}))
    (fun v _ s => v.toOwner .store v.a.n64 v.memSize true v.storeData s) (.st o) s

/-- The link of a chain access: the literal that TACT names, and the context's wave (R46, R267). -/
def Env.link (v : Env) : Link :=
  let n := (v.x.active.lits.getD v.o.tact.val (0, 0)).1.toNat
  { chain := bits n 31 24, seq := bits n 23 16, pred := bits n 15 8, succ := bits n 7 0, wave := v.c.wv.toNat }

/-- A chain access sets out for the owner of its page (R267). -/
def Env.toOwnerLinked (v : Env) (kind : AccKind) (va size : Nat) (wr : Bool) (data : LinkWord) (s : State) : State :=
  (s.issue (v.access kind va size wr data (some v.link) .toOwner (s.later + 1))).useFree

/-- LDC: a chain load (R267, R274). -/
def execLdc (o : Op) (s : State) : Host.Outcome State Fault Refusal :=
  memFire Env.memSize (fun v => v.checked v.memSize needLoad (.go awaitReply))
    (fun v _ s => v.toOwnerLinked .load v.a.n64 v.memSize false 0 s) (.ldc o) s

/-- STC: a chain store (R267, R274). -/
def execStc (o : Op) (s : State) : Host.Outcome State Fault Refusal :=
  memFire Env.memSize (fun v => v.checked v.memSize needStore (.go {}))
    (fun v _ s => v.toOwnerLinked .store v.a.n64 v.memSize true v.storeData s) (.stc o) s

/-- CNOP takes a place in its chain and touches no memory; it goes straight to the home weir (R267, R275). -/
def execCnop (o : Op) (s : State) : Host.Outcome State Fault Refusal :=
  fireWith (fun _ => .go {})
    (fun v _ s => (s.issue (v.access .cnop 0 0 false 0 (some v.link) (.toWeir 0) (s.later + 1))).useFree) (.cnop o) s

/-- LDS loads from a region scratch address, the reply after 4 + 2h + 10c cycles (R229, R255). -/
def execLds (o : Op) (s : State) : Host.Outcome State Fault Refusal :=
  fireWith (fun v => v.scratchChecked v.memSize (.go awaitReply))
    (fun v _ s =>
      let pa := v.g.scratchPa v.a.n64
      s.issue (v.access .lds v.a.n64 v.memSize false 0 none (.toNode pa) (v.s.tick + travel (elemTile v.e) (paTile pa)))) (.lds o) s

/-- STS stores to a region scratch address (R255). -/
def execSts (o : Op) (s : State) : Host.Outcome State Fault Refusal :=
  fireWith (fun v => v.scratchChecked v.memSize (.go {}))
    (fun v _ s =>
      let pa := v.g.scratchPa v.a.n64
      s.issue (v.access .sts v.a.n64 v.memSize true v.storeData none (.toNode pa) (v.s.tick + travel (elemTile v.e) (paTile pa)))) (.sts o) s

/-! ## Atomics -/

/-- Width in bytes of an atomic (R251, R256). -/
def Env.atomicSize (v : Env) : Nat := if v.o.mode.val = 0 then 8 else 4

/-- An atomic fire of sub-operation op (R276), 8 being ACAS with the expected value from DST1 (R256). -/
def atomicFire (op : Nat) (i : Instr) (s : State) : Host.Outcome State Fault Refusal :=
  memFire Env.atomicSize (fun v => v.checked v.atomicSize needBoth (.go awaitReply))
    (fun v _ s => v.toOwner (.atomic op v.old.w64) v.a.n64 v.atomicSize true v.b.bits s) i s

/-- AADD: new is wrap(old + b, n) (R256). -/
def execAadd (o : Op) (s : State) : Host.Outcome State Fault Refusal :=
  atomicFire 0 (.aadd o) s

/-- AMIN: new is the smaller, read as signed (R256). -/
def execAmin (o : Op) (s : State) : Host.Outcome State Fault Refusal :=
  atomicFire 1 (.amin o) s

/-- AMAX: new is the larger, read as signed (R256). -/
def execAmax (o : Op) (s : State) : Host.Outcome State Fault Refusal :=
  atomicFire 2 (.amax o) s

/-- AAND: new is old and b (R256). -/
def execAand (o : Op) (s : State) : Host.Outcome State Fault Refusal :=
  atomicFire 3 (.aand o) s

/-- AOR: new is old or b (R256). -/
def execAor (o : Op) (s : State) : Host.Outcome State Fault Refusal :=
  atomicFire 4 (.aor o) s

/-- AXOR: new is old xor b (R256). -/
def execAxor (o : Op) (s : State) : Host.Outcome State Fault Refusal :=
  atomicFire 5 (.axor o) s

/-- AXCHG: new is b (R256). -/
def execAxchg (o : Op) (s : State) : Host.Outcome State Fault Refusal :=
  atomicFire 6 (.axchg o) s

/-- AFADD: new is the FP32 sum under RNE (R256). -/
def execAfadd (o : Op) (s : State) : Host.Outcome State Fault Refusal :=
  atomicFire 7 (.afadd o) s

/-- ACAS: new is b where old equals the value of DST1 (R256). -/
def execAcas (o : Op) (s : State) : Host.Outcome State Fault Refusal :=
  atomicFire 8 (.acas o) s

/-- PREF sends the page of A to its owner; it never traps, and a bad address is dropped (R258). -/
def execPref (o : Op) (s : State) : Host.Outcome State Fault Refusal :=
  fireWith (fun _ => .go {})
    (fun v _ s => if 2 ^ 57 ≤ v.a.n64 then s else v.toOwner .pref v.a.n64 1 false 0 s) (.pref o) s

/-- BOUNDS loads the bounds record at A into entry B[1:0], or disables the entry when B[2] is 1 (R259). -/
def execBounds (o : Op) (s : State) : Host.Outcome State Fault Refusal :=
  fireWith (fun v =>
    let a := v.a.n64
    if 8 ≤ v.b.n64 then .trap .badBounds 0 0 0
    else if v.b.n64.testBit 2 then .go {}
    else if 2 ^ 57 ≤ a then .trap .badAddr 0 0 a
    else if a % 32 ≠ 0 then .trap .misaligned 0 0 a
    else .go { wait := .reply, trapPend := true })
    (fun v _ s => if v.b.n64.testBit 2 then s else v.toOwner .bounds v.a.n64 32 false v.b.bits s) (.bounds o) s

/-- ACHN: an atomic in chain order, its sub-operation in bits 35:32 of the chain literal (R276). -/
def execAchn (o : Op) (s : State) : Host.Outcome State Fault Refusal :=
  memFire Env.atomicSize (fun v => v.checked v.atomicSize needBoth (.go awaitReply))
    (fun v _ s =>
      let op := bits (v.x.active.lits.getD v.o.tact.val (0, 0)).1.toNat 35 32
      v.toOwnerLinked (.atomic op 0) v.a.n64 v.atomicSize true v.b.bits s) (.achn o) s

/-! ## Sync objects -/

/-- The scope word of B is valid (R262): `sh` says that SH may be set. -/
def scopeOk (b : Nat) (sh : Bool) : Bool := decide (b % 16 ≤ 10) && decide (b < 32) && (sh || decide (b < 16))

/-- The decision of a sync-object fire: the checks of R251, R260 and R262. -/
def Env.syncChecked (v : Env) (sh : Bool) (g : Go) : Dec :=
  v.checked 8 needSync (if scopeOk v.b.n64 sh then .go g else .trap .badScope 0 0 v.a.n64)

/-- ACQ asks the home of the object at A for an exclusive hold (R263). -/
def execAcq (o : Op) (s : State) : Host.Outcome State Fault Refusal :=
  memFire (fun _ => 8) (fun v => v.syncChecked false { awaitReply with pred := true })
    (fun v _ s => v.toOwner .acq v.a.n64 8 true v.b.bits s) (.acq o) s

/-- ACQS asks the home of the object at A for a shared hold (R263). -/
def execAcqs (o : Op) (s : State) : Host.Outcome State Fault Refusal :=
  memFire (fun _ => 8) (fun v => v.syncChecked false { awaitReply with pred := true })
    (fun v _ s => v.toOwner .acqs v.a.n64 8 true v.b.bits s) (.acqs o) s

/-- Bounds entry n is bound to an object (R259, R260). -/
def Elem.binds (x : Elem) (n obj : Nat) : Bool := let b := x.bounds.getD n {}; b.en && b.bind && b.obj == obj

/-- REL publishes the context's earlier writes and gives up a hold; the context is trap-pending until the check read
returns, and its hold states of the object become none, to come back where it traps (R260, R264). -/
def execRel (o : Op) (s : State) : Host.Outcome State Fault Refusal :=
  memFire (fun _ => 8) (fun v => v.syncChecked true { wait := .rel, pred := true, trapPend := true })
    (fun v _ s => ((v.toOwner .rel v.a.n64 8 true v.b.bits s).modCtx v.e v.k fun c =>
      { c with holds := c.holds.mapIdx fun n h => if v.x.binds n v.a.n64 then 0 else h }).modFlight v.s.ids fun f =>
        { f with oldHolds := ((List.range 4).filter fun n => v.x.binds n v.a.n64).map fun n => (n, v.c.holds.getD n 0) }) (.rel o) s

/-- FENCE completes when every earlier access of its context has arrived and been replied to (R265). -/
def execFence (o : Op) (s : State) : Host.Outcome State Fault Refusal :=
  fire (fun _ => .go { wait := .fence, pred := true }) (.fence o) s

/-- WAITV waits until the 64-bit word at A is at least B (R266). -/
def execWaitv (o : Op) (s : State) : Host.Outcome State Fault Refusal :=
  memFire (fun _ => 8) (fun v => v.checked 8 needWait (.go { awaitReply with pred := true }))
    (fun v _ s => v.toOwner .waitv v.a.n64 8 false v.b.bits s) (.waitv o) s

end Sys2Proof.Machine
end

