-- ==== Sys2Proof/Machine/Translate.lean ====
section
/-! DEFINITION. Address translation: owners (R234, R235), the walk (R236 to R238), admission (R240), the caches with their
counters (R235, R246), the fault queue (R242), and one access translated at its owner (spec/12_memory.md). -/

namespace Sys2Proof.Machine

/-! ## Physical addresses -/

/-- A physical address in no range of R226 that holds memory. -/
def physReserved (pa : Nat) : Bool := !(isHbm pa || isScratch pa || isHostWin pa)

/-- A physical address in a local part (R227). -/
def isLocal (pa : Nat) : Bool := isScratch pa && !isGlobal pa

/-! ## Owners (R234) -/

/-- The log of the granule of a granule code; none for a reserved one. [DEDUCED: log 73] -/
def granuleLog (c : Nat) : Option Nat := [12, 16, 21, 25, 30, 34][c]?

/-- The granule code of the span of an address. [DEDUCED: log 73] -/
def State.granule (s : State) (va : Nat) : Option Nat :=
  let p := s.xl.spanmap.toNat + bits va 56 48
  granuleLog (((s.found p [memGet s.mem p]).headD 0).toNat % 8)

/-- The slice index that a key folds to. -/
def fold6 (key : Nat) : Nat := (List.range 8).foldl (fun ix j => ix ^^^ bits key (6 * j + 5) (6 * j)) 0

/-- The next enabled translation slice of a die from j upwards (R370). -/
def State.enabledSlice (s : State) (d j : Nat) : Nat :=
  let xs := (s.faults.repair.getD d {}).xs
  (((List.range 64).map fun n => (j + n) % 64).find? fun n => xs.testBit n).getD j

/-- The owner of a page: die and slice (R234, R370). A span of a reserved code takes the owner of the 4 KiB granule. [DEDUCED: log 73] -/
def State.owner (s : State) (va : Nat) : Nat × Nat :=
  let d := bits va 56 55
  (d, s.enabledSlice d (fold6 (bits va 56 ((s.granule va).getD 12))))

/-- The base of the page of an address at the granule of its span (R234, R241). -/
def State.pageOf (s : State) (va : Nat) : Nat := (va % 2 ^ 57) / 2 ^ ((s.granule va).getD 12)

/-! ## The walk (R236 to R238) -/

/-- Outcomes of a walk, by the fault codes of R360. -/
inductive WalkOut where
  | fail (code : Nat)
  | leaf (t : Trans)
deriving DecidableEq, Repr

/-- The frame field of an entry. -/
def pteFrame (e : Nat) : Nat := bits e 51 12 * 4096

/-- A group of 16 leaves with C set is accepted (R238). -/
def groupOk (es : List Nat) (size : Nat) : Bool :=
  let e0 := es.getD 0 0
  es.all (fun e => bits e 2 0 == 7 && bits e 11 8 == 0 && bits e 63 52 == bits e0 63 52 && bits e 5 3 == bits e0 5 3)
    && (List.range 16).all (fun k => pteFrame (es.getD k 0) == pteFrame e0 + k * size)
    && pteFrame e0 % (16 * size) == 0

/-- The leaf entry e at address ea of a level (R236 to R238). -/
def State.leafAt (s : State) (va table level ea e : Nat) : WalkOut :=
  let size := 2 ^ (12 + 9 * level)
  if 2 < level ∨ bits e 11 8 ≠ 0 then .fail cBadPte
  else
    let idx := (ea - table) / 8
    if e.testBit 2 then
      let es := (List.range 16).map fun k => s.foundDouble (table + 8 * (idx / 16 * 16 + k))
      if groupOk es size then
        .leaf { page := va / (16 * size) * (16 * size), size := 16 * size, frame := pteFrame (es.getD 0 0), gid := bits e 63 52
                dom := bits e 5 4, w := e.testBit 3, leaf := ea, cont := true, d := e.testBit 7, count := 0 }
      else .fail cBadPte
    else if pteFrame e % size ≠ 0 then .fail cBadPte
    else
      .leaf { page := va / size * size, size := size, frame := pteFrame e, gid := bits e 63 52, dom := bits e 5 4, w := e.testBit 3
              leaf := ea, cont := false, d := e.testBit 7, count := 0 }

/-- The walk from a table at a level downwards (R236). An entry in a poisoned block is open (R369). [DESIGN CHOICE: log 96] -/
def State.walkFrom (s : State) (va : Nat) : Nat → Nat → WalkOut
  | table, level =>
    let ea := table + 8 * bits va (12 + 9 * level + 8) (12 + 9 * level)
    let e := s.foundDouble ea
    if !e.testBit 0 then .fail cNotMapped
    else if e.testBit 1 then s.leafAt va table level ea e
    else if bits e 63 52 ≠ 0 ∨ bits e 11 2 ≠ 0 then .fail cBadPte
    else match level with
      | 0 => .fail cBadPte
      | l + 1 => s.walkFrom va (pteFrame e) l

/-- The walk of an address, with the checks of its span (R234, R236). -/
def State.walk (s : State) (va : Nat) : WalkOut :=
  match s.granule va with
  | none => .fail cBadPte
  | some g =>
    match s.walkFrom va (bits s.xl.ptroot.toNat 51 12 * 4096) 4 with
    | .fail c => .fail c
    | .leaf t => if 2 ^ g < t.size then .fail cBadPte else .leaf t

/-! ## Admission (R240) -/

/-- The agents of R240. -/
inductive Agent where
  | region (gid : Nat)
  | core
  | mgmt
deriving DecidableEq, Repr

/-- Whether the table of R240 admits an agent to a page. -/
def Agent.admitted (a : Agent) (t : Trans) : Bool :=
  match a with
  | .region g => t.dom == 0 || t.dom == 2 || (t.dom == 1 && (t.gid == 0 || t.gid == g))
  | .core => t.dom == 0 || t.dom == 2
  | .mgmt => true

/-- The agent of a region's accesses; without a region, the management core. -/
def State.agentOf (s : State) (g : Nat) : Agent :=
  match s.region? g with
  | some r => .region r.hdr.gid
  | none => .mgmt

/-! ## The caches (R235) -/

/-- The physical address of va under a translation. -/
def Trans.pa (t : Trans) (va : Nat) : Nat := t.frame + (va - t.page)

/-- A translation covers an address. -/
def Trans.covers (t : Trans) (va : Nat) : Bool := decide (t.page ≤ va) && decide (va < t.page + t.size)

/-- The translation of va that its owner caches. [DEDUCED: log 27] -/
def State.cached (s : State) (va : Nat) : Option Trans := let o := s.owner va; s.xl.cache.find? fun t => t.covers va && t.own == o

/-- A page fits the span of an address: its code is not reserved, and the page is not larger than its granule (R234). -/
def State.fitsSpan (s : State) (va : Nat) (t : Trans) : Bool := match s.granule va with | some g => decide (t.size ≤ 2 ^ g) | none => false

/-- What the owner finds for an address: what it caches, or by a walk; `again` walks in any case (R241). A page that its span does not admit is a
BAD_PTE, cached or not (R234). -/
def State.lookup (s : State) (va : Nat) (again : Bool) : WalkOut :=
  match s.cached va with
  | some t =>
    if again then (match s.walk va with | .leaf u => .leaf { u with count := t.count } | x => x)
    else if s.fitsSpan va t then .leaf t
    else .fail cBadPte
  | none => s.walk va

/-- A range of virtual addresses meets the page of a translation. -/
def Trans.meets (t : Trans) (va n : Nat) : Bool := decide (va < t.page + t.size) && decide (t.page < va + n)

/-- A translation that its owner keeps cached (R413): of a ring page of a served queue, a page of a reserved image, or the page of a timed
launch's completion block. -/
def State.keeps (s : State) (t : Trans) : Bool :=
  s.queues.any (fun q => q.2.served && t.meets q.2.base.toNat (256 * 2 ^ q.2.logsz))
    || s.tasks.any (fun k => k.2.state == .reserved && t.meets k.2.image (match s.launch? k.2.launch with | some l => max l.img.size 1 | none => 1))
    || s.launches.any fun l => l.lrec.timed && l.state != .ended && t.meets l.lrec.status 64

/-- The caches with a translation put last; a slice that holds 2,048 others drops the oldest that it need not keep, whose counter is lost (R235,
R246, R413). [DEDUCED: log 49] -/
def State.fill (s : State) (t : Trans) : State :=
  let o := s.owner t.page
  let at_ := fun (p : Nat) (u : Trans) => u.page == p && u.own == o
  let old := s.xl.cache.filter fun u => !at_ t.page u
  let mine := old.filter (·.own == o)
  let kept := if mine.length < 2048 then old
    else match mine.find? fun u => !s.keeps u with
      | some u => old.filter fun v => !at_ u.page v
      | none => old
  { s with xl := { s.xl with cache := kept ++ [{ t with own := o }] } }

/-- The owner takes in the translation of an address (R413). -/
def State.takeIn (s : State) (va : Nat) : State := match s.lookup va false with | .leaf t => s.fill t | .fail _ => s

/-- The attributes of a leaf after an access (R239): A, and D on a write. [DEDUCED: log 49] -/
def State.touch (s : State) (t : Trans) (wr : Bool) : State :=
  let e := s.foundDouble t.leaf
  let n := e ||| (if wr then 0xC0 else 0x40)
  if n = e then s else s.perform t.leaf (natLe 8 n)

/-- The access counter of a page (R246): what happens at the threshold. The queued bit is the page's, whether or not its translation is cached. [DEDUCED: log 49] -/
def State.countAccess (s : State) (t : Trans) : State × Trans :=
  let th := s.xl.xcntth.toNat % 2 ^ 16
  if th = 0 then (s, t)
  else
    let n := min (t.count + 1) th
    if n < th ∨ s.xl.queued.contains t.page then (s, { t with count := n })
    else if s.xl.mq.en && !s.xl.mq.full then
      let q := s.xl.mq
      ({ (s.perform (q.entry q.tail 8) (natLe 8 t.page)) with xl := { s.xl with mq := { q with tail := q.tail + 1 }, queued := s.xl.queued ++ [t.page] } },
        { t with count := n })
    else ({ s with xl := { s.xl with xovf := s.xl.xovf + 1 } }, { t with count := 0 })

/-! ## Pages under migration (R244) -/

/-- The page that a migration moves covers an address. -/
def State.inMigration (s : State) (m : Migration) (va : Nat) : Bool :=
  match s.cached m.va with | some t => t.covers va | none => s.pageOf m.va == s.pageOf va

/-- A page under migration whose new frame has not been published covers an address: its owner withholds the writes to it (R244). -/
def State.migrates (s : State) (va : Nat) : Bool := match s.xl.mig with | some m => !m.published && s.inMigration m va | none => false

/-- A page covers an address whose migration has not ended (R244 step 5, R311). -/
def State.migrating (s : State) (va : Nat) : Bool := match s.xl.mig with | some m => s.inMigration m va | none => false

/-! ## One access translated -/

/-- What the owner answers: a physical address, or the code of the failure (R226, R227, R240, R241). -/
inductive Translated where
  | pa (pa : Nat)
  | fail (code : Nat)
deriving DecidableEq, Repr

/-- Whether a page's translation admits an access: domain, W, then where the frame lies (R226, R227, R240). [DEDUCED: log 48; DESIGN CHOICE: log 87] -/
def judge (a : Agent) (va : Nat) (wr : Bool) (t : Trans) : Translated :=
  if !a.admitted t then .fail cDomain
  else if wr && !t.w then .fail cWriteProt
  else if physReserved (t.pa va) then .fail cPhysReserved
  else if isLocal (t.pa va) then .fail cMapLocal
  else .pa (t.pa va)

/-- An access at its owner: the translation is cached, and an admitted access counts, and sets A and D before it proceeds
(R235, R239, R246). A prefetch only caches, and one that is refused leaves nothing (R258). -/
def State.translate (s : State) (a : Agent) (va : Nat) (wr again pref : Bool) : Translated × State :=
  match s.lookup va again with
  | .fail c => (.fail c, s)
  | .leaf t =>
    match judge a va wr t with
    | .fail c => (.fail c, if pref then s else s.fill t)
    | .pa p =>
      if pref then (.pa p, s.fill t)
      else
        let (s1, t1) := s.countAccess t
        (.pa p, (s1.touch t1 wr).fill { t1 with d := t1.d || wr })

/-- A store that a migration withholds, whose bytes its owner can forward (R244). -/
def Access.withheldStore (b : Access) : Bool :=
  match b.stage, b.kind with
  | .migrating _, .store | .migrating _, .coreStore => true
  | _, _ => false

/-- A byte that the owner forwards from the withheld stores a predicate picks, the latest in arrival order first; `due` numbers their arrivals
(R244). -/
def State.forwardedBy (s : State) (p : Access → Bool) (va : Nat) : Option Byte :=
  let l := s.accesses.filter fun b => b.withheldStore && p b && decide (b.va ≤ va) && decide (va < b.va + b.size)
  (l.foldl (fun (m : Option Access) b => match m with | some x => if x.due ≤ b.due then some b else some x | none => some b) none).map
    fun b => (natLe b.size b.data.toNat).getD (va - b.va) 0

/-- A byte as a read of region g finds it: the region's own withheld stores to a page under migration are forwarded (R244). -/
def State.forwarded (s : State) (g va : Nat) : Option Byte := s.forwardedBy (fun b => b.core.isNone && s.sees g b.region) va

/-- n bytes at va, translated to p, as region g sees them: forwarded, held, or in memory (R185, R244). -/
def State.viewFor (s : State) (g va p n : Nat) : List Byte := (List.range n).map fun i => (s.forwarded g (va + i)).getD (s.byteFor g (p + i))

/-- Bytes that no fire of an element writes are withheld by their owner like any other write to a page under migration, in pieces of 64 bytes (R244). [DEDUCED: log 49] -/
def State.holdBack (s : State) (va pa : Nat) (b : List Byte) : State :=
  (List.range ((b.length + 63) / 64)).foldl (fun s i =>
    let p := (b.drop (64 * i)).take 64
    s.newId.issue { id := s.ids + 1, fire := 0, elem := 2 ^ 20, ctx := 0, slot := 0, region := 0, core := none, kind := .put, wide := false, va := va + 64 * i
                    size := p.length, wr := true, data := BitVec.ofNat 512 (leNat p), inv := 0, opw := 0, reqTag := 0, link := none
                    stage := .migrating (pa + 64 * i), due := s.ids, reply := 0, poison := false, released := false }) s

/-- A write of the scheduler or the management core at va, translated to pa: it performs, or waits out a migration of its page (R244). [DEDUCED: log 49] -/
def State.putAt (s : State) (va pa : Nat) (b : List Byte) : State := if s.migrates va then s.holdBack va pa b else s.putBytes pa b

/-- Bytes written at a virtual address by an agent, never held; nothing happens when the page does not translate (R400, R413). -/
def State.writeAs (s : State) (a : Agent) (va : Nat) (b : List Byte) : State :=
  match s.translate a va true false false with
  | (.pa p, s1) => s1.putAt va p b
  | (.fail _, s1) => s1

/-- Bytes read at a virtual address by an agent, as region g sees them; none when the page does not translate. Those of a poisoned block are open (R369). [DESIGN CHOICE: log 96] -/
def State.readAs (s : State) (a : Agent) (g va n : Nat) : Option (List Byte) × State :=
  match s.translate a va false false false with
  | (.pa p, s1) => (some (s1.found p (s1.viewFor g va p n)), if s1.poisoned p n then s1.useFree else s1)
  | (.fail _, s1) => (none, s1)

/-- Bytes over several pages, read in pieces of 4 KiB; none when a page does not translate. -/
def State.readSpan (s : State) (a : Agent) (g : Nat) : Nat → Nat → Nat → Option (List Byte) × State
  | 0, _, _ => (some [], s)
  | fuel + 1, va, n =>
    if n = 0 then (some [], s)
    else
      let k := min n (4096 - va % 4096)
      match s.readAs a g va k with
      | (none, s1) => (none, s1)
      | (some b, s1) =>
        match s1.readSpan a g fuel (va + k) (n - k) with
        | (none, s2) => (none, s2)
        | (some r, s2) => (some (b ++ r), s2)

/-! ## The order of accesses at their nodes (R254, R273, R390) -/

/-- The physical address of an access, once it has one; before that, the one its page has now. -/
def State.placeOf (s : State) (a : Access) : Option Nat :=
  match a.stage with
  | .toWeir p | .atWeir p | .toNode p | .migrating p | .queued p | .tested p | .hostWindow p | .answered p => some p
  | .toOwner | .withheld _ _ | .expired _ | .cut => match s.lookup a.va false with
    | .leaf t => some (t.pa a.va)
    | .fail _ => none

/-- Two ranges touch one 64-byte block. -/
def oneBlock (p m q n : Nat) : Bool := decide (p / 64 ≤ (q + n - 1) / 64) && decide (q / 64 ≤ (p + m - 1) / 64)

/-- Two accesses touch one 64-byte block of memory, whatever virtual pages they name (R254); where a page is not there, the virtual blocks are
compared. -/
def State.sameBlock (s : State) (a b : Access) : Bool :=
  let lds := fun (x : Access) => x.kind == .lds || x.kind == .sts
  match s.placeOf a, s.placeOf b with
  | some p, some q => oneBlock p a.size q b.size
  | _, _ => lds a == lds b && oneBlock a.va a.size b.va b.size

/-- A read takes the bytes of a withheld store from its owner, and need not wait for it (R244). -/
def Access.takes (a b : Access) : Bool := (match a.kind with | .load | .coreLoad | .bounds => true | _ => false) && b.withheldStore

/-- An earlier access of a's issuer to its block, not of its chain: a must not perform before it (R254, R390). -/
def State.precedes (s : State) (b a : Access) : Bool := sameIssuer a b && b.touches && decide (b.id < a.id) && !sameChain a b && s.sameBlock a b

/-- A core stays precise: nothing of it performs before its earlier accesses have passed their owners, which may still fault (R390). [DEDUCED: log 26] -/
def State.precise (s : State) (a : Access) : Bool :=
  a.core.isNone || !s.accesses.any fun b => b.core == a.core && decide (b.id < a.id) && (match b.stage with | .toOwner | .withheld _ _ => true | _ => false)

/-- A write that a migration has withheld goes on behind the one that arrived before it, as long as that one is on its way (R244). -/
def State.afterDone (s : State) (a : Access) : Bool :=
  match a.after.bind s.access? with
  | some b => (match b.stage with | .toNode _ | .hostWindow _ => false | _ => true)
  | none => true

/-- Whether an access may reach its node: no earlier access of its issuer to its block is still on its way, but for a withheld store whose bytes it
takes (R244, R254, R390), every write that arrived before it at the owner of a page that has migrated (R244), and every access of its chain that the weir released before it, which stands before it in the list, has arrived (R273, R274). -/
def State.inOrder (s : State) (a : Access) : Bool :=
  s.precise a && s.afterDone a && (!a.touches || s.accesses.all fun b => !(s.precedes b a && !b.arrived && !a.takes b))
  && (s.accesses.takeWhile fun b => b.id != a.id).all fun b => !(sameChain a b && b.released && !b.arrived)

/-! ## The fault queue (R242) -/

/-- Entries that wait at their owners enter the fault queue while it has room (R242, R412). -/
def State.flushFq (s : State) : Nat → State
  | 0 => s
  | n + 1 =>
    match s.xl.fqWait with
    | [] => s
    | b :: r =>
      let q := s.xl.fq
      if q.en && !q.full then
        let s1 := s.perform (q.entry q.tail 32) b
        State.flushFq { s1 with xl := { s1.xl with fq := { q with tail := q.tail + 1 }, fqWait := r } } n
      else s

/-- The owner posts an entry for a resolvable failure (R241, R242). -/
def State.postFq (s : State) (g va : Nat) (cd : Nat) (wr : Bool) : State :=
  let (gid, task) := match s.region? g with
    | some r => (r.hdr.gid, if r.named then r.taskid else 0)
    | none => (0, 0)
  let o := s.owner va
  let d1 := gid * 2 ^ 52 + task * 2 ^ 40 + o.1 * 2 ^ 30 + o.2 * 2 ^ 24 + (if cd = cNotMapped then 1 else if cd = cSpillFault then 3 else 2) * 2 ^ 16 + (if wr then 1 else 0)
  let b := natLe 8 va ++ natLe 8 d1 ++ natLe 8 s.tick ++ natLe 8 0
  let s1 := { s with xl := { s.xl with fqWait := s.xl.fqWait ++ [b] } }
  s1.flushFq s1.xl.fqWait.length

/-- Whether a failure is resolvable (R241, R306). -/
def resolvable (cd : Nat) : Bool := cd == cNotMapped || cd == cWriteProt || cd == cSpillFault

/-- How long a withheld token is held (R241, R390): FHOLD of its region, 50 µs for a core, nothing when it is not resolvable. -/
def State.holdTicks (s : State) (g cd : Nat) : Nat :=
  if !resolvable cd then 0
  else match s.region? g with
    | some r => r.fholdTicks
    | none => 50 * Config.ticksPerMicro

end Sys2Proof.Machine
end

