-- ==== Sys2Proof/Machine/Complete.lean ====
section
/-! DEFINITION. The completion of a fire (spec/01_element.md R25, R26): when it comes, and what it writes. -/

namespace Sys2Proof.Machine

/-- The reply channel of a fire, if it has one (R55). -/
def Flight.replyChan (f : Flight) : Option Nat :=
  if isReply f.opc then (match f.op.d1 with | .chan n => some n.val | _ => none) else none

/-- Every earlier access of the fire's context has arrived, been released, and been replied to where it is a load, an atomic or
an ACHN (R265). Prefetches, notices and launch records are no accesses of R265. [DEDUCED: log 72] -/
def State.fenceDone (s : State) (f : Flight) : Bool :=
  (s.earlier f.elem f.ctx f.id).all fun a =>
    match a.kind with
    | .pref | .notify _ | .launchRec => true
    | .acq | .acqs | .rel | .waitv => a.arrived
    | _ => false

/-- A reply may enter its channel: there is room, and no earlier fire's reply to that channel is still to come (R57, R253). -/
def State.replyTurn (s : State) (f : Flight) : Bool :=
  match f.replyChan with
  | none => true
  | some n => ((s.elem f.elem).in_ n).room && !s.flights.any fun g => g.elem == f.elem && decide (g.id < f.id) && g.replyChan == some n

/-- Whether a fire's latency has passed. -/
def State.lapsed (s : State) (f : Flight) : Bool := match f.due with | some d => decide (d ≤ s.tick) | none => false

/-- Whether a fire writes a reply (R319). -/
def Flight.wantsReply (f : Flight) : Bool := !(f.op.d1 == .none && f.op.d2 == .none)

/-- A reply that its unit does not send: a region fault of a unit has frozen the region (R323). -/
def State.unitHeld (s : State) (f : Flight) : Bool :=
  (match f.wait with | .unit _ => f.wantsReply | _ => false) &&
    match s.region? f.region with
    | some g => (match g.freeze with
      | some (.fault k) => decide (g.freezeAt ≤ s.tick) && (match s.record? k with | some r => [1, 2, 3, 4, 10].contains r.unit | none => false)
      | _ => false)
    | none => false

/-- Whether a fire completes now: its latency has passed, or what it waits for has come. -/
def State.completable (s : State) (f : Flight) : Bool :=
  (match f.wait with
    | .lat => s.lapsed f
    | .fence => decide (f.decided < s.tick) && s.fenceDone f
    | .arrive _ _ => decide (f.decided < s.tick) && s.releasable f.elem f.ctx f.id
    | .halt _ => (match s.region? f.region with
        | some g => g.solo && s.lapsed f && !s.flights.any fun h => h.elem == f.elem && decide (h.id < f.id)
        | none => true)
    | _ => f.ready && s.lapsed f)
  && decide (f.sent < s.tick) && s.replyTurn f && !s.unitHeld f

/-- A completion is a WRSR of FFLAGS, which writes before the flags of the other completions of its cycle (R90). -/
def Flight.writesFflags (f : Flight) : Bool := match f.res.sr with | some (2, _) => true | _ => false

/-- A destination register still to be written: a later fire has not written it before (R25). -/
def Flight.dest (f : Flight) (d : Dst) (v : Option Val) : Option (Nat × Val) :=
  match d, v with
  | .d n, some x => if f.lost.contains n.val then none else some (n.val, x)
  | _, _ => none

/-- The registers a completing fire writes. -/
def Flight.regWrites (f : Flight) : List (Nat × Val) := (f.dest f.op.d1 f.res.d1).toList ++ (f.dest f.op.d2 f.res.d2).toList

/-- The special registers a fire writes, as 16 + their number. -/
def Flight.srWrites (f : Flight) : List Nat :=
  (if f.res.wv.isSome then [16] else []) ++ (match f.res.sr with | some (n, _) => [16 + n] | none => [])

/-- The context of a completing fire: registers, predicate, flags, special registers (R25, R90, R109, R211, R220). [DEDUCED: log 10] -/
def Flight.writeCtx (f : Flight) (g : Region) (t : Nat) (c : Ctx) : Ctx :=
  let c0 := { f.regWrites.foldl (fun c p => c.setReg p.1 p.2) c with
    regTime := (opWrites f.op).foldl (fun l n => l.set n t) c.regTime, srTimes := f.srWrites.foldl (fun l n => tput l (n - 16) t) c.srTimes }
  let c1 := c0
  let u := f.upd.toNat
  let c2 := if bit u 12 then
      let p := predOut (bit u 11) f.res.pred
      let m := BitVec.twoPow 8 (bits u 15 13)
      let q := if p then c1.preds ||| m else c1.preds &&& ~~~m
      { c1 with preds := q, predTimes := predTimesNext c1.predTimes c1.preds q t, pended := (t, bits u 15 13) }
    else c1
  let c3 := match f.res.wv with | some w => if f.lost.contains 16 then c2 else { c2 with wv := w } | none => c2
  let c4 := match f.res.sr with | some (n, w) => if f.lost.contains (16 + n) then c3 else c3.writeSr n w | none => c3
  let c5 := { c4 with fflags := orFlags c4.fflags f.res.flags }
  match f.instr with
  | .taskdone _ => { c5 with ivec := g.coords (f.inv + 1) }
  | _ => c5

/-- The token a completing fire emits on output channel n, if it emits one (R58, R105, R110). -/
def Flight.token (f : Flight) (n t : Nat) : Option Token :=
  let v := if f.op.d1 == .chan (Fin.ofNat 4 n) then f.res.d1 else f.res.d2
  v.map fun x => { val := x, tag := f.res.tag, seen := t, fire := f.id }

/-- The output channels of an element after a completion: reservations become tokens or are released (R26, R105), and an EBB
counts as carried from its completion (R180). An entry released from a full channel is room gained (R403). -/
def Flight.settleOuts (f : Flight) (t : Nat) (outs : List OutCh) : List OutCh :=
  outs.mapIdx fun n c =>
    if (opOuts f.op f.opc).contains n then
      let k := f.token n t
      let c1 := c.settle f.id k
      match k with
      | some x => if x.tag = 3 && c1.ebbed.isNone then { c1 with ebbed := some t } else c1
      | none => if c.hasRoom then c1 else { c1 with room := t, freed := f.id }
    else c

/-- The input channels of an element after a completion: a reply enters its reply channel and is visible in the next cycle (R14,
R57). -/
def Flight.settleIns (f : Flight) (t : Nat) (ins : List InCh) : List InCh :=
  match f.replyChan, f.res.d1 with
  | some n, some v => ins.modify n fun c => { c with q := c.q ++ [{ val := v, tag := f.res.tag, seen := t + 1, org := .reply }] }
  | _, _ => ins

/-- The wiring record that starts at an output channel, by index (R167, R182). -/
def Region.srcRecord (g : Region) (e n : Nat) : Option Nat :=
  (g.wires.findIdx? fun w => !w.src.unit && w.src.port == n && w.src.elem == elemIdx e
      && tileKey (g.ox + w.src.x) (g.oy + w.src.y) == elemTile e)

/-- A residue: the region faults and the record names the wiring record (R182). -/
def State.residue (s : State) (g e w : Nat) : State :=
  s.takeFault g { id := 0, code := cCfgResidue, unit := 0, x := tileX (elemTile e), y := tileY (elemTile e), elem := elemIdx e, uidx := w }

/-- A token completing into an output channel that has carried an EBB is residue (R182). -/
def State.residueOut (s : State) (f : Flight) (x : Elem) : State :=
  match (opOuts f.op f.opc).find? fun n => (x.out n).ebbed.isSome && (f.token n s.tick).isSome with
  | some n => s.residue f.region f.elem (match s.region? f.region with | some g => (g.srcRecord f.elem n).getD 0 | none => 0)
  | none => s

/-- What a completing fire has written, in its context, stands against the earlier fires that have not completed (R25): a register or a
special register that it left alone, as a GATE may (R105), stays theirs to write. -/
def State.markLost (s : State) (f : Flight) : State :=
  let ws := f.regWrites.map (·.1) ++ f.srWrites
  { s with flights := s.flights.map fun h =>
      if h.elem == f.elem && h.ctx == f.ctx && decide (h.id < f.id) then { h with lost := ws ++ h.lost } else h }

/-- A hold state of the bounds entries bound to an object (R260). -/
def Elem.setHold (x : Elem) (k obj h : Nat) : Elem :=
  x.modCtx k fun c => { c with holds := c.holds.mapIdx fun n o =>
    let b := x.bounds.getD n {}
    if b.en && b.bind && b.obj == obj then h else o }

/-- A bounds entry is loaded or disabled, and every context's hold state for it becomes none (R260). -/
def Elem.setBound (x : Elem) (n : Nat) (b : Bound) : Elem :=
  { x with bounds := x.bounds.set n b, ctxs := x.ctxs.map fun c => { c with holds := c.holds.set n 0 } }

/-- A bounds record from its 32 bytes (R259). -/
def Bound.ofBytes (b : List Byte) : Bound :=
  let d := fun k => leNat ((b.drop (8 * k)).take 8)
  { en := true, lo := d 0, hi := d 1, bind := (d 2).testBit 2, wr := (d 2).testBit 1, rd := (d 2).testBit 0, obj := d 3 }

/-- What the completion of a particular instruction does to its element (R111, R259, R260). The bounds record that a BOUNDS loaded
stands in its result. -/
def Flight.elemEffect (f : Flight) (x : Elem) : Elem :=
  match f.instr with
  | .acq _ => x.setHold f.ctx f.a.toNat 2
  | .acqs _ => x.setHold f.ctx f.a.toNat 1
  | .bounds _ =>
    let n := f.b.toNat % 4
    if f.b.toNat.testBit 2 then x.setBound n {} else x.setBound n (Bound.ofBytes (natLe 32 (f.res.d1.getD {}).bits.toNat))
  | .halt _ => { x with frozen := true }
  | _ => x

/-- The fires that hold prior hold states of a bounds entry hold them no more: the entry has been loaded anew or disabled (R260). -/
def State.dropHolds (s : State) (e n : Nat) : State :=
  { s with flights := s.flights.map fun h => if h.elem == e then { h with oldHolds := h.oldHolds.filter (·.1 != n) } else h }

/-- A FRET that completes hands its disposition to the scheduler (R217). The record is no fault to be handled any more: FAULTINFO becomes 0 in every context
of the handler that names it, and a FRET of it that another context has decided before does nothing. [DEDUCED: log 46] -/
def State.fretDone (s : State) (f : Flight) : State :=
  if f.res.sr.isNone then s
  else
    let a := f.a
    let same := fun (h : Flight) => h.region == f.region && h.a == a && (match h.instr with | .fret _ => true | _ => false)
    let clear := fun (c : Ctx) => if c.faultinfo == a then { c with faultinfo := 0 } else c
    { s with
      faults := { s.faults with dispose := s.faults.dispose ++ [(a.toNat, f.b.toNat)], used := s.faults.used.erase a.toNat }
      elems := s.elems.map fun (p : Nat × Elem) => (p.1, if p.2.region == some f.region then { p.2 with ctxs := p.2.ctxs.map clear } else p.2)
      flights := s.flights.map fun (h : Flight) => if same h then { h with res := { h.res with sr := none } } else h }

/-- What the completion of a particular instruction does beyond its element (R186, R214, R217, R260, R362). -/
def State.effect (s : State) (f : Flight) : State :=
  match f.instr with
  | .bounds _ => s.dropHolds f.elem (f.b.toNat % 4)
  | .halt _ => (match f.wait with
      | .halt code => s.modRegion f.region fun g => { g with ending := if g.ending.isNone then some (2, code, 0) else g.ending }
      | _ => s)
  | .probe _ =>
    let x := s.elem f.elem
    if f.walking then s.writeAs (s.agentOf f.region) f.b.toNat (List.replicate 8 0xFF)
    else
      match x.notes.reverse.find? fun n => n.tick == f.decided && n.ctx == f.ctx && n.slot == f.slot with
      | some n => s.modElem f.elem fun x =>
          { x with walks := x.walks ++ [{ buf := f.b.toNat, virt := true, region := f.region, probe := f.a.toNat % 2 ^ 16, elem := f.elem, note := n }] }
      | none => s
  | .fret _ => s.fretDone f
  | _ => s

/-- The dependence counter of a task falls by n single decrements (R192, R219): those that cannot be applied are dropped and set DEPLOST; the
counter of a WAITING task that reaches 0 makes it READY, and its launch with it. -/
def State.decrement (s : State) (k n : Nat) : State :=
  let t := s.task k
  let lost := fun (x : State) (m : Nat) => if n ≤ m then x else { x with deplost := true }
  match t.state with
  | .free =>
    let room := (t.counter + 65535).toNat
    lost (s.modTask k fun t => { t with counter := t.counter - (min n room : Nat) }) room
  | .waiting =>
    let left := t.counter.toNat
    if n < left then s.modTask k fun t => { t with counter := t.counter - n }
    else lost ((s.modTask k fun t => { t with counter := 0, state := .ready }).modLaunch t.launch fun l => { l with state := .ready s.tick }) left
  | _ => lost s 0

/-- The note of a completing fire takes its completion tick and latency (R403). -/
def Flight.noteDone (f : Flight) (t : Nat) (l : List Note) : List Note :=
  l.map fun n => if n.tick == f.decided && n.ctx == f.ctx && n.slot == f.slot then { n with comp := some t, lat := t - n.tick } else n

/-- The state after fire f completes (R25). -/
def State.complete (s : State) (f : Flight) : State :=
  let t := s.tick
  match s.region? f.region with
  | none => { s with flights := s.flights.filter (·.id != f.id) }
  | some g =>
    let s0 := match f.wait with
      | .arrive k n => ((s.release f.region f.elem f.ctx f.inv f.id 6).decrement k n)
      | _ => s
    let x := s0.elem f.elem
    let s1 := (s0.modElem f.elem fun x =>
      let y := f.elemEffect { x with
        ctxs := x.ctxs.modify f.ctx (f.writeCtx g t), outs := f.settleOuts t x.outs, ins := f.settleIns t x.ins, notes := f.noteDone t x.notes }
      let keepsTag := [0x91, 0x93, 0x94, 0x96].contains f.opc
      match f.reqTag with
      | some n => if keepsTag then y else y.freeTag n t
      | none => y)
    let s2 := ((s1.detected f.id).markLost f).residueOut f x
    State.effect { s2 with flights := s2.flights.filter (·.id != f.id) } f

/-- FIRE_COMPLETE: a fire whose latency has passed, or whose awaited event has come, completes (R25). -/
def execFireComplete (f : Nat) (s : State) : Host.Outcome State Fault Refusal :=
  match s.flight? f with
  | some x => guarded (s.completable x && !s.dbg.stopped) s (s.complete x)
  | none => .next s

end Sys2Proof.Machine
end

