-- ==== Sys2Proof/Machine/Hold.lean ====
section
/-! DEFINITION. Stores held at their ports (R185, R368), the undo log of the local parts (R367), and what a store does when it
reaches its node (R254). -/

namespace Sys2Proof.Machine

/-- The entries of HOLDSZ that a region's stores take at a port (R368). -/
def State.heldAt (s : State) (g port : Nat) : Nat := (s.held.filter fun h => h.region == g && h.port == port && !h.logged).length

/-- The entries of a region's hold log in use (R368). -/
def State.logged (s : State) (g : Nat) : Nat := (s.held.filter fun h => h.region == g && h.logged).length

/-- A store to HBM-backed memory is held at its port: in an entry of HOLDSZ, or in the hold log, whose bytes are the device's
own; none where both are full (R368). `order` is the fire that issued it. -/
def State.hold (s : State) (g : Region) (e c inv order pa : Nat) (b : List Byte) : Option State :=
  let p := portOf pa
  let h : Held := { port := p, region := g.id, inv := inv, elem := e, ctx := c, order := order, pa := pa, bytes := b, logged := false }
  if s.heldAt g.id p < g.holdsz then some { s with held := s.held ++ [h] }
  else
    let n := s.logged g.id
    if n < 32 * g.hdr.hlogsz then
      match s.translate .mgmt (g.hdr.hlog + 128 * n) true false false with
      | (.pa q, s1) =>
        let w := natLe 64 (Config.freeWord s1.free).toNat ++ natLe 64 (Config.freeWord (s1.free + 1)).toNat
        let s2 := (s1.putAt (g.hdr.hlog + 128 * n) q w).useFree.useFree
        some { s2 with held := s2.held ++ [{ h with logged := true }] }
      | (.fail _, _) => none
    else none

/-- HOLD_OVERFLOW: the store is not made, the held stores of its invocation and of every later one are discarded, and the region
faults (R368). [DEDUCED: log 14] -/
def State.holdOverflow (s : State) (g e c k inv pa va : Nat) : State :=
  let p := portOf pa
  (s.discardHeld fun h => h.region == g && decide (inv ≤ h.inv)).unitFault g cHoldOverflow 9 (portTile p) p e c k va

/-- Log bytes that a local-part write takes (R367). -/
def undoCost (n : Nat) : Nat := if n ≤ 8 then 16 else 72

/-- A local-part write of an open invocation first logs the bytes it overwrites where UNDO is set and the log has room; where it
is not logged, SDIRTY is set (R366, R367). -/
def State.writeLocal (s : State) (g : Region) (inv pa : Nat) (b : List Byte) : State :=
  let t := scratchTile pa
  let used := ((s.undo.filter fun u => u.tile == t && u.region == g.id).map (·.cost)).foldl (· + ·) 0
  let s1 := if g.hdr.undo && decide (used + undoCost b.length ≤ 16384) then
      { s with undo := s.undo ++ [{ tile := t, region := g.id, inv := inv, pa := pa, bytes := memRead s.mem pa b.length, cost := undoCost b.length }] }
    else s.markS g.id inv
  s1.perform pa b

/-- The undo entries of a region are dropped. -/
def State.dropUndo (s : State) (g : Nat) : State := { s with undo := s.undo.filter (·.region != g) }

/-- The undo log of a region is applied in reverse order of logging (R367). -/
def State.applyUndo (s : State) (g : Nat) : State :=
  let s1 := ((s.undo.filter (·.region == g)).reverse).foldl (fun s u => s.perform u.pa u.bytes) s
  s1.dropUndo g

/-- A store of a region reaches its node at pa: it is held where it is HBM-backed and the boundary of its invocation has not passed,
and performs elsewhere (R185, R254); a store to a global part is an effect outside the region, one to the host memory window is none of R366's. Answers the state and whether the store was made. -/
def State.storeAt (s : State) (g : Region) (e c k inv order pa va : Nat) (b : List Byte) : State × Bool :=
  if isHbm pa && decide (g.passed ≤ inv) then
    match s.hold g e c inv order pa b with
    | some s1 => (s1, true)
    | none => (s.holdOverflow g.id e c k inv pa va, false)
  else if isLocal pa then (s.writeLocal g inv pa b, true)
  else (if isGlobal pa then (s.putBytes pa b).markX g.id inv else s.putBytes pa b, true)

end Sys2Proof.Machine
end

