-- ==== Sys2Proof/Machine/Fabric.lean ====
section
/-! DEFINITION. The fabric: tokens between channels, routers and units (spec/08_fabric.md R158 to R170, R182), and the feeds and
sinks of a solo launch (spec/01_element.md R31, R32). A router is named by twice its tile, plus one for the wide plane; a port by 0
to 4, an output channel as a source by 8 + 4 × element + channel, a result port of a matrix node by 40 + port. -/

namespace Sys2Proof.Machine

def State.router (s : State) (r : Nat) : Router := let t := s.tile (r / 2); if r % 2 = 1 then t.wide else t.narrow
def State.modRouter (s : State) (r : Nat) (f : Router → Router) : State :=
  s.modTile (r / 2) fun t => if r % 2 = 1 then { t with wide := f t.wide } else { t with narrow := f t.narrow }
def Router.port (r : Router) (p : Nat) : RPort := r.ports.getD p {}
def Router.modPort (r : Router) (p : Nat) (f : RPort → RPort) : Router := { r with ports := r.ports.modify p f }

/-! ## Wiring -/

/-- The tile of a place of a region. -/
def Region.placeTile (g : Region) (p : Place) : Nat := tileKey (g.ox + p.x) (g.oy + p.y)

/-- A coordinate of the DST of a record with SWG set: signed, of 8 bits (R167). -/
def signed8 (n : Nat) : Int := if 128 ≤ n then (n : Int) - 256 else n

/-- The tile in the neighbouring region where a record with SWG set ends, if the package has it (R167). -/
def Region.exitTile (g : Region) (w : WireRec) : Option Nat :=
  let x := (g.ox : Int) + signed8 w.dst.x
  let y := (g.oy : Int) + signed8 w.dst.y
  if 0 ≤ x ∧ x < 64 ∧ 0 ≤ y ∧ y < 64 then some (tileKey x.toNat y.toNat) else none

/-- The wiring records that end at an input channel of an element (R167, R179). -/
def Region.into (g : Region) (e c : Nat) : List WireRec :=
  g.wires.filter fun w => w.rtag != 63 && !w.swg && !w.dst.unit && w.dst.port == c && w.dst.elem == elemIdx e && g.placeTile w.dst == elemTile e

/-- The wiring records that start at an output channel of an element. -/
def Region.outOf (g : Region) (e c : Nat) : List WireRec :=
  g.wires.filter fun w => !w.src.unit && w.src.port == c && w.src.elem == elemIdx e && g.placeTile w.src == elemTile e

def Region.wiredIns (g : Region) (e : Nat) : List Nat := (List.range 4).filter fun c => (g.into e c) != []
def Region.wiredOuts (g : Region) (e : Nat) : List Nat := (List.range 4).filter fun c => (g.outOf e c) != []

/-- The route tag of what enters a tile's local port from source p (R167, R168). -/
def State.sourceTag (s : State) (r p : Nat) : Option Nat :=
  let t := r / 2
  if 40 ≤ p then
    match (s.tile t).region.bind s.region? with
    | some g => (g.wires.find? fun w => w.src.unit && w.src.port == p - 40 && g.placeTile w.src == t).map (·.rtag)
    | none => none
  else
    let e := elemKey t ((p - 8) / 4)
    match s.regionOf e with
    | some g => ((g.outOf e ((p - 8) % 4)).head?).map (·.rtag)
    | none => none

/-- A wiring record starts where a token comes from (R167). -/
def Region.starts (g : Region) (w : WireRec) (o : Origin) : Bool :=
  match o with
  | .chan e n => !w.src.unit && w.src.port == n && w.src.elem == elemIdx e && g.placeTile w.src == elemTile e
  | .unit t p => w.src.unit && w.src.port == p && g.placeTile w.src == t
  | .none | .reply => false

/-- The index of the wiring record that a token from an origin follows under a route tag; where the region has none, the first of the tag. [DEDUCED: log 71] -/
def Region.followed (g : Region) (o : Origin) (rtag : Nat) : Nat :=
  ((g.wires.findIdx? fun w => w.rtag == rtag && g.starts w o).orElse fun _ => g.wires.findIdx? fun w => w.rtag == rtag).getD 0

/-! ## Rooms -/

/-- Entries of a router input port taken in this cycle: those that left in this cycle are free from the next (R14, R160). -/
def State.portLoad (s : State) (r p : Nat) : Nat :=
  let q := (s.router r).port p
  q.buf.length + (if q.left.1 = s.tick + 1 then q.left.2 else 0)

/-- A tile takes what arrives: its clock and power run (R381). [DEDUCED: log 36] -/
def State.awake (s : State) (t : Nat) : Bool := let x := s.tile t; !x.gated && x.wakeAt.isNone && !x.powerOff

/-- A router port with k tokens removed at index i. -/
def RPort.take (q : RPort) (i t : Nat) : RPort :=
  { q with buf := q.buf.eraseIdx i, left := (t + 1, (if q.left.1 = t + 1 then q.left.2 else 0) + 1) }

/-- The neighbour that output d (0 north, 1 east, 2 south, 3 west) leads to, and its input port. -/
def neighbour (t d : Nat) : Option (Nat × Nat) :=
  match d with
  | 0 => if tileY t = 0 then none else some (t - 64, 2)
  | 1 => if tileX t = 63 then none else some (t + 1, 3)
  | 2 => if tileY t = 63 then none else some (t + 64, 0)
  | _ => if tileX t = 0 then none else some (t - 1, 1)

/-- Cycles a link takes: one, and five more over a die edge (R3, R159). -/
def linkCycles (t u : Nat) : Nat := 1 + 5 * crossings t u

/-- Whether a link crosses a region boundary, where a swage node sits on the wide plane (R169). A launch and its follow-on share one rectangle,
and no link within it is a boundary (R182, R223). -/
def State.boundary (s : State) (t u : Nat) : Bool :=
  match (s.tile t).region, (s.tile u).region with
  | some g, some h => !s.sees g h
  | g, h => g != h

/-- The swage node of a route tag on the wide link into port p of tile u. -/
def swageKey (u p rtag : Nat) : Nat := (u * 8 + p) * 64 + rtag

/-! ## Unit ports (R294, R304) -/

/-- The matrix node attached at a tile. -/
def nodeOf (t : Nat) : Option Nat := unitAt 1 t

/-- Room at a wired input port of a matrix node: 4 tokens wait at a port, and any number once its cut has begun (R372, R373). -/
def State.unitRoom (s : State) (t port : Nat) : Bool :=
  match nodeOf t with
  | none => false
  | some n =>
    let x := s.node n
    let full := fun (q : List Token) => decide (4 ≤ q.length)
    let open_ := decide (x.marks ≠ 0)
    if 1 ≤ port ∧ port ≤ 4 then open_ || !full ((x.repeats.getD (port - 1) {}).inq)
    else if port = 6 then open_ || !full x.scaleA
    else if port = 7 then open_ || !full x.scaleB
    else false

/-- A token enters a wired input port of a matrix node. -/
def State.unitPush (s : State) (t port : Nat) (k : Token) : State :=
  match nodeOf t with
  | none => s
  | some n => s.modNode n fun x =>
    if 1 ≤ port ∧ port ≤ 4 then { x with repeats := x.repeats.modify (port - 1) fun r => { r with inq := r.inq ++ [k] } }
    else if port = 6 then { x with scaleA := x.scaleA ++ [k] }
    else { x with scaleB := x.scaleB ++ [k] }

/-! ## Routing (R165, R166) -/

/-- The egress set of a route tag in a port's current step (R164). -/
def RPort.egress (q : RPort) (g : Nat) : Nat := (q.prog.getD q.step []).getD g 0

/-- The outputs by which a token leaves (R165): none when its set is empty, or names an unbound ejection or unit. [DESIGN CHOICE: log 85] -/
def Router.outputs (r : Router) (p g : Nat) : Option (List Nat) :=
  let b := (r.port p).egress g
  let dirs := (List.range 4).filter fun d => b.testBit d
  let ej := (r.eject.find? fun x => x.1 == g && decide (x.2.1 < 6)).map fun x => 8 + 4 * x.2.1 + x.2.2
  let un := (r.eject.find? fun x => x.1 == g && x.2.1 == 6).map fun x => 40 + x.2.2
  if b % 64 = 0 ∨ (b.testBit 4 ∧ ej.isNone) ∨ (b.testBit 5 ∧ un.isNone) then none
  else some (dirs ++ (if b.testBit 4 then ej.toList else []) ++ (if b.testBit 5 then un.toList else []))

/-- Whether output o of router r takes token k in this cycle (R160, R165, R169, R182). [DESIGN CHOICE: log 85] -/
def State.accepts (s : State) (r : Nat) (k : RToken) (o : Nat) : Bool :=
  let t := r / 2
  if o < 4 then
    match neighbour t o with
    | none => false
    | some (u, p) =>
      tget (s.router r).sent o 0 != s.tick + 1 && s.awake u
        && (if s.boundary t u then
              r % 2 == 1 && (s.tile u).region.isSome && decide ((tget s.swages (swageKey u p k.rtag) {}).inq.length < 4)
            else (s.tile u).plane == k.plane && decide (s.portLoad (2 * u + r % 2) p < 4))
  else if o < 40 then
    let e := elemKey t ((o - 8) / 4)
    let c := (s.elem e).in_ ((o - 8) % 4)
    c.arriving.isEmpty && (c.roomNext || (s.elem e).snapped)
  else s.unitRoom t (o - 40) && tget (s.router r).sent o 0 != s.tick + 1

/-- What a router port holds for this cycle: a token that may move (index and outputs), a token that missed, or nothing. -/
inductive Front where
  | none
  | miss (i : Nat)
  | move (i : Nat) (outs : List Nat)
deriving DecidableEq, Repr

/-- The first token of a buffer that may move: its outputs are claimed by no earlier token (R161), and each takes it in this cycle
(R165). An advance word holds back the tokens behind it until it has been taken (R166). -/
def State.scan (s : State) (r p : Nat) : List RToken → Nat → List Nat → Front
  | [], _, _ => .none
  | k :: rest, i, used =>
    if s.tick < k.ready then .none
    else if k.rtag = 63 ∧ !k.advanced then .none
    else match (s.router r).outputs p k.rtag with
      | none => .miss i
      | some outs =>
        if outs.all (fun o => !used.contains o && s.accepts r k o) then .move i outs
        else s.scan r p rest (i + 1) (used ++ outs)

/-- What port p of router r holds for this cycle. -/
def State.front (s : State) (r p : Nat) : Front := s.scan r p ((s.router r).port p).buf 0 []

/-- The class of a tile's region; free tiles count as class 3 (R195). -/
def State.classAt (s : State) (t : Nat) : Nat :=
  match (s.tile t).region.bind s.region? with
  | some g => g.cls
  | none => 3

/-- The class of input port p of a tile's router: that of the upstream tile (R195). -/
def State.portClass (s : State) (t p : Nat) : Nat :=
  if p = 4 then s.classAt t else match neighbour t p with | some (u, _) => s.classAt u | none => 3

/-- The input ports of a router with a token that may move, and its outputs. -/
def State.movers (s : State) (r : Nat) : List (Nat × List Nat) :=
  (List.range 5).filterMap fun p => match s.front r p with | .move _ outs => some (p, outs) | _ => none

/-- The rank of port p at output o: its class first, then the rotation that starts after the port granted last (R160, R195). [DESIGN CHOICE: log 85] -/
def State.grantRank (s : State) (r o p : Nat) : Nat :=
  s.portClass (r / 2) p * 8 + (p + 4 - tget (s.router r).granted o 4) % 5

/-- Whether port p wins every output it wants. -/
def State.wins (s : State) (r p : Nat) (outs : List Nat) : Bool :=
  (s.movers r).all fun q => q.1 == p || !(q.2.any fun o => outs.contains o && decide (s.grantRank r o q.1 < s.grantRank r o p))

/-- The port of a router whose token moves next: one that wins all it wants, else the lowest that wants something (R160). [DESIGN CHOICE: log 85] -/
def State.nextMover (s : State) (r : Nat) : Option Nat :=
  match (s.movers r).find? fun q => s.wins r q.1 q.2 with
  | some q => some q.1
  | none => ((s.movers r).head?).map (·.1)

/-- A value as it crosses from one plane into a channel of the other (R148, R162). -/
def crossPlane (fromWide toWide : Bool) (v : Val) : Val :=
  if fromWide == toWide then v
  else if toWide then { v with bits := v.w64.setWidth 512, vl := 1 }
  else { v with bits := v.w64.setWidth 512, vl := 0 }

/-- The target format of the swage exit by which a token leaves the region of tile t for that of tile u: that of the token's own record that
ends in the region beyond, else in its region's first for the tag (R167, R169). -/
def State.swageFormat (s : State) (t u : Nat) (k : RToken) : Nat :=
  match (s.tile t).region.bind s.region? with
  | some g =>
    let mine := g.wires.filter fun w => w.swg && w.rtag == k.rtag
    let own := mine.filter fun w => g.starts w k.tok.org
    let into := (own ++ mine).filter fun w => match g.exitTile w with | some v => (s.tile v).region == (s.tile u).region | none => false
    ((into ++ own ++ mine).head?.map (·.tfmt)).getD 0
  | none => 0

/-- Token k of router r leaves by output o (R159, R165). -/
def State.send (s : State) (r p : Nat) (k : RToken) (o : Nat) : State :=
  let t := r / 2
  let s1 := s.modRouter r fun x => { x with granted := tput x.granted o p, sent := tput x.sent o (s.tick + 1) }
  if o < 4 then
    match neighbour t o with
    | none => s1
    | some (u, q) =>
      let k1 := { k with advanced := false, ready := s.tick + linkCycles t u }
      if s.boundary t u then
        let key := swageKey u q k.rtag
        let w := tget s1.swages key {}
        { s1 with swages := tput s1.swages key { w with inq := w.inq ++ [{ k1 with tfmt := s.swageFormat t u k }] } }
      else s1.modRouter (2 * u + r % 2) fun x => x.modPort q fun y => { y with buf := y.buf ++ [k1] }
  else if o < 40 then
    let e := elemKey t ((o - 8) / 4)
    let v := crossPlane (r % 2 == 1) (isWide e) k.tok.val
    s1.modElem e fun x => x.modIn ((o - 8) % 4) fun c => { c with arriving := c.arriving ++ [{ k.tok with val := v, seen := s.tick + 1 }] }
  else s1.unitPush t (o - 40) { k.tok with seen := s.tick + 1 }

/-- A token leaves port p of router r by all its outputs in one cycle (R165). -/
def State.moveToken (s : State) (r p i : Nat) (outs : List Nat) : State :=
  match ((s.router r).port p).buf[i]? with
  | none => s
  | some k => outs.foldl (fun s o => s.send r p k o) (s.modRouter r fun x => x.modPort p fun q => q.take i s.tick)

/-- ROUTE_MISS: the token is held, and the region faults; the record names the router by its tile, and the route by its wiring record in
UIDX; beside the layout of R361 stand the router's plane (1 wide), the port, the step and the route tag (R165). [DEDUCED: log 71] -/
def State.routeMiss (s : State) (r p i : Nat) : State :=
  let t := r / 2
  let q := (s.router r).port p
  match (s.tile t).region, q.buf[i]? with
  | some g, some k =>
    let w := match s.region? g with | some x => x.followed k.tok.org k.rtag | none => 0
    (s.takeFault g { id := 0, code := cRouteMiss, unit := 7, x := tileX t, y := tileY t, uidx := w
                     named := [Int.ofNat (r % 2), Int.ofNat p, Int.ofNat q.step, Int.ofNat k.rtag] }).modRouter r fun x =>
      x.modPort p fun q => { q with miss := true }
  | _, _ => s

/-- What stands ready at a source of a tile's local port (R159). -/
def State.sourceToken (s : State) (r p : Nat) : Option Token :=
  let t := r / 2
  if 40 ≤ p then
    match nodeOf t with
    | some n => match (s.node n).outs.getD (p - 48) [] with
      | k :: _ => if k.seen < s.tick then some k else none
      | [] => none
    | none => none
  else
    match ((s.elem (elemKey t ((p - 8) / 4))).out ((p - 8) % 4)).front s.tick with
    | some k => if k.seen < s.tick then some k else none
    | none => none

/-- Whether source p may pass a token into its tile's local port: one a cycle from each source, with room (R159, R160). -/
def State.sourceReady (s : State) (r p : Nat) : Bool :=
  let t := r / 2
  (s.sourceTag r p).isSome && (s.sourceToken r p).isSome && decide (s.portLoad r 4 < 4)
    && tget (s.router r).sent (100 + p) 0 != s.tick + 1 && s.awake t
    && (40 ≤ p || (isWide (elemKey t ((p - 8) / 4))) == (r % 2 == 1))

/-- An output channel after its oldest token has left it before the decisions of cycle t: where it was full, it has room from the next (R20,
R403). -/
def OutCh.leave (c : OutCh) (t : Nat) : OutCh :=
  let by_ := match c.q with | .tok k :: _ => k.fire | _ => 0
  { c with q := c.q.tail, gone := c.gone + 1, room := if 2 ≤ c.held then t + 1 else c.room, freed := if 2 ≤ c.held then by_ else c.freed }

/-- Where a token that enters a tile's local port from source p comes from. -/
def sourceOrigin (r p : Nat) : Origin := if 40 ≤ p then .unit (r / 2) (p - 40) else .chan (elemKey (r / 2) ((p - 8) / 4)) ((p - 8) % 4)

/-- A token leaves its output channel for its tile's local port (R159). -/
def State.leave (s : State) (r p : Nat) : State :=
  let t := r / 2
  match s.sourceToken r p, s.sourceTag r p with
  | some k, some g =>
    let x : RToken := { tok := { k with org := sourceOrigin r p }, rtag := g, plane := (s.tile t).plane, advanced := false, ready := s.tick + 1 }
    let s1 := if 40 ≤ p then
        match nodeOf t with
        | some n => s.modNode n fun y => { y with outs := y.outs.modify (p - 48) List.tail }
        | none => s
      else s.modElem (elemKey t ((p - 8) / 4)) fun y => y.modOut ((p - 8) % 4) fun c => c.leave s.tick
    s1.modRouter r fun y => { y.modPort 4 (fun q => { q with buf := q.buf ++ [x] }) with sent := tput y.sent (100 + p) (s.tick + 1) }
  | _, _ => s

/-- ROUTE_TOKEN: a token at an input port leaves by its egress set, or is held and the region faults (R165); a token at an output
channel enters the local port (R159). -/
def execRouteToken (r p : Nat) (s : State) : Host.Outcome State Fault Refusal :=
  if s.dbg.stopped then .next s
  else if 8 ≤ p then guarded (s.sourceReady r p) s (s.leave r p)
  else
    match s.front r p with
    | .none => .next s
    | .miss i => guarded (!((s.router r).port p).miss) s (s.routeMiss r p i)
    | .move i outs => guarded (s.nextMover r == some p) s (s.moveToken r p i outs)

/-- The step that an advance word sets (R166). -/
def advanced (nstep step v : Nat) : Nat :=
  let n := if nstep = 0 then 1 else nstep
  if v.testBit 4 then v % 16 % n else (step + 1) % n

/-- Whether an advance word stands at the front of a port and has not been taken. -/
def State.advanceReady (s : State) (r p : Nat) : Bool :=
  match ((s.router r).port p).buf with
  | k :: _ => k.rtag == 63 && !k.advanced && decide (k.ready ≤ s.tick)
  | [] => false

/-- ADVANCE_WORD: an advance word at a port sets the port's step, and leaves by the egress set of tag 63 in the new step; an empty set
absorbs it (R166). -/
def execAdvanceWord (r p : Nat) (s : State) : Host.Outcome State Fault Refusal :=
  guarded (s.advanceReady r p && !s.dbg.stopped) s
    (s.modRouter r fun x => x.modPort p fun q =>
      match q.buf with
      | k :: rest =>
        let q1 := { q with step := advanced q.prog.length q.step k.tok.val.n64 }
        if q1.egress 63 % 64 = 0 then { q1.take 0 s.tick with buf := rest } else { q1 with buf := { k with advanced := true } :: rest }
      | [] => q)

/-! ## Arrivals (R14, R182, R372) -/

/-- An input channel that records wire is drained once as many EBBs have been dequeued from it (R179). -/
def State.chanDrained (s : State) (e c : Nat) : Bool :=
  match s.regionOf e with
  | some g => let m := (g.into e c).length; decide (0 < m) && decide (m ≤ ((s.elem e).in_ c).ebbs)
  | none => false

/-- The record that carries a route from an origin to an input channel, for a residue that arrives there (R182). [DEDUCED: log 71] -/
def Region.intoIndex (g : Region) (e c : Nat) (o : Origin) : Nat :=
  let into := fun (w : WireRec) => !w.dst.unit && w.rtag != 63 && w.dst.port == c && w.dst.elem == elemIdx e && g.placeTile w.dst == elemTile e
  ((g.wires.findIdx? fun w => into w && g.starts w o).orElse fun _ => g.wires.findIdx? into).getD 0

/-- TOKEN_ARRIVAL: a token reaches an input channel, and is visible from the next cycle (R14). After the element's snapshot it joins the
channel's record, and a MARK is counted (R372). At a drained channel it is residue (R182). Where a restore has left a record that found no
room, its next token enters (R378). -/
def execTokenArrival (e c : Nat) (s : State) : Host.Outcome State Fault Refusal :=
  let x := s.elem e
  match (x.in_ c).arriving with
  | [] =>
    match (x.in_ c).record with
    | [] => .next s
    | k :: rest =>
      guarded (!x.snapped && (x.in_ c).space && !(x.in_ c).q.any (fun j => j.seen == s.tick + 1) && !s.dbg.stopped) s
        (s.modElem e fun x => x.modIn c fun ch => { ch with record := rest, q := ch.q ++ [{ k with seen := s.tick + 1 }] })
  | k :: rest =>
    let due := decide (k.seen ≤ s.tick) && !s.dbg.stopped
    let s1 := s.modElem e fun x => x.modIn c fun ch =>
      if x.snapped && !ch.closed then
        if k.tag = 4 then { ch with arriving := rest, marks := ch.marks + 1 }
        else { ch with arriving := rest, record := ch.record ++ [k] }
      else { ch with arriving := rest, q := ch.q ++ [{ k with seen := s.tick + 1 }] }
    guarded due s
      (if s.chanDrained e c && !x.snapped && k.tag != 4 then
        match s.regionOf e with
        | some g => s1.residue g.id e (g.intoIndex e c k.org)
        | none => s1
      else s1)

/-! ## Swage nodes (R169, R170) -/

/-- A swage node repacks a format (R170). -/
def repacked (f : Nat) : Bool := f == 10 || f == 11 || f == 12

/-- The valid lanes of a word of a tapered format (R72, R170). -/
def wordLanes (v : Val) : List Nat :=
  let w := laneBits v.fmt
  let full := laneCount w
  (List.range (if v.vl = 0 then full else min v.vl full)).map (laneAt v.bits.toNat w)

/-- A lane re-encoded into the target format; the node sets no flag (R77, R80, R170). -/
def reformat (f tf x : Nat) : Nat := (encodeLane tf .rne (decodeLane f x)).1

/-- A word of lanes in the target format, with its count (R72). -/
def swageWord (tf : Nat) (lanes : List Nat) (tag : Nat) (o : Origin) : Token :=
  let w := laneBits tf
  { val := { bits := BitVec.ofNat 512 (packLanes w lanes), fmt := tf, vl := countOf lanes.length (laneCount w) }, tag := tag, org := o }

/-- A token that a swage node repacks: a word of a tapered format under a target format, of any tag but EOS, EBB and MARK (R170). [DEDUCED: log 78] -/
def repacks (tf : Nat) (k : Token) : Bool := tf != 0 && repacked k.val.fmt && !(inR k.tag 2 4)

/-- The words that leave a swage node for one word that enters with target format tf, and the lanes that stay (R170). -/
def swageStep (w : Swage) (tf : Nat) (k : Token) : List Token × List Nat :=
  let full := laneCount (laneBits tf)
  let rest := if w.lanes.isEmpty then [] else [swageWord w.tfmt w.lanes 0 k.org]
  if repacks tf k then
    let before := if w.tfmt = tf then [] else rest
    let all := (if w.tfmt = tf then w.lanes else []) ++ (wordLanes k.val).map (reformat k.val.fmt tf)
    let n := all.length / full
    let words := (List.range n).map fun j => (all.drop (j * full)).take full
    let left := all.drop (n * full)
    if k.tag = 1 then
      let ws := if left.isEmpty then words else words ++ [left]
      (before ++ ws.mapIdx fun j l => swageWord tf l (if j + 1 = ws.length then 1 else 0) k.org, [])
    else (before ++ words.map fun l => swageWord tf l 0 k.org, left)
  else (rest ++ [k], [])

/-- Whether a word that a swage node has repacked may leave the link into port p of router r now: one a cycle, into a port with room, of a tile that a
region holds and that is awake (R160, R169, R381). -/
def State.swagePasses (s : State) (r p : Nat) (w : Swage) : Bool :=
  (match w.outq with | k :: _ => decide (k.ready ≤ s.tick) | [] => false)
    && decide (s.portLoad r p < 4) && s.awake (r / 2) && (s.tile (r / 2)).region.isSome && tget (s.router r).sent (200 + p) 0 != s.tick + 1

/-- Whether a swage node may repack its oldest word now. [DESIGN CHOICE: log 85] -/
def State.swageRepacks (s : State) (w : Swage) : Bool := match w.inq with | k :: _ => decide (k.ready ≤ s.tick) && decide (w.outq.length < 4) | [] => false

/-- What a swage node does next on the link into port p of router r: for which route tag it passes its oldest word into the port, or repacks the oldest
word that has crossed. -/
def State.swageKeyOf (r p : Nat) (s : State) : Option Nat :=
  ((List.range 64).map fun g => swageKey (r / 2) p g).find? fun key =>
    let w := tget s.swages key {}
    s.swagePasses r p w || s.swageRepacks w

/-- A word leaves a swage node for the port, with the plane bit of the receiving tile (R169). -/
def State.swagePass (s : State) (r p key : Nat) : State :=
  let w := tget s.swages key {}
  match w.outq with
  | k :: rest =>
    let s1 := { s with swages := tput s.swages key { w with outq := rest } }
    s1.modRouter r fun x => { x.modPort p (fun q => { q with buf := q.buf ++ [{ k with plane := (s.tile (r / 2)).plane, ready := s.tick + 1 }] }) with
      sent := tput x.sent (200 + p) (s.tick + 1) }
  | [] => s

/-- SWAGE_REPACK: a swage node repacks a word, which may leave the receiving port 4 cycles later than without the node, whether it has a target
format or none, or passes one on (R169, R170). [DEDUCED: log 36; DESIGN CHOICE: log 85] -/
def execSwageRepack (r p : Nat) (s : State) : Host.Outcome State Fault Refusal :=
  match s.swageKeyOf r p with
  | none => .next s
  | some key =>
    let w := tget s.swages key {}
    if s.dbg.stopped then .next s
    else if s.swagePasses r p w then .next (s.swagePass r p key)
    else
      match w.inq with
      | k :: rest =>
        let (out, lanes) := swageStep w k.tfmt k.tok
        let ks := out.map fun t => { k with tok := t, ready := s.tick + 3 }
        .next { s with swages := tput s.swages key { tfmt := k.tfmt, inq := rest, lanes := lanes, outq := w.outq ++ ks } }
      | [] => .next s

/-- A word of a swage node stands ready to enter a tile (R381). -/
def State.swageWaits (s : State) (t : Nat) : Bool :=
  s.swages.any fun x => x.1 / 512 == t && (match x.2.outq with | k :: _ => decide (k.ready ≤ s.tick) | [] => false)

/-! ## Feeds and sinks (R30 to R32, R35) -/

/-- The binding of a channel of a solo region, by index (R30). -/
def Region.bindOf (g : Region) (sink : Bool) (c : Nat) : Option Nat := g.binds.findIdx? fun b => b.en && b.sink == sink && b.chan == c
def Region.bind (g : Region) (i : Nat) : Binding := g.binds.getD i {}
def State.modBind (s : State) (g i : Nat) (f : Binding → Binding) : State := s.modRegion g fun r => { r with binds := r.binds.modify i f }

/-- The tokens a feed delivers in all (R31). -/
def Binding.total (b : Binding) : Nat := b.count + (if b.fin = 1 ∨ (b.fin = 0 ∧ b.count = 0) then 1 else 0)

/-- A binding has moved a token (R33). -/
def Binding.note (b : Binding) (tag : Nat) : Binding :=
  { b with next := b.next + 1, moved := b.moved + 1, poison := b.poison + (if tag = 5 then 1 else 0), lastTag := tag
           ended := b.ended || tag == 1 || tag == 2 }

/-- An access of a binding that its owner withholds, with the token that a sink would store; the binding waits (R35, R241, R383). -/
def State.bindHeld (s : State) (g : Region) (e i : Nat) (kind : AccKind) (va size cd : Nat) (wr : Bool) (data : LinkWord) : State :=
  let a : Access := { id := s.ids, fire := 0, elem := e, ctx := 0, slot := 0, region := g.id, core := none, kind := kind, wide := isWide e, va := va
                      size := size, wr := wr, data := data, inv := 0, opw := 0, reqTag := 0, link := none, stage := .withheld cd s.tick, due := s.tick
                      reply := 0, poison := false, released := false }
  let s1 := (s.issue a).modBind g.id i fun b => { b with waiting := true }
  let s2 := if s1.traced g.id then s1.perf 3 1 else s1
  if resolvable cd then s2.postFq g.id va cd wr else s2

/-- Whether a solo launch's sinks take tokens: from the cycle before its contexts may decide until it ends, and after the freeze of a HALT until
what its output channels hold has been stored (R32, R34, R111). [DEDUCED: log 63] -/
def State.sinksRun (s : State) (e : Nat) (g : Region) : Bool :=
  (s.elem e).loaded && g.live && g.solo && (match g.ending with | none => true | some st => st.1 == 2)
    && (g.freeze.isNone || decide (s.tick < g.freezeAt)) && decide ((s.tile (elemTile e)).startAt ≤ s.tick + 1) && !s.dbg.stopped

/-- Whether its feeds deliver: until it ends (R31, R34). [DEDUCED: log 63] -/
def State.bindsRun (s : State) (e : Nat) (g : Region) : Bool := s.sinksRun e g && g.ending.isNone && !(s.elem e).frozen

/-- A token delivered by a feed or a sink's store moves at most once in a cycle. -/
def State.feedReady (s : State) (e c : Nat) (g : Region) (i : Nat) : Bool :=
  let b := g.bind i
  let ch := (s.elem e).in_ c
  s.bindsRun e g && !b.waiting && decide (b.next < b.total) && ch.room && !(ch.q.any fun k => k.seen == s.tick + 1)

/-- FEED_DELIVER: a feed delivers its next token (R31). The EOS that it sends has value 0, format code 0 and count 0: the spec gives FMT to the
tokens that it reads and says nothing of its end token's. [DEDUCED: log 63; DESIGN CHOICE: log 79, 88] -/
def execFeedDeliver (e c : Nat) (s : State) : Host.Outcome State Fault Refusal :=
  match s.regionOf e with
  | none => .next s
  | some g =>
    match g.bindOf false c with
    | none => .next s
    | some i =>
      let b := g.bind i
      let size := if isWide e then 64 else 8
      let push := fun (s : State) (k : Token) =>
        (s.modElem e fun x => x.modIn c fun ch => { ch with q := ch.q ++ [{ k with seen := s.tick + 1 }] }).modBind g.id i fun b => b.note k.tag
      if !s.feedReady e c g i then .next s
      else if b.count ≤ b.next then .next (push s { tag := 2 })
      else
        let va := b.addr + size * b.next
        match s.translate (.region g.hdr.gid) va false false false with
        | (.fail cd, s1) => .next (s1.bindHeld g e i (.feed c) va size cd false 0)
        | (.pa p, s1) =>
          let bad := s1.poisoned p size
          let v : Val := { bits := if bad then s1.poisonBits (isWide e) 8 else BitVec.ofNat 512 (leNat (s1.viewFor g.id va p size)), fmt := b.fmt
                           vl := if b.next + 1 = b.count then b.vlast else 0 }
          let tag := if bad then 5 else if b.fin = 0 && b.next + 1 == b.count then 1 else 0
          .next (push (if bad then s1.useFree else s1) { val := v, tag := tag })

/-- The size of a value of an element, in bytes. -/
def elemSize (e : Nat) : Nat := if isWide e then 64 else 8

/-- A sink may take the oldest token of its channel, in the cycle in which it stands there (R32); a page under migration holds it (R244). -/
def State.sinkReady (s : State) (e c : Nat) (g : Region) (i : Nat) : Bool :=
  let b := g.bind i
  s.sinksRun e g && !b.waiting && (((s.elem e).out c).front s.tick).isSome && !s.migrates (b.addr + elemSize e * b.moved)

/-- SINK_STORE: a sink stores a token, or the launch ends OVERRUN, unless a HALT has ended it before (R32, R34, R35). [DESIGN CHOICE: log 88] -/
def execSinkStore (e c : Nat) (s : State) : Host.Outcome State Fault Refusal :=
  match s.regionOf e, ((s.elem e).out c).front s.tick with
  | some g, some k =>
    match g.bindOf true c with
    | none => .next s
    | some i =>
      let b := g.bind i
      let size := elemSize e
      let taken := fun (s : State) => s.modElem e fun x => x.modOut c fun o => o.leave s.tick
      if !s.sinkReady e c g i then .next s
      else if b.count ≤ b.moved then
        let s1 := (taken s).modBind g.id i fun b => { b with overrun := true }
        if g.ending.isSome then .next s1
        else
        let s2 := s1.modElem e fun x => { x with frozen := true }
        .next ((s2.discardHeld fun h => h.region == g.id).modRegion g.id fun r => { r with ending := some (5, 0, 0) })
      else
        let va := b.addr + size * b.moved
        match s.translate (.region g.hdr.gid) va true false false with
        | (.fail cd, s1) => .next (s1.bindHeld g e i (.sink c) va size cd true (if k.tag = 2 then 0 else k.val.bits))
        | (.pa p, s1) =>
          let d := if k.tag = 2 then List.replicate size 0 else natLe size k.val.bits.toNat
          let (s2, made) := (taken s1).storeAt g e 0 0 0 0 p va d
          .next (if made then s2.modBind g.id i fun b => b.note k.tag else s2)
  | _, _ => .next s

end Sys2Proof.Machine
end

