-- ==== Sys2Proof/Machine/Drain.lean ====
section
/-! DEFINITION. The ebb, the swap, invocation boundaries and the HALT of a region (spec/08_fabric.md R178 to R186,
spec/09_scheduler.md R193, spec/11_prog_config_switch.md R224). -/

namespace Sys2Proof.Machine

/-- Whether a region is frozen now (R359). -/
def State.frozen (s : State) (g : Region) : Bool := match g.freeze with | some _ => decide (g.freezeAt ≤ s.tick) | none => false

/-! ## The ebb (R179, R180) -/

/-- EBB_DRAIN: an EBB at the head of an input channel is dequeued; the token behind it is the head in the next cycle (R179). A
frozen element dequeues none (R111). -/
def execEbbDrain (e c : Nat) (s : State) : Host.Outcome State Fault Refusal :=
  let x := s.elem e
  match (x.in_ c).q with
  | k :: rest =>
    guarded (k.tag == 3 && decide (k.seen ≤ s.tick) && x.loaded && !x.frozen && !x.snapped && !s.dbg.stopped) s
      (s.modElem e fun x => x.modIn c fun ch =>
        { ch with q := (match rest with | [] => [] | n :: r => { n with seen := max n.seen (s.tick + 1) } :: r)
                  ebbs := ch.ebbs + 1, freeing := ch.freeing + 1
                  gone := ch.gone + 1 + (match rest with | n :: _ => if n.seen ≤ s.tick then 1 else 0 | [] => 0) })
  | [] => .next s

/-- No fire of an element is in flight, and none of its requests awaits a reply (R180). -/
def State.settled (s : State) (e : Nat) : Bool := !(s.flights.any fun f => f.elem == e) && (s.elem e).tags.isEmpty

/-- Every enabled context of an element has ended its last invocation (R220). -/
def Elem.allEnded (x : Elem) : Bool := x.active.contexts.all fun k => (x.ctx k).ended

/-- The element meets the conditions of R180. -/
def State.drainable (s : State) (e : Nat) (g : Region) : Bool :=
  let x := s.elem e
  let ins := g.wiredIns e
  let outs := g.wiredOuts e
  (if ins != [] then ins.all fun c => s.chanDrained e c
    else if outs != [] then outs.all fun c => (x.out c).ebbed.isSome
    else x.allEnded)
  && s.settled e

/-- An EBB placed behind the tokens of each wired output channel that has carried none (R180, R224). -/
def Elem.placeEbbs (x : Elem) (outs : List Nat) (t : Nat) : Elem :=
  { x with outs := x.outs.mapIdx fun n c =>
      if outs.contains n && c.ebbed.isNone then { c with q := c.q ++ [OutEntry.tok { tag := 3, seen := t }], ebbed := some t } else c }

/-- ELEMENT_DRAINED: an element that meets the conditions of R180 drains, and places the EBBs that are due. -/
def execElementDrained (e : Nat) (s : State) : Host.Outcome State Fault Refusal :=
  match s.regionOf e with
  | none => .next s
  | some g =>
    let x := s.elem e
    guarded (x.loaded && !x.drained && !x.snapped && !s.frozen g && s.drainable e g && !s.dbg.stopped) s
      (s.modElem e fun x => { (x.placeEbbs (g.wiredOuts e) s.tick) with drained := true })

/-! ## The swap (R181) -/

/-- The elements of a tile, by key. -/
def tileElems (t : Nat) : List Nat := (List.range 6).map (elemKey t)

/-- A tile is clear (R181). -/
def State.tileClear (s : State) (t : Nat) : Bool :=
  let x := s.tile t
  ((tileElems t).all fun e => let y := s.elem e; !y.loaded || (y.drained && y.outs.all fun c => c.q.isEmpty))
    && (x.narrow.ports ++ x.wide.ports).all fun p => p.buf.all fun k => k.plane != x.plane

/-- The initial tokens of a plane for channel n of an element (R67, R178). -/
def Plane.initial (p : Plane) (n t : Nat) : List Token := (p.inits.filter (·.chan == n)).map fun i => { i.tok with seen := t }

/-- An element at the swap, from its new plane; its notes and walks are the element's own (R12, R181, R183, R403). [DESIGN CHOICE: log 2] -/
def freshElem (x : Elem) (p : Plane) (g : Region) (record t : Nat) : Elem :=
  { active := p, loaded := true, region := some g.id, notes := x.notes, walks := x.walks, fenced := x.fenced
    ins := (List.range 4).map fun n => { q := p.initial n t }
    outs := (List.range 4).map fun n => { q := (p.initial (4 + n) t).map OutEntry.tok }
    ctxs := (List.range 4).map fun k =>
      { spmap := p.spmaps.getD k 0, ivec := g.coords g.passed, inv := g.passed, faultinfo := BitVec.ofNat 64 record } }

/-- The fault record a region's handler launch serves, by address; none once an FRET has named it (R209, R217, R364). [DEDUCED: log 46] -/
def State.servedRecord (s : State) (g : Region) : Nat :=
  match (s.launch? g.launch).bind (·.handler) with
  | some k => match s.record? k with
    | some r => if r.disposed || s.faults.dispose.any (·.1 == r.slotAddr) then 0 else r.slotAddr
    | none => 0
  | none => 0

/-- The accumulator columns that the spill map of a tile's elements takes (R247, R248). -/
def State.columns (s : State) (t : Nat) : List Nat :=
  (tileElems t).flatMap fun e => (s.elem e).active.spmaps.filterMap fun w =>
    if bits w.toNat 15 14 = 2 then some (bits w.toNat 7 0) else none

/-- A tile swaps to its shadow planes (R181); the matrix node attached at it that the new region claims is reset (R295). -/
def State.swapTile (s : State) (t : Nat) (g : Region) : State :=
  let rec_ := s.servedRecord g
  let port := fun (p : RPort) => { p with prog := p.shadow, shadow := [], step := 0, miss := false }
  let rt := fun (r : Router) => { r with ports := r.ports.map port, eject := r.shadowEject, shadowEject := [] }
  let s1 := (tileElems t).foldl (fun s e =>
    s.modElem e fun x => match x.shadow with
      | some p => freshElem x p g rec_ s.tick
      | none => { notes := x.notes, walks := x.walks, fenced := x.fenced }) s
  let s2 := s1.modTile t fun x =>
    { x with plane := !x.plane, region := some g.id, shadowOf := none, loaded := false, narrow := rt x.narrow, wide := rt x.wide
             swapped := true, startAt := s.tick + 2, lastGid := some g.hdr.gid, clearTill := none, idleFrom := s.tick }
  let s3 := match nodeOf t with
    | some n => if (g.claimed 1).contains n then { s2 with nodes := tput s2.nodes n { spill := s2.columns t } } else s2
    | none => s2
  s3.modRegion g.id fun r => { r with lastFire := max r.lastFire (s.tick + 1), started := if r.started = 0 then s.tick else r.started }

/-- A tile may swap: it is clear with a loaded shadow whose region has been dispatched, and the region it leaves has no fault (R181,
R182, R199, R223). -/
def State.swapReady (s : State) (t : Nat) : Option Region :=
  let x := s.tile t
  match x.shadowOf.bind s.region? with
  | some g =>
    let held := match x.region.bind s.region? with | some o => o.freeze.isSome | none => false
    if x.loaded && g.live && decide (x.swapAt ≤ s.tick) && !held && s.tileClear t && g.freeze.isNone then some g else none
  | none => none

/-- The local part of a tile must be written to zero for its next occupant, and the tile is clear (R230). -/
def State.clearDue (s : State) (t : Nat) : Bool :=
  let x := s.tile t
  match x.shadowOf.bind s.region? with
  | some g =>
    let held := match x.region.bind s.region? with | some o => o.freeze.isSome | none => false
    x.clearTill.isNone && x.lastGid.isSome && x.lastGid != some g.hdr.gid && !held && g.freeze.isNone && s.tileClear t
  | none => false

/-- The local part of a tile written to zero, by whole blocks (R230, R369). -/
def State.zeroLocal (s : State) (t : Nat) : State :=
  let out := fun (a : Nat) => decide (a < slicePa t 0) || decide (slicePa t Config.globalBase ≤ a)
  { s with mem := s.mem.filter (fun k => out k.1), poison := s.poison.filter fun k => out (64 * k) }

/-- TILE_SWAP: a clear tile with a loaded shadow swaps; where the last occupant had another GRAPHID its local part is first written to
zero, which takes 3,072 cycles from when the tile is clear (R181, R230). -/
def execTileSwap (t : Nat) (s : State) : Host.Outcome State Fault Refusal :=
  if s.dbg.stopped then .next s
  else if s.clearDue t then .next (s.modTile t fun x => { x with clearTill := some (s.tick + 3072) })
  else match s.swapReady t with
  | none => .next s
  | some g =>
    match (s.tile t).clearTill with
    | none => .next (s.swapTile t g)
    | some c => guarded (decide (c ≤ s.tick)) s ((s.zeroLocal t).swapTile t g)

/-! ## Invocation boundaries (R183 to R185, R193, R224) -/

/-- Every store that a region issued in invocations up to k has reached its port or weir (R184). -/
def State.storesIn (s : State) (g k : Nat) : Bool :=
  s.accesses.all fun a =>
    !(a.region == g && a.core.isNone && (a.kind == .store || a.kind == .sts) && decide (a.inv ≤ k)) ||
      (match a.stage with | .atWeir _ => true | .toNode _ => a.link.isSome | _ => a.arrived)

/-- Every enabled context of a region has ended invocation k. -/
def State.endedAll (s : State) (g k : Nat) : Bool :=
  (s.regionElems g).all fun p => p.2.active.contexts.all fun c => decide (k < (p.2.ctx c).inv)

/-- The boundary of invocation k of a region passes: its held stores perform, and its undo entries are dropped (R185, R367). -/
def State.passBoundary (s : State) (g k : Nat) : State :=
  let s1 := s.performHeld fun h => h.region == g && decide (h.inv ≤ k)
  { (s1.modRegion g fun r => { r with passed := k + 1, boundaryAt := s.tick }) with
      undo := s1.undo.filter fun u => !(u.region == g && decide (u.inv ≤ k)) }

/-- The next boundary of a region may pass. -/
def State.boundaryReady (s : State) (g : Region) : Bool :=
  !g.solo && decide (g.passed < g.ninv) && !s.frozen g && g.live && g.ending.isNone && g.halt.isNone
    && s.endedAll g.id g.passed && s.storesIn g.id g.passed && (g.tiles.all fun t => (s.tile t).region == some g.id || (s.tile t).shadowOf != some g.id)

/-- The EBB of the scheduler enters the wired outputs of each element with no wired input in the cycle after the last boundary (R193,
R224). -/
def State.injectReady (s : State) (g : Region) : Bool :=
  !g.solo && g.ninv == g.passed && !g.injected && decide (g.boundaryAt < s.tick) && !s.frozen g && g.ending.isNone

/-- INVOCATION_BOUNDARY: the next boundary of a region passes, or, in the cycle after the last, the scheduler places its EBBs. -/
def execInvocationBoundary (gi : Nat) (s : State) : Host.Outcome State Fault Refusal :=
  match s.region? gi with
  | none => .next s
  | some g =>
    if s.dbg.stopped then .next s
    else if s.injectReady g then
      let s1 := (s.regionElems gi).foldl (fun s p =>
        if (g.wiredIns p.1) == [] then s.modElem p.1 fun x => x.placeEbbs (g.wiredOuts p.1) s.tick else s) s
      .next (s1.modRegion gi fun r => { r with injected := true })
    else guarded (s.boundaryReady g) s (s.passBoundary gi g.passed)

/-! ## Waits that a cut withdraws (R186, R373) -/

/-- An access is a wait that a cut withdraws: a withheld token, a queued ACQ or ACQS, a WAITV at its home. -/
def Access.withdrawable (a : Access) : Bool :=
  match a.stage, a.kind with
  | .withheld _ _, _ => true
  | .queued _, .acq | .queued _, .acqs | .queued _, .mask | .tested _, .mask => true
  | .queued _, .waitv | .tested _, .waitv => true
  | .queued _, .launchRec => true
  | _, _ => false

/-- A collective of a fire has begun: it completes before the cut (R373). [DEDUCED: log 39] -/
def State.collBegun (s : State) (f : Nat) : Bool := s.colls.any fun p => p.2.any fun q => q.cmd.fire == f && (q.pos != 0 || !q.shadows.isEmpty)

/-- A participant record waits at a collective engine for its group; a collective that has begun completes (R373). -/
def State.participantOf (s : State) (f : Nat) : Bool := s.colls.any fun p => p.2.any fun q => q.cmd.fire == f && q.pos == 0 && q.shadows.isEmpty

/-- A PUBLISH waits for its copies. -/
def State.publishOf (s : State) (f : Nat) : Bool := s.engines.any fun e => e.2.pubs.any fun c => c.fire == f

/-- A fire in flight is a wait that a cut withdraws (R373). -/
def State.withdrawn (s : State) (f : Flight) : Bool :=
  !f.ready &&
  (match f.wait with
    | .park _ | .bar _ _ | .mask _ _ _ _ => true
    | .launch _ => s.accesses.any fun a => a.fire == f.id && a.withdrawable
    | .unitSend _ => s.releasable f.elem f.ctx f.id
    | .unit _ => s.participantOf f.id || s.publishOf f.id
    | _ => s.accesses.any fun a => a.fire == f.id && a.withdrawable)

/-- The waits of a region are withdrawn from their homes: their accesses leave their queues, a PARK leaves its wake register EMPTY,
participant records and records on the decoder's path are taken back (R186, R373). -/
def State.withdrawWaits (s : State) (g : Nat) : State :=
  let acc := s.accesses.filter fun a => a.region == g && a.core.isNone && a.withdrawable
  let ids := acc.map (·.id)
  let fl := s.flights.filter fun f => f.region == g && s.withdrawn f
  let fids := fl.map (·.id)
  let s1 := fl.foldl (fun s f => match f.wait with | .park w => s.setWake w {} | _ => s) s
  { s1 with accesses := s1.accesses.filter fun a => !ids.contains a.id
            sync := s1.sync.map fun q => { q with waiters := q.waiters.filter fun a => !ids.contains a }
            waitv := s1.waitv.filter fun a => !ids.contains a
            colls := s1.colls.map fun p => (p.1, p.2.filter fun q => !fids.contains q.cmd.fire)
            engines := s1.engines.map fun e => (e.1, { e.2 with pubs := e.2.pubs.filter fun c => !fids.contains c.fire }) }

/-! ## The HALT of a region (R186) -/

/-- The conditions of R186 hold at a region whose HALT has been decided. -/
def State.haltDone (s : State) (g : Region) : Bool :=
  g.halt.isSome && g.ending.isNone && !s.frozen g
    && (s.flights.filter (·.region == g.id)).all (fun f => (match f.wait with | .halt _ => s.lapsed f | _ => s.withdrawn f))
    && (s.accesses.filter fun a => a.region == g.id && a.core.isNone).all fun a => a.withdrawable || a.kind == .pref

/-- The invocation after the last that a context of a region has begun (R183): the open ones lie from the oldest whose boundary has not passed up
to it. -/
def State.openTo (s : State) (g : Region) : Nat :=
  let begun := ((s.regionElems g.id).flatMap fun p => p.2.active.contexts.map fun k => (p.2.ctx k).inv + 1).foldl max (g.passed + 1)
  min begun (min (g.passed + g.invwin) g.ninv)

/-- HALT_COMPLETE: the waits are abandoned, every open boundary passes, every token of the region is discarded, every tile is clear, and
the launch ends HALTED (R186). -/
def execHaltComplete (gi : Nat) (s : State) : Host.Outcome State Fault Refusal :=
  match s.region? gi with
  | none => .next s
  | some g =>
    let s1 := s.withdrawWaits gi
    let s2 := (List.range (s.openTo g - g.passed)).foldl (fun s j => s.passBoundary gi (g.passed + j)) s1
    let s3 := (s2.regionElems gi).foldl (fun s p => s.modElem p.1 fun x =>
      { x with drained := true, halted := true, ins := x.ins.map fun c => { c with q := [], arriving := [] }
               outs := x.outs.map fun c => { c with q := [] } }) s2
    let s4 := g.tiles.foldl (fun s t => s.modTile t fun x =>
      if x.region == some gi then
        let empty := fun (r : Router) => { r with ports := r.ports.map fun p => { p with buf := [] } }
        { x with narrow := empty x.narrow, wide := empty x.wide }
      else x) s3
    let s5 := { s4 with flights := s4.flights.filter (·.region != gi), accesses := s4.accesses.filter fun a => !(a.region == gi && a.core.isNone) }
    let code := match g.halt with | some (_, c, _) => c | none => 0
    guarded (s.haltDone g && !s.dbg.stopped) s
      (s5.modRegion gi fun r => { r with ending := some (2, code, 0), injected := true })

end Sys2Proof.Machine
end

