-- ==== Sys2Proof/Machine/Image.lean ====
section
/-! DEFINITION. The configuration image: how the loader reads it (spec/03_encoding.md R64 to R67, spec/08_fabric.md R164, R167,
R172, R173), the spill map (R247), and every load check by its number (R68, R177, R202). -/

namespace Sys2Proof.Machine

/-! ## Bytes of an image -/

/-- The double at a byte offset of an image. -/
def dbl (b : List Byte) (o : Nat) : Nat := leNat ((b.drop o).take 8)

/-- CRC-32C over bytes (R69): reflected polynomial 0x82F63B78. -/
def crcByte (c : BitVec 32) (b : Byte) : BitVec 32 :=
  (List.range 8).foldl (fun c _ => if c.getLsbD 0 then (c >>> 1) ^^^ 0x82F63B78#32 else c >>> 1) (c ^^^ b.setWidth 32)
def crc32c (b : List Byte) : BitVec 32 := ~~~(b.foldl crcByte (BitVec.allOnes 32))

/-- Section types an image kind admits (R65). -/
def sectionOk (kind ty : Nat) : Bool := ty == 2 || (if kind = 1 then ty == 1 || ty == 3 || ty == 4 else ty == 5)

/-- A section table entry: type, offset, record count, reserved bits clear. -/
structure Section where
  ty : Nat
  off : Nat
  count : Nat
  ok : Bool
deriving DecidableEq, Repr, Inhabited

/-- The section table of an image (R65). -/
def sections (b : List Byte) : List Section :=
  (List.range (min 8 (bits (dbl b 8) 63 32))).map fun i =>
    let lo := dbl b (64 + 16 * i)
    { ty := bits lo 15 0, off := dbl b (72 + 16 * i), count := bits lo 63 32, ok := bits lo 31 16 == 0 }

/-- The length of the record of a section type that starts at an offset (R65). -/
def recordLen (b : List Byte) (ty o : Nat) : Nat :=
  match ty with
  | 1 => 256
  | 2 => max 64 ((bits (dbl b o) 63 48 + 63) / 64 * 64)
  | 3 => 8 + 64 * (bits (dbl b o) 23 20 + 1)
  | 4 => 16
  | _ => 32

/-- The offsets of n records of a section from an offset. -/
def recordOffs (b : List Byte) (ty : Nat) : Nat → Nat → List Nat
  | 0, _ => []
  | n + 1, o => if b.length ≤ o then [] else o :: recordOffs b ty n (o + recordLen b ty o)

/-- The end of a section. -/
def Section.stop (x : Section) (b : List Byte) : Nat :=
  match (recordOffs b x.ty x.count x.off).getLast? with
  | some o => o + recordLen b x.ty o
  | none => x.off

/-- The records of a section type, by offset. -/
def recordsOf (b : List Byte) (ty : Nat) : List Nat :=
  match (sections b).find? (·.ty == ty) with
  | some x => recordOffs b ty x.count x.off
  | none => []

/-- Two byte ranges do not overlap. -/
def apart (x y : Nat × Nat) : Bool := decide (x.2 ≤ y.1) || decide (y.2 ≤ x.1)

/-- No two elements of a list are related. -/
def pairwiseB {α : Type} (p : α → α → Bool) : List α → Bool
  | [] => true
  | x :: r => r.all (p x) && pairwiseB p r

/-- The kind of an image (R64): 0 solo, 1 region. -/
def imageKind (b : List Byte) : Nat := bits (dbl b 0) 63 48
/-- The size of an image (R64). -/
def imageSize (b : List Byte) : Nat := bits (dbl b 8) 31 0

/-- An item of the loader's report where a condition fails (R68): check n of section type ty, record r, slot k, at byte offset o, which is that of the
byte with the field's lowest bit. [DEDUCED: log 68] -/
def item (ok : Bool) (n ty r : Nat) (k : Option Nat) (o : Nat) : List Refused := if ok then [] else [⟨n, ty, r, k, o⟩]

/-- Check 1 of R68 on the image header: reserved fields, NSEC, SIZE, KIND, VERS, MAGIC (R64). -/
def headerItems (b : List Byte) : List Refused :=
  let f := fun (ok : Bool) (o : Nat) => item ok 1 0 0 none o
  f ((List.range 6).all fun k => dbl b (16 + 8 * k) == 0) 16
    ++ f (decide (1 ≤ bits (dbl b 8) 63 32) && decide (bits (dbl b 8) 63 32 ≤ 8)) 12
    ++ f (imageSize b % 64 == 0 && decide (64 + 16 * bits (dbl b 8) 63 32 ≤ imageSize b)) 8
    ++ f (decide (imageKind b ≤ 1)) 6 ++ f (bits (dbl b 0) 47 32 == 1) 4 ++ f (bits (dbl b 0) 31 0 == 0x3164696A) 0

/-- The header fields that fix what is read of an image are sound. -/
def headerOk (b : List Byte) : Bool := (headerItems b).isEmpty

/-- Check 1 of R68 on the section table (R65). A solo image that does not hold exactly one element record, or holds more than 8 bindings, is refused
here, by the record count of its entry. [DESIGN CHOICE: log 80, 89] -/
def tableItems (b : List Byte) : List Refused :=
  let ss := sections b
  let table := 64 + 16 * bits (dbl b 8) 63 32
  let solo := imageKind b == 0
  let one := fun (i : Nat) (x : Section) =>
    let before := ss.take i
    let f := fun (ok : Bool) (o : Nat) => item ok 1 0 i none (64 + 16 * i + o)
    f (x.off % 64 == 0 && decide (table ≤ x.off) && decide (x.stop b ≤ imageSize b)
        && before.all fun y => apart (x.off, x.stop b) (y.off, y.stop b) || x.count == 0 || y.count == 0) 8
      ++ f ((recordOffs b x.ty x.count x.off).length == x.count && (x.ty != 1 || x.count == 1)
        && (!solo || ((x.ty != 2 || x.count == 1) && (x.ty != 5 || decide (x.count ≤ 8))))) 4
      ++ f x.ok 2 ++ f (sectionOk (imageKind b) x.ty && before.all fun y => y.ty != x.ty) 0
  (ss.mapIdx one).flatten ++ item (solo || ss.any (·.ty == 1)) 1 1 0 none 64 ++ item (ss.any (·.ty == 2)) 1 2 0 none 64

/-- Check 1 of R68. -/
def check1 (b : List Byte) : List Refused := if headerOk b then tableItems b else headerItems b

/-! ## Records -/

/-- The region header (R172), with CLAIM entries in use and the hierarchy doubles. -/
def readHeader (b : List Byte) : Header :=
  match recordsOf b 1 with
  | o :: _ =>
    let d := fun k => dbl b (o + k)
    { gid := bits (d 0) 55 44, rank := bits (d 0) 43 40, invwin := bits (d 0) 39 36, fairwin := bits (d 0) 35 32
      h := bits (d 0) 15 8, w := bits (d 0) 7 0, hmc := (d 8).testBit 63, htask := bits (d 8) 11 0
      hang := bits (d 16) 63 32, qwin := bits (d 16) 31 0, fhold := bits (d 24) 63 32, holdsz := bits (d 24) 15 0
      hlog := d 32, hlogsz := bits (d 40) 63 32, undo := (d 40).testBit 1, sckpt := (d 40).testBit 0
      hier := (List.range 8).map fun j => BitVec.ofNat 64 (d (64 + 8 * j))
      claims := (List.range (min 16 (bits (d 0) 20 16))).map fun j =>
        let c := d (128 + 8 * j); { kind := bits c 18 16, x := bits c 7 0, y := bits c 15 8 } }
  | [] => {}

/-- Bytes of a value of an element kind. -/
def valueSize (elem : Nat) : Nat := if 4 ≤ elem then 64 else 8

/-- The initial tokens of an element record (R67). -/
def readInits (b : List Byte) (o elem n : Nat) : List Init :=
  (List.range n).map fun i =>
    let p := o + 328 + i * (8 + valueSize elem)
    let d := dbl b p
    { chan := bits d 2 0
      tok := { val := { bits := BitVec.ofNat 512 (leNat ((b.drop (p + 8)).take (valueSize elem))), fmt := bits d 19 16, vl := bits d 26 20 }
               tag := bits d 10 8 } }

/-- An element record (R66); `addr` is the address of the image. -/
def readElem (b : List Byte) (addr o : Nat) : ElemRec :=
  let pw := dbl b o
  let elem := bits pw 23 16
  let w32 := fun k => BitVec.ofNat 32 (leNat ((b.drop (o + k)).take 4))
  { x := bits pw 7 0, y := bits pw 15 8, elem := elem
    plane :=
      { slots := (List.range 16).map fun j => { trig := w32 (8 + 12 * j), op := w32 (12 + 12 * j), upd := w32 (16 + 12 * j) }
        lits := (List.range 8).map fun j => (BitVec.ofNat 64 (dbl b (o + 200 + 16 * j)), bits (dbl b (o + 208 + 16 * j)) 3 0)
        ctxen := bits pw 27 24, inits := readInits b o elem (bits pw 39 32), repl := pw.testBit 28
        recAddr := addr + o, recLen := bits pw 63 48, crc := crc32c ((b.drop o).take (bits pw 63 48)) } }

/-- Check 2 of R68 on element record r at offset o. Bytes other than zero in the padding of a literal or of the record, a count in an initial token
of a narrow element, and an ELEM other than 0 and 4 in a solo image are refused here too. [DESIGN CHOICE: log 80] -/
def elemSound (b : List Byte) (kind r o : Nat) : List Refused :=
  let pw := dbl b o
  let len := bits pw 63 48
  let n := bits pw 39 32
  let elem := bits pw 23 16
  let used := 328 + n * (8 + valueSize elem)
  let f := fun (ok : Bool) (d : Nat) => item ok 2 2 r none (o + d)
  f (len % 64 == 0 && decide (used ≤ len)) 6 ++ f (bits pw 47 40 == 0) 5 ++ f (decide (n ≤ 24)) 4 ++ f (bits pw 31 29 == 0) 3
    ++ f (!pw.testBit 28 || decide (4 ≤ elem)) 3 ++ f (decide (elem ≤ 5) && (kind == 1 || elem == 0 || elem == 4)) 2
    ++ (List.range 8).flatMap (fun j => f (dbl b (o + 208 + 16 * j) < 16) (208 + 16 * j))
    ++ (List.range (min n 24)).flatMap (fun i =>
        let p := 328 + i * (8 + valueSize elem)
        let d := dbl b (o + p)
        f (bits d 63 27 == 0) (p + 3) ++ f (decide (4 ≤ elem) || bits d 26 20 == 0) (p + 2) ++ f (bits d 15 11 == 0) (p + 1) ++ f (bits d 7 3 == 0) p)
    ++ f (((b.drop (o + used)).take (len - used)).all (· == 0)) used

/-- A route program record (R164). -/
def readRoute (b : List Byte) (o : Nat) : RouteRec :=
  let h := dbl b o
  { x := bits h 7 0, y := bits h 15 8, wide := h.testBit 16, port := bits h 19 17
    steps := (List.range (bits h 23 20 + 1)).map fun k => ((b.drop (o + 8 + 64 * k)).take 64).map BitVec.toNat }

/-- A place word (R167). -/
def readPlace (p : Nat) : Place :=
  { unit := p.testBit 31, port := bits p 23 20, elem := bits p 19 16, x := bits p 7 0, y := bits p 15 8 }

/-- A wiring record (R167). -/
def readWire (b : List Byte) (o : Nat) : WireRec :=
  let lo := dbl b o
  let hi := dbl b (o + 8)
  { src := readPlace (bits hi 31 0), dst := readPlace (bits lo 63 32), swg := lo.testBit 12, tfmt := bits lo 11 8, auto := lo.testBit 6
    rtag := bits lo 5 0 }

/-- The reserved fields of a wiring record at an offset are zero (R167): by the offset of each that is not. -/
def wireRsv (b : List Byte) (o : Nat) : List Nat :=
  let lo := dbl b o
  let hi := dbl b (o + 8)
  let f := fun (ok : Bool) (d : Nat) => if ok then [] else [o + d]
  let place := fun (p d : Nat) => f (bits p 30 24 == 0) (d + 3) ++ f (!p.testBit 31 || bits p 19 16 == 0) (d + 2)
  f (bits hi 63 32 == 0) 12 ++ place (bits hi 31 0) 8 ++ place (bits lo 63 32) 4 ++ f (bits lo 31 13 == 0) 1 ++ f (!lo.testBit 7) 0

/-- A channel binding (R30). -/
def readBind (b : List Byte) (o : Nat) : Binding :=
  let c := dbl b (o + 8)
  { addr := dbl b o, count := bits c 63 32, fmt := bits c 27 24, vlast := bits c 23 17, fin := bits c 16 15, chan := bits c 11 10
    sink := c.testBit 9, en := c.testBit 8, status := dbl b (o + 16) }

/-- Check 2 of R68 on binding r at offset o, with the bindings that stand before it (R30). [DESIGN CHOICE: log 88] -/
def bindSound (b : List Byte) (wide : Bool) (before : List Binding) (r o : Nat) : List Refused :=
  let c := dbl b (o + 8)
  let x := readBind b o
  let f := fun (ok : Bool) (d : Nat) => item ok 2 5 r none (o + d)
  f (bits (dbl b o) 63 57 == 0) 7 ++ f (bits c 31 28 == 0) 11 ++ f (wide || bits c 23 17 == 0) 10 ++ f (bits c 16 15 != 3) 9 ++ f (bits c 14 12 == 0) 9
    ++ f (!x.en || before.all fun y => !(y.en && y.sink == x.sink && y.chan == x.chan)) 9 ++ f (bits c 7 0 == 0) 8 ++ f (dbl b (o + 24) == 0) 24

/-- The image as the loader reads it. -/
def readImage (b : List Byte) (addr : Nat) : Image :=
  { addr := addr, size := imageSize b, solo := imageKind b == 0, hdr := readHeader b, elems := (recordsOf b 2).map (readElem b addr)
    routes := (recordsOf b 3).map (readRoute b), wires := (recordsOf b 4).map (readWire b), binds := (recordsOf b 5).map (readBind b) }

/-! ## The spill map (R247, R248) -/

/-- A slot names a register of d8 to d15. -/
def Slot.namesHigh (x : Slot) : Bool :=
  let o := x.op.toNat
  decide (24 ≤ bits o 23 19) || decide (24 ≤ bits o 18 14) || bit x.upd.toNat 4 || bit x.upd.toNat 3

/-- Context k may fire a slot of an element (condition 1 of R20). -/
def Slot.fits (x : Slot) (ctxen k : Nat) : Bool :=
  ctxen.testBit k && bit x.upd.toNat 0 && (!bit x.upd.toNat 10 || bits x.upd.toNat 9 8 == k)

/-- The contexts of a plane that name d8 to d15. -/
def Plane.spilling (p : Plane) : List Nat := (List.range 4).filter fun k => p.slots.any fun x => x.namesHigh && x.fits p.ctxen k

/-- The places of an element's spilling contexts: donors first, then columns from `col` downwards where the tile has them; each
context with KIND and the donor or column, KIND 0 where none is left; and the next column. -/
def spillElem (p : Plane) (hasNode : Bool) (col : Nat) : List (Nat × Nat × Nat) × Nat :=
  let free := (List.range 4).filter fun k => !p.ctxen.testBit k
  let r := p.spilling.foldl (fun (acc : List (Nat × Nat × Nat) × List Nat × Nat) k =>
    match acc.2.1 with
    | d :: rest => (acc.1 ++ [(k, 1, d)], rest, acc.2.2)
    | [] => if hasNode && decide (120 ≤ acc.2.2) then (acc.1 ++ [(k, 2, acc.2.2)], [], acc.2.2 - 1) else (acc.1 ++ [(k, 0, 0)], [], acc.2.2))
    ([], free, col)
  (r.1, r.2.2)

/-- The spill map of an image: for each element record, its contexts' places (R247). Columns are counted down per tile, the elements in element
order. -/
def Image.spill (m : Image) : List (ElemRec × List (Nat × Nat × Nat)) :=
  let r := ((List.range 6).flatMap fun i => m.elems.filter (·.elem == i)).foldl (fun (acc : List (ElemRec × List (Nat × Nat × Nat)) × Table Nat) e =>
    let key := tileKey e.x e.y
    let has := m.hdr.claims.any fun c => c.kind == 1 && c.x == e.x && c.y == e.y
    let (l, col) := spillElem e.plane has (tget acc.2 key 127)
    (acc.1 ++ [(e, l)], tput acc.2 key col)) ([], [])
  r.1

/-- SPMAP of a context (R248): `node` is the die-relative index of the node for KIND 2. -/
def spmapWord (l : List (Nat × Nat × Nat)) (node k : Nat) : Word :=
  match l.find? (·.1 == k) with
  | some (_, 1, d) => BitVec.ofNat 64 (2 ^ 14 + d * 2 ^ 12)
  | some (_, 2, c) => BitVec.ofNat 64 (2 * 2 ^ 14 + node * 2 ^ 8 + c)
  | _ => 0

/-! ## The checks of one element record (checks 5 to 19 and 22 of R68) -/

/-- What the checks of an element record need of its image: solo, feeds and sinks by channel (4 to 7 for o0 to o3), the wired input
channels with whether the source is narrow, the number of claims of each kind, the contexts without a place, and whether the weir of a chain has
room for all that it homes (R268). -/
structure ElemEnv where
  solo : Bool
  bound : List Nat
  wired : List (Nat × Bool)
  claims : Nat → Nat
  unplaced : List Nat
  weirs : Nat → Bool

/-- Trigger word conditions (R16, R19), by the byte of each field that fails one. -/
def trigFails (t : Nat) : List Nat :=
  let f := fun (ok : Bool) (d : Nat) => if ok then [] else [d]
  f ((bits t 23 16 &&& (255 - bits t 31 24)) == 0) 2 ++ f ((bits t 11 8 &&& (15 - bits t 15 12)) == 0) 1
    ++ f ((bits t 7 5 == 0 || bits t 11 8 != 0) && !(bits t 11 8 != 0 && (bits t 7 5 == 3 || bits t 7 5 == 4))) 0
    ++ f ((bits t 4 1 &&& (15 - bits t 15 12)) == 0) 0

/-- Update word conditions (R17, R19, R99), by the byte of each field that fails one. [DESIGN CHOICE: log 89] -/
def updFails (u : Nat) (r : Raw) : List Nat :=
  let f := fun (ok : Bool) (d : Nat) => if ok then [] else [d]
  f ((bits u 31 24 &&& bits u 23 16) == 0) 3 ++ f (!bit u 12 || hasPred r.opc) 1 ++ f (!bit u 11 || bit u 12) 1 ++ f (bits u 9 8 == 0 || bit u 10) 1
    ++ f ((u &&& 0xE6) == 0 && r.c9) 0

/-- The quota of a chain (R268). -/
def chainQuota (id : Nat) : Nat := if id < 0x40 then 2 else if id < 0x80 then 4 else if id < 0xC0 then 8 else 16

/-- A chain literal that meets R60, with the ACHN conditions of R268. -/
def linkOk (opc mode fmt n : Nat) : Bool :=
  let sub := bits n 35 32
  fmt == 0 && bits n 63 36 == 0 && decide (bits n 31 24 ≤ 0xFD) && decide (bits n 23 16 ≤ 0xFD)
    && (if opc = 0xA2 then decide (sub ≤ 7) && !(sub == 7 && mode == 0) else sub == 0)

/-- A special-register number is listed in R209. [DESIGN CHOICE: log 95] -/
def srListed (n : Nat) : Bool := decide (n ≤ 0x0A) || (decide (0x10 ≤ n) && decide (n ≤ 0x17))

/-- A literal of PACK or UNPACK is of the class of the target (R139). -/
def packLit (fmt tact : Nat) : Bool := if 7 ≤ tact then decide (7 ≤ fmt) && decide (fmt ≤ 14) else decide (1 ≤ fmt) && decide (fmt ≤ 6)

/-- The kind of unit that an engine instruction needs a claim of (R320). -/
def unitKind (opc : Nat) : Nat :=
  if inR opc 0xC0 0xC7 then 1 else if opc = 0xD7 ∨ opc = 0xD8 then 4 else if inR opc 0xD0 0xD9 then 2 else 0

/-- The byte of an operation word that holds SRCA, SRCB, DST1, DST2, and TACT and MODE. -/
def offA : Nat := 2
def offB : Nat := 1
def offD1 : Nat := 1
def offD2 : Nat := 0

/-- Where DST1, the more significant of the two, is at fault under check 12. -/
def d1Fails (r : Raw) : Bool :=
  !(decide (r.d1 ≤ 12) && (usesD1 r.opc || r.d1 == 12) && (!readsOld r.opc || decide (r.d1 < 8)) && (!(r.opc == 0x02 || r.opc == 0x03) || r.d1 != 12)
    && (r.opc != 0x07 || isChan r.d1 || isChan r.d2) && (r.opc != 0x0B || isChan r.d1 || r.d1 == 12))

/-- What the loader reports of slot k of element record r at offset o, by check; 0x23C for the claim of R320. TACT that R61 gives no use is refused as
a tag. [DEDUCED: log 68; DESIGN CHOICE: log 80, 89] -/
def slotItems (v : ElemEnv) (p : Plane) (wide : Bool) (r o k : Nat) : List Refused :=
  let x := p.slot k
  let t := x.trig.toNat
  let u := x.upd.toNat
  let w := Raw.ofWord x.op (bit u 4) (bit u 3)
  let lit := fun (c : Nat) => p.lits.getD (c - 12) (0, 0)
  let isLit := fun (c : Nat) => inR c 12 19
  let at_ := o + 8 + 12 * k
  let f := fun (ok : Bool) (n d : Nat) => item ok n 2 r (some k) (at_ + d)
  let g := fun (l : List Nat) (n d : Nat) => l.map fun y => (⟨n, 2, r, some k, at_ + d + y⟩ : Refused)
  if !bit u 0 then f (t == 0) 9 0 ++ f (x.op == 0) 9 4 ++ f (u == 0) 9 8
  else if !w.c6 then f false 6 7
  else
    let present := fun (c : Nat) => !isHead c || bit t (12 + (c - 8))
    let srOk := (w.opc != 0xF2 && w.opc != 0xF3) || !isLit w.a ||
      (let n := (lit w.a).1.toNat; srListed n && (w.opc != 0xF3 || srWritable n))
    let aOk := (usesA w.opc || w.a == 20) && (w.opc != 0x06 || isHead w.a) && present w.a && srOk
    let inits := fun (c : Nat) => p.inits.any (·.chan == c)
    let rch := isReply w.opc && isChan w.d1
    let outs := fun (d : Nat) => isReply w.opc || !isChan d || !v.solo || v.bound.contains (d - 4)
    let n := (p.lits.getD w.tact (0, 0))
    let unplaced := (List.range 4).any fun k => x.fits p.ctxen k && v.unplaced.contains k
    let packOk := fun (c : Nat) => !isLit c || packLit (lit c).2 w.tact
    f (w.c7 wide p.repl) 7 7 ++ g (trigFails t) 8 0 ++ g (updFails u w) 9 8
      ++ f (w.c10 && present w.a && present w.b && srOk) 10 (4 + if aOk then offB else offA)
      ++ f (!(x.namesHigh && unplaced)) 11 (if 24 ≤ bits x.op.toNat 23 19 then 4 + offA else if 24 ≤ bits x.op.toNat 18 14 then 4 + offB else 8)
      ++ f w.c12 12 (4 + if d1Fails w then offD1 else offD2) ++ f (w.c13 wide) 13 4 ++ f w.c14 14 4 ++ f w.c15 15 4
      ++ f (!(w.opc == 0x76 || w.opc == 0x77) || packOk w.a) 16 (4 + offA) ++ f (w.opc != 0x76 || packOk w.b) 16 (4 + offB) ++ f w.c16 16 4
      ++ f (!isChain w.opc || (decide (w.tact < 8) && linkOk w.opc w.mode n.2 n.1.toNat && !v.solo && v.claims 3 != 0 && v.weirs (bits n.1.toNat 31 24))) 17 4
      ++ f (!rch || (let c := w.d1 - 8; !v.bound.contains c && !v.wired.any (·.1 == c) && !inits c)) 18 (4 + offD1)
      ++ f (outs w.d1) 21 (4 + offD1) ++ f (outs w.d2) 21 (4 + offD2)
      ++ f (unitKind w.opc == 0 || (!v.solo && v.claims (unitKind w.opc) != 0)) 0x23C 7

/-- What the loader reports of element record r at offset o, of checks 5 to 22 of R68 (21 only where the image is solo). [DEDUCED: log 68; DESIGN CHOICE: log 89] -/
def elemItems (v : ElemEnv) (e : ElemRec) (r o : Nat) : List Refused :=
  let p := e.plane
  let wide := decide (4 ≤ e.elem)
  let f := fun (ok : Bool) (n d : Nat) => item ok n 2 r none (o + d)
  let desc := fun (i : Nat) => 328 + i * (8 + valueSize e.elem)
  let tokens := fun (g : Nat → Init → List Refused) => (p.inits.mapIdx g).flatten
  (p.lits.mapIdx fun j l => f (l.2 != 15) 5 (208 + 16 * j)).flatten ++ tokens (fun i x => f (x.tok.val.fmt != 15) 5 (desc i + 2))
    ++ (List.range 16).flatMap (slotItems v p wide r o)
    ++ tokens (fun i x => f (decide (((p.inits.take i).filter (·.chan == x.chan)).length < (if x.chan < 4 then 4 else 2))) 19 (desc i))
    ++ tokens (fun i x => f (x.tok.tag != 3 && x.tok.tag != 4) 20 (desc i + 1))
    ++ f (!wide || p.repl || v.wired.all fun w => !w.2) 22 3

/-- The numbers of the checks that an element record fails. [DEDUCED: log 68] -/
def elemFails (v : ElemEnv) (e : ElemRec) : List Nat := (elemItems v e 0 0).map (·.check)

/-- The weir at which the region homes a chain, by the place of its claim (R268): two claims of one port name one weir. -/
def Image.weir (m : Image) (c : Nat) : Nat × Nat :=
  let ports := m.hdr.claims.filter (·.kind == 3)
  let p := ports.getD (if ports.isEmpty then 0 else c % ports.length) default
  (p.x, p.y)

/-- The chain that slot k of a plane names. -/
def Plane.chainAt (p : Plane) (k : Nat) : Option Nat :=
  let x := p.slot k
  if bit x.upd.toNat 0 && isChain (bits x.op.toNat 31 24) then some (bits (p.lits.getD (bits x.op.toNat 5 2) (0, 0)).1.toNat 31 24) else none

/-- The chains of an image. -/
def Image.chains (m : Image) : List Nat := (m.elems.flatMap fun e => (List.range 16).filterMap e.plane.chainAt).eraseDups

/-- At most 64 chains and 256 entries of quota are homed at the weir of a chain (R268). -/
def Image.weirOk (m : Image) (c : Nat) : Bool :=
  let l := m.chains.filter fun d => m.weir d == m.weir c
  decide (l.length ≤ 64) && decide ((l.map chainQuota).foldl (· + ·) 0 ≤ 256)

/-- The surroundings of an element record in its image. -/
def Image.elemEnv (m : Image) (e : ElemRec) : ElemEnv :=
  let sp := (m.spill.find? fun p => p.1.x == e.x && p.1.y == e.y && p.1.elem == e.elem).map (·.2)
  { solo := m.solo
    bound := (m.binds.filter (·.en)).map fun b => if b.sink then 4 + b.chan else b.chan
    wired := (m.wires.filter fun w => !w.swg && w.rtag != 63 && !w.dst.unit && w.dst.x == e.x && w.dst.y == e.y && w.dst.elem == e.elem).map
      fun w => (w.dst.port, !w.src.unit && decide (w.src.elem < 4))
    claims := fun k => (m.hdr.claims.filter (·.kind == k)).length
    unplaced := match sp with | some l => (l.filter fun x => x.2.1 == 0).map (·.1) | none => []
    weirs := m.weirOk }

/-! ## Header, claims, routes and wiring (R177) -/

/-- Check 23a: fields of the region header. -/
def check23a (b : List Byte) : List Refused :=
  match recordsOf b 1 with
  | o :: _ =>
    let d := fun k => dbl b (o + k)
    let h := readHeader b
    let f := fun (ok : Bool) (k : Nat) => item ok 0x23A 1 0 none (o + k)
    f (bits (d 0) 63 56 == 0) 7 ++ f (h.rank != 15) 5 ++ f (decide (h.invwin ≤ 4)) 4 ++ f (bits (d 0) 31 21 == 0) 2 ++ f (decide (bits (d 0) 20 16 ≤ 16)) 2
      ++ f (decide (1 ≤ h.h) && decide (h.h ≤ 64)) 1 ++ f (decide (1 ≤ h.w) && decide (h.w ≤ 64)) 0 ++ f (bits (d 8) 62 12 == 0) 9
      ++ f (!(decide (1 ≤ h.qwin) && decide (h.qwin ≤ 255))) 16 ++ f (bits (d 24) 31 16 == 0) 26 ++ f (h.hlog % 4096 == 0 && bits h.hlog 63 57 == 0) 32
      ++ f (bits (d 40) 31 2 == 0) 40 ++ f (d 48 == 0) 48 ++ f (d 56 == 0) 56
      ++ (List.range 8).flatMap (fun j => f (bits (d (64 + 8 * j)) 63 9 == 0) (65 + 8 * j))
      ++ (List.range 16).flatMap (fun j => f (bits (d (128 + 8 * j)) 63 19 == 0) (130 + 8 * j))
  | [] => []

/-- The natural scope of a domain (R174). -/
def naturalScope (dom : Nat) : Nat := if dom = 7 then 9 else dom

/-- The declared levels of a hierarchy block; the usual binding where all eight doubles are zero (R174). -/
def hierLevels (h : List Word) : List Level :=
  if h.all (· == 0) then (List.range 8).map fun j => ⟨naturalScope j, j⟩
  else (h.filter fun w => w.toNat.testBit 8).map fun w => ⟨bits w.toNat 7 4, bits w.toNat 3 0⟩

/-- A hierarchy meets R174. -/
def hierOk (h : List Word) : Bool :=
  h.all (· == 0) ||
    (let vs := h.map fun w => w.toNat.testBit 8
     let ls := hierLevels h
     (List.range 8).all (fun j => vs.getD j false || (List.range 8).all fun k => decide (k ≤ j) || !vs.getD k false)
      && vs.getD 0 false && ls.all (fun l => decide (l.scope ≤ 10) && decide (l.dom ≤ 7) && decide (naturalScope l.dom ≤ l.scope))
      && (List.range 7).all (fun j => match ls[j]?, ls[j + 1]? with
          | some x, some y => decide (x.dom ≤ y.dom) && decide (x.scope ≤ y.scope)
          | _, _ => true))

/-- Check 23c: claims; the region header stands at offset o. -/
def Image.check23c (m : Image) (o : Nat) : List Refused :=
  (m.hdr.claims.mapIdx fun j c =>
    let f := fun (ok : Bool) (d : Nat) => item ok 0x23C 1 0 none (o + 128 + 8 * j + d)
    f (decide (1 ≤ c.kind) && decide (c.kind ≤ 4)) 2 ++ f (decide (c.y < m.hdr.h)) 1 ++ f (decide (c.x < m.hdr.w)) 0).flatten

def Image.inside (m : Image) (x y : Nat) : Bool := decide (x < m.hdr.w) && decide (y < m.hdr.h)

/-- Output d of a region tile leads out of the region. -/
def Image.leaves (m : Image) (x y d : Nat) : Bool :=
  (d == 0 && y == 0) || (d == 1 && x + 1 == m.hdr.w) || (d == 2 && y + 1 == m.hdr.h) || (d == 3 && x == 0)

/-- A swage record carries a route tag on the wide plane (R169). -/
def Image.swageTag (m : Image) (g : Nat) : Bool := m.wires.any fun w => w.swg && w.rtag == g

/-- One egress byte of a route record is allowed (R164, R177). -/
def Image.egressOk (m : Image) (r : RouteRec) (g b : Nat) : Bool :=
  decide (b < 64) && !(g == 63 && (b.testBit 4 || b.testBit 5))
    && (List.range 4).all (fun d => !b.testBit d || !m.leaves r.x r.y d || (r.wide && m.swageTag g))
    && (!b.testBit 5 || m.hdr.claims.any fun c => c.x == r.x && c.y == r.y)

/-- Check 23d on route record r at offset o, with the records that stand before it. -/
def Image.check23d (m : Image) (b : List Byte) (before : List RouteRec) (r o : Nat) : List Refused :=
  let x := readRoute b o
  let f := fun (ok : Bool) (d : Nat) => item ok 0x23D 3 r none (o + d)
  f (bits (dbl b o) 63 24 == 0) 3 ++ f (decide (x.port ≤ 4) && before.all fun q => !(x.x == q.x && x.y == q.y && x.wide == q.wide && x.port == q.port)) 2
    ++ f (decide (x.y < m.hdr.h)) 1 ++ f (decide (x.x < m.hdr.w)) 0
    ++ (x.steps.mapIdx fun k st => (List.range 64).flatMap fun g => f (m.egressOk x g (st.getD g 0)) (8 + 64 * k + g)).flatten

/-- A port of a unit that a wiring record may name as its destination: an activation port or a scale port of a matrix node (R294). -/
def wiredInput (p : Nat) : Bool := inR p 1 4 || p == 6 || p == 7

/-- A place of a wiring record names an element channel of the image or a wired unit port of a claimed node (R167, R294). [DESIGN CHOICE: log 80] -/
def Image.placeOk (m : Image) (p : Place) (out : Bool) : Bool :=
  m.inside p.x p.y &&
    (if p.unit then
        p.elem == 0 && m.hdr.claims.any (fun c => c.kind == 1 && c.x == p.x && c.y == p.y)
          && (if out then p.port == 8 || p.port == 9 else wiredInput p.port)
      else decide (p.port ≤ 3) && m.elems.any fun e => e.x == p.x && e.y == p.y && e.elem == p.elem)

/-- The mesh of a record's source: wide for a wide element or a unit (R162). -/
def WireRec.wide (w : WireRec) : Bool := w.src.unit || decide (4 ≤ w.src.elem)

/-- The tile steps of a dimension-order route: x, y, input port, output bit (R168). -/
def dimRoute : Nat → Int → Int → Nat → Int → Int → List (Int × Int × Nat × Nat)
  | 0, _, _, _, _, _ => []
  | n + 1, x, y, p, dx, dy =>
    if x < dx then (x, y, p, 2) :: dimRoute n (x + 1) y 3 dx dy
    else if dx < x then (x, y, p, 8) :: dimRoute n (x - 1) y 1 dx dy
    else if y < dy then (x, y, p, 4) :: dimRoute n x (y + 1) 0 dx dy
    else if dy < y then (x, y, p, 1) :: dimRoute n x (y - 1) 2 dx dy
    else [(x, y, p, 16)]

/-- The coordinates where a wiring record ends: signed where it leaves the region (R167). -/
def WireRec.ends (w : WireRec) : Int × Int := if w.swg then (signed8 w.dst.x, signed8 w.dst.y) else (w.dst.x, w.dst.y)

/-- Coordinates lie inside the region of an image. -/
def Image.within (m : Image) (q : Int × Int) : Bool := decide (0 ≤ q.1) && decide (q.1 < m.hdr.w) && decide (0 ≤ q.2) && decide (q.2 < m.hdr.h)

/-- The egress bits that a wiring record with AUTO asks of each port on its path inside the region (R168): the last is EJECT, or UNIT for a unit
port, and where the route leaves the region the output of the boundary link. -/
def Image.path (m : Image) (w : WireRec) : List (Nat × Nat × Nat × Nat) :=
  ((dimRoute 300 w.src.x w.src.y 4 w.ends.1 w.ends.2).takeWhile fun q => m.within (q.1, q.2.1)).map fun q =>
    (q.1.toNat, q.2.1.toNat, q.2.2.1, if q.2.2.2 = 16 ∧ w.dst.unit then 32 else q.2.2.2)

/-- The egress set that the AUTO records give a tag at a port of a plane: the union over them (R168, R291). -/
def Image.autoSet (m : Image) (x y : Nat) (wide : Bool) (p g : Nat) : Nat :=
  ((m.wires.filter fun w => w.auto && w.rtag == g && w.wide == wide).flatMap fun w =>
    ((m.path w).filter fun q => q.1 == x && q.2.1 == y && q.2.2.1 == p).map fun q => q.2.2.2).foldl (· ||| ·) 0

/-- The explicit egress set of a tag at a port in step 0. -/
def Image.explicitSet (m : Image) (x y : Nat) (wide : Bool) (p g : Nat) : Nat :=
  match m.routes.find? fun r => r.x == x && r.y == y && r.wide == wide && r.port == p with
  | some r => (r.steps.getD 0 []).getD g 0
  | none => 0

/-- Check 23e on wiring record r at offset o, with the records before it: wiring (R167 to R169, R294) and conflicts of AUTO with explicit entries. [DESIGN CHOICE: log 94] -/
def Image.check23e (m : Image) (b : List Byte) (before : List WireRec) (r o : Nat) : List Refused :=
  let w := readWire b o
  let zero := fun (p : Place) => !p.unit && p.port == 0 && p.elem == 0 && p.x == 0 && p.y == 0
  let f := fun (ok : Bool) (d : Nat) => item ok 0x23E 4 r none (o + d)
  let plain := fun (q : WireRec) => !q.swg && q.rtag != 63
  let clash := fun (q : WireRec) => plain q && w.dst.x == q.dst.x && w.dst.y == q.dst.y && w.wide == q.wide && w.rtag == q.rtag && w.dst.unit == q.dst.unit
    && w.dst != q.dst
  (wireRsv b o).map (fun y => ⟨0x23E, 4, r, none, y⟩)
    ++ f (m.placeOk w.src true) 8
    ++ f (if w.rtag = 63 then zero w.dst
          else if w.swg then !m.within w.ends && (if w.dst.unit then w.dst.elem == 0 && wiredInput w.dst.port else decide (w.dst.port ≤ 3) && decide (w.dst.elem ≤ 5))
          else m.placeOk w.dst false && (!w.dst.unit || w.wide) && before.all fun q => !(plain q && w.dst == q.dst && w.wide != q.wide)) 4
    ++ f (!w.swg || (w.wide && w.rtag != 63)) 1 ++ f ([0, 10, 11, 12].contains w.tfmt) 1
    ++ f (w.rtag != 63 || !w.src.unit) 0
    ++ f (!w.auto || (w.rtag != 63 && (m.path w).all fun q =>
        let e := m.explicitSet q.1 q.2.1 w.wide q.2.2.1 w.rtag
        e == 0 || e == m.autoSet q.1 q.2.1 w.wide q.2.2.1 w.rtag)) 0
    ++ f (before.all fun q => (w.src != q.src || w.rtag == q.rtag) && !(plain w && clash q)) 0

/-- A channel of a wiring place holds an initial token (R202). -/
def Image.holdsToken (m : Image) (p : Place) (out : Bool) : Bool :=
  !p.unit && m.elems.any fun e => e.x == p.x && e.y == p.y && e.elem == p.elem && e.plane.inits.any (·.chan == p.port + if out then 4 else 0)

/-- The node of a place in the graph of R202: an element, or a claimed unit as one node. -/
def Place.node (p : Place) : Nat × Nat × Nat := (p.x, p.y, if p.unit then 8 else p.elem)

/-- The nodes reachable from a set along edges, in n rounds. -/
def reach (es : List ((Nat × Nat × Nat) × (Nat × Nat × Nat))) : Nat → List (Nat × Nat × Nat) → List (Nat × Nat × Nat)
  | 0, l => l
  | n + 1, l =>
    let new := (es.filter fun e => l.contains e.1 && !l.contains e.2).map (·.2)
    if new.isEmpty then l else reach es n (l ++ new.eraseDups)

/-- Check 23f (R202): the wiring record that the refusal names where a cycle of channels holds no token: the lowest-indexed of the first such cycle in
record order. -/
def Image.check23f (m : Image) : Option Nat :=
  let es := (m.wires.mapIdx fun i w => (i, w)).filterMap fun p =>
    if p.2.rtag != 63 && !p.2.swg && !m.holdsToken p.2.src true && !m.holdsToken p.2.dst false then some (p.1, p.2.src.node, p.2.dst.node) else none
  let pairs := es.map (·.2)
  (es.find? fun e => (reach pairs (es.length + 1) [e.2.2]).contains e.2.1).map (·.1)

/-! ## The whole (R68) -/

/-- The items of a list by index and offset, each with those before it. -/
def perRecord {α : Type} (offs : List Nat) (l : List α) (f : List α → Nat → Nat → List Refused) : List Refused :=
  (offs.mapIdx fun i o => f (l.take i) i o).flatten

/-- Check 2 of R68. -/
def check2 (b : List Byte) (m : Image) : List Refused :=
  let wide := m.elems.any fun e => decide (4 ≤ e.elem)
  perRecord (recordsOf b 2) m.elems (fun _ => elemSound b (imageKind b)) ++ perRecord (recordsOf b 5) m.binds (bindSound b wide)

/-- Checks 3 to 23 of R68 on an image that passes the first two. -/
def checksFrom3 (b : List Byte) (m : Image) : List Refused :=
  let w := if m.solo then 1 else m.hdr.w
  let h := if m.solo then 1 else m.hdr.h
  let o1 := (recordsOf b 1).headD 0
  let elems := fun (f : ElemRec → Nat → Nat → List Refused) => ((m.elems.zip (recordsOf b 2)).mapIdx fun r p => f p.1 r p.2).flatten
  elems (fun e r o => item (decide (e.y < h)) 3 2 r none (o + 1) ++ item (decide (e.x < w)) 3 2 r none o)
    ++ elems (fun e r o => item ((m.elems.take r).all fun q => !(e.x == q.x && e.y == q.y && e.elem == q.elem)) 4 2 r none (o + 2))
    ++ elems (fun e r o => elemItems (m.elemEnv e) e r o)
    ++ ((m.binds.zip (recordsOf b 5)).mapIdx fun r p => item (p.1.fmt != 15) 5 5 r none (p.2 + 11)).flatten
    ++ check23a b ++ item (hierOk m.hdr.hier) 0x23B 1 0 none (o1 + 64) ++ m.check23c o1
    ++ perRecord (recordsOf b 3) m.routes (m.check23d b) ++ perRecord (recordsOf b 4) m.wires (m.check23e b)
    ++ (match m.check23f with
      | some i => item false 0x23F 4 i none ((recordsOf b 4).getD i 0)
      | none => [])

/-- Of the items of one check the first in image order: section by section as the section table has them (R68). -/
def firstOf (b : List Byte) (l : List Refused) : Option Refused :=
  ((sections b).findSome? fun x => l.find? (·.ty == x.ty)).orElse fun _ => l.head?

/-- The failing item that a report names: of the first check that fails, the first in image order (R68). -/
def firstItem (b : List Byte) (l : List Refused) : Option Refused :=
  (l.map (·.check)).min?.bind fun n => firstOf b (l.filter (·.check == n))

/-- What the loader reports of an image that it refuses (R68); none when the image passes. [DEDUCED: log 68] -/
def imageRefusal (b : List Byte) (addr : Nat) : Option Refused :=
  match check1 b with
  | x :: _ => some x
  | [] =>
    let m := readImage b addr
    match firstOf b (check2 b m) with
    | some x => some x
    | none => firstItem b (checksFrom3 b m)

end Sys2Proof.Machine
end

