-- ==== Sys2Proof/Machine/Launch.lean ====
section
/-! DEFINITION. Launch queues, the decoder, placement and loads (spec/09_scheduler.md R187 to R192, R196, R197, R199, R201, R413;
spec/11_prog_config_switch.md R223). -/

namespace Sys2Proof.Machine

/-! ## Spans of virtual memory -/

/-- Bytes written over several pages by an agent; where a page does not translate its part is not made, and the management core logs
the launch and the address (R413). [DEDUCED: log 44] -/
def State.writeSpan (s : State) (a : Agent) (l : Nat) : Nat → Nat → List Byte → State
  | 0, _, _ => s
  | fuel + 1, va, b =>
    if b.isEmpty then s
    else
      let k := min b.length (4096 - va % 4096)
      let s1 := if 2 ^ 57 ≤ va then (s.log 1 l).log 2 va
        else match s.translate a va true false false with
          | (.pa p, s1) => s1.putAt va p (b.take k)
          | (.fail _, s1) => (s1.log 1 l).log 2 va
      State.writeSpan s1 a l fuel (va + k) (b.drop k)

/-- The agent of a launch record (R413): the management core, or the stream port of the issuing region, by its GRAPHID. -/
def agentBy (a : Option Nat) : Agent := match a with | some g => .region g | none => .mgmt

/-! ## Host registers of the queues (R187, R188, R412) -/

/-- A host write of a register of BAR 0: ignored before READY (R409). -/
@[inline] def State.hosted (s t : State) : Host.Outcome State Fault Refusal := guarded s.mgmt.ready s t

/-- The address of the record at QHEAD (R188). -/
def Queue.record (q : Queue) : Nat := q.base.toNat + 256 * (q.head.toNat % 2 ^ q.logsz)
/-- A record is pending. -/
def Queue.pending (q : Queue) : Bool := q.tail != q.head

/-- QTAIL_WRITE: the host writes QTAIL; a write that would place more than 2^LOGSZ records sets OVF and is ignored (R187, R412). -/
def execQtailWrite (q : Nat) (v : Word) (s : State) : Host.Outcome State Fault Refusal :=
  let x := s.queue q
  let n := v.setWidth 32
  s.hosted
    (if 64 ≤ q ∨ !x.en ∨ !x.sized then s
      else if 2 ^ x.logsz < ringCount n x.head then s.modQueue q fun x => { x with ovf := true }
      else s.modQueue q fun x => { x with tail := n })

/-- The write of QCFG (R187): its reserved bits read as zero (R8); EN set over a bad size or base sets BADCFG, and EN going from 0 to
1 over a good one sets both counts to 0. -/
def Queue.configure (x : Queue) (v : Word) : Queue :=
  let y := { x with cfg := v &&& 0xFF }
  if !y.en then y
  else if !y.sized || y.base.toNat % 4096 != 0 then { y with badcfg := true }
  else if x.en then y
  else { y with tail := 0, head := 0 }

/-- QUEUE_ENABLE: the host writes QCFG with EN set (R187). -/
def execQueueEnable (q : Nat) (v : Word) (s : State) : Host.Outcome State Fault Refusal :=
  s.hosted (if q < 64 ∧ v.getLsbD 0 then s.modQueue q (·.configure v) else s)

/-- QUEUE_DISABLE: the host writes QCFG with EN clear; records not yet taken stay in the ring (R187). -/
def execQueueDisable (q : Nat) (v : Word) (s : State) : Host.Outcome State Fault Refusal :=
  s.hosted (if q < 64 ∧ !v.getLsbD 0 then s.modQueue q (·.configure v) else s)

/-- QSTAT_CLEAR: writing 1 to a bit of QSTAT clears it (R187, R188). -/
def execQstatClear (q : Nat) (v : Word) (s : State) : Host.Outcome State Fault Refusal :=
  s.hosted (if q < 64 then s.modQueue q fun x =>
      { x with nomap := x.nomap && !v.getLsbD 2, ovf := x.ovf && !v.getLsbD 1, badcfg := x.badcfg && !v.getLsbD 0 }
    else s)

/-! ## The launch record (R189) -/

/-- A launch record. -/
def readLaunch (b : List Byte) : LaunchRec :=
  let d := fun k => dbl b k
  { image := d 0, taskid := bits (d 8) 63 52, named := (d 8).testBit 51, preload := (d 8).testBit 50, keep := (d 8).testBit 49
    depcnt := bits (d 8) 47 32, next := bits (d 8) 31 20, nexten := (d 8).testBit 19, cls := bits (d 8) 5 4, fedge := (d 8).testBit 0
    budget := d 16, deadline := d 24, edge := BitVec.ofNat 64 (d 32), status := d 40, report := d 48, bwshare := bits (d 56) 63 48
    phint := (d 56).testBit 31, restart := (d 56).testBit 30, oy := bits (d 56) 29 24, ox := bits (d 56) 21 16
    ext := (List.range 8).map fun j => bits (d (64 + 8 * (j / 4))) (16 * (j % 4) + 15) (16 * (j % 4))
    hier := (List.range 8).map fun j => BitVec.ofNat 64 (d (128 + 8 * j)) }

/-- The reserved fields of a launch record are zero. -/
def launchReserved (b : List Byte) : Bool :=
  let d := fun k => dbl b k
  !(d 8).testBit 48 && bits (d 8) 18 6 == 0 && bits (d 8) 3 1 == 0 && bits (d 32) 62 12 == 0 && bits (d 56) 47 32 == 0
    && bits (d 56) 23 22 == 0 && bits (d 56) 15 0 == 0 && ((b.drop 80).take 48).all (· == 0) && ((b.drop 192).take 64).all (· == 0)
    && (List.range 8).all fun j => bits (d (128 + 8 * j)) 63 9 == 0

/-- A PRELOAD record that releases a reservation (R199). -/
def LaunchRec.releases (r : LaunchRec) : Bool := r.preload && r.image == 0

/-- Check 1 of R190, but for the fields that the image's KIND concerns; `minc` is the queue's MINCLASS. -/
def LaunchRec.sound (r : LaunchRec) (minc : Nat) : Bool :=
  r.image % 64 == 0 && decide (r.image < 2 ^ 57) && r.status % 64 == 0 && decide (r.status < 2 ^ 57) && r.report % 4096 == 0
    && decide (r.report < 2 ^ 57) && (r.named || r.depcnt == 0) && (!r.timed || (r.depcnt == 0 && r.budget != 0))
    && (r.timed || (r.budget == 0 && r.deadline == 0)) && (r.image != 0 || r.preload) && (!r.preload || (r.named && r.cls == 0))
    && (!r.keep || r.timed) && decide (minc ≤ r.cls)

/-- Fields that must be zero for an image of KIND 0 (R189). -/
def LaunchRec.soloSound (r : LaunchRec) : Bool := r.ext.all (· == 0) && r.hier.all (· == 0) && r.bwshare == 0

/-! ## Completion blocks (R193, R194) -/

/-- The 64 bytes of a completion block. -/
def blockBytes (status task detail first tend frec ninv : Nat) : List Byte :=
  natLe 8 (status * 2 ^ 48 + task * 2 ^ 36 + detail % 2 ^ 16) ++ natLe 8 first ++ natLe 8 tend ++ natLe 8 frec ++ natLe 8 ninv
    ++ List.replicate 24 0

/-- The completion block of a launch that has no region. -/
def State.bareBlock (s : State) (l : Nat) (a : Option Nat) (r : LaunchRec) (status detail frec : Nat) : State :=
  s.writeSpan (agentBy a) l 2 r.status (blockBytes status r.taskid detail 0 s.tick frec 0)

/-! ## The checks of the decoder (R190) -/

/-- What reads a copied record's image. -/
def Copied.reader (c : Copied) : Agent := agentBy c.agent

/-- The image at an address: its header, then its SIZE; none when a page does not translate (R190 check 4). -/
def State.imageAt (s : State) (a : Agent) (g va : Nat) : Option (List Byte) × State :=
  match s.readSpan a g 1 va 64 with
  | (none, s1) => (none, s1)
  | (some h, s1) => if headerOk h then s1.readSpan a g (imageSize h / 4096 + 2) va (imageSize h) else (some h, s1)

/-- The region of a reservation. -/
def State.reservation (s : State) (k : Nat) : Option Region := (s.launch? (s.task k).launch).bind fun l => s.region? l.region

/-- The share of a memory port that admitted class 0 launches hold (R197, R198). -/
def State.share (s : State) (p : Nat) : Nat :=
  ((s.launches.filter fun l => l.lrec.timed && l.handler.isNone && l.state != .ended
      && (match s.reservation l.lrec.taskid with | some g => (g.claimed 3).contains p | none => false)).map (·.lrec.bwshare)).foldl (· + ·) 0

/-- Check 2 of R190. -/
def State.idFree (s : State) (r : LaunchRec) : Bool :=
  let t := s.task r.taskid
  if r.timed then t.state == .reserved && t.image == r.image
  else if r.releases then t.state == .reserved
  else !r.named || t.state == .free

/-- Admission at decode tick a (R197). [DESIGN CHOICE: log 6] -/
def State.admits (s : State) (r : LaunchRec) (a : Nat) : Bool :=
  (s.task r.taskid).loaded && decide (a + 4680 + r.budget + 3600 ≤ r.deadline)
    && (match s.reservation r.taskid with
      | some g => (g.claimed 3).all fun p => decide (s.share p + r.bwshare ≤ 48)
      | none => false)

/-- The fault edge of a launch (R363). -/
def edgeOf (r : LaunchRec) (h : Header) : Word :=
  if r.fedge then r.edge else BitVec.ofNat 64 ((if h.hmc then 2 ^ 63 else 0) + h.htask)

/-- The handler task that an edge leads to; none for the management core (R363). -/
def edgeTask (e : Word) : Option Nat :=
  if e.toNat.testBit 63 ∨ bits e.toNat 11 0 = 0 then none else some (bits e.toNat 11 0)

/-- Check 8 of R190. -/
def State.edgeOk (s : State) (e : Word) (rank : Nat) : Bool :=
  match edgeTask e with
  | none => true
  | some k => (s.task k).state == .reserved && decide (rank < (s.task k).rank)

/-- The header a launch runs under (R35, R172). -/
def Image.header (m : Image) : Header := if m.solo then {} else m.hdr

/-- A refused record (R190): its block is written, and nothing else changes. -/
def State.refuse (s : State) (c : Copied) (r : LaunchRec) (num : Nat) : State := s.bareBlock s.ids c.agent r 7 num 0

/-- A record that passed every check (R190, R192, R197). -/
def State.accept (s : State) (c : Copied) (r : LaunchRec) (m : Image) : State :=
  let l := s.ids
  let base : Launch := { id := l, lrec := r, img := m, agent := c.agent, state := .ready s.tick, region := 0, handler := none, save := none
                         placed := 0, followOf := none, misplaced := false }
  let add := fun (s : State) (x : Launch) => { s.newId with launches := s.launches ++ [x] }
  if r.timed then ((add s base).takeIn r.status).modTask r.taskid fun t => { t with loaded := false }
  else if r.releases then add s { base with state := .waiting }
  else if r.named then
    let n := (s.task r.taskid).counter + r.depcnt
    let x := if n = 0 then base else { base with state := .waiting }
    (add s x).modTask r.taskid fun t => { t with counter := n, launch := l, state := if n = 0 then .ready else .waiting }
  else add s base

/-- The KIND of the image a record names is 0, as far as it can be read. -/
def State.namesSolo (s : State) (c : Copied) (r : LaunchRec) : Bool :=
  match (s.readSpan c.reader c.region 1 r.image 64).1 with
  | some h => imageKind h == 0
  | none => false

/-- The checks of a copied record in the order of R190. [DESIGN CHOICE: log 86] -/
def State.decodeRecord (s : State) (c : Copied) : State :=
  let r := readLaunch c.bytes
  if !launchReserved c.bytes || !r.sound c.minc then s.refuse c r 0x100
  else if r.image != 0 && !r.soloSound && s.namesSolo c r then s.refuse c r 0x100
  else if !s.idFree r then s.refuse c r 0x101
  else if r.releases then s.accept c r {}
  else if r.named && !r.timed && decide ((s.task r.taskid).counter + r.depcnt < 0) then s.refuse c r 0x102
  else match s.imageAt c.reader c.region r.image with
    | (none, s1) => s1.refuse c r 0x107
    | (some b, s1) =>
      let report := imageRefusal b r.image
      let bad := (report.map (·.check)).toList ++ (if (r.hier.getD 0 0).toNat.testBit 8 && !hierOk r.hier then [0x23B] else [])
      match bad.min? with
      | some n => { s1 with mgmt := { s1.mgmt with refusals := s1.mgmt.refusals ++ (report.map fun x => (r.image, x)).toList } }.refuse c r n
      | none =>
        let m := readImage b r.image
        if r.timed && !s1.admits r c.since then s1.refuse c r 0x103
        else if (match c.issuer with | some k => decide (r.cls < k) | none => false) then s1.refuse c r 0x104
        else if !s1.edgeOk (edgeOf r m.header) m.header.rank then s1.refuse c r 0x105
        else s1.accept c r m

/-! ## The sources of the decoder (R188, R191, R221) -/

/-- Where a record at an address stands for an agent, without the access being made. -/
def State.peek (s : State) (a : Agent) (va : Nat) : Option Nat :=
  match s.lookup va false with
  | .leaf t => (match judge a va false t with | .pa p => some p | .fail _ => none)
  | .fail _ => none

/-- The fires of LAUNCH whose records stand on the internal path, oldest first: at most 16 (R221). -/
def State.onPath (s : State) : List Access :=
  s.accesses.filter fun a => a.kind == .launchRec && (match a.stage with | .queued _ => true | _ => false)

/-- The records that the sources hold out, with their class: the queues served whose record can be read, and the internal path. [DEDUCED: log 51] -/
def State.sources (s : State) : List (Nat × Nat) :=
  let qs := (List.range 64).filterMap fun q =>
    let x := s.queue q
    if x.served && x.pending then (s.peek .mgmt x.record).map fun p => (q, bits (s.foundDouble (p + 8)) 5 4) else none
  let path := match s.onPath with
    | a :: _ => (match a.stage with | .queued p => [(64, bits (s.foundDouble (p + 8)) 5 4)] | _ => [])
    | [] => []
  qs ++ path

/-- The source that the decoder takes next: lowest class, then rotation after the source served last (R191). [DEDUCED: log 51] -/
def State.nextSource (s : State) : Option Nat :=
  let key := fun (x : Nat × Nat) => x.2 * 65 + (x.1 + 64 - s.decoder.last) % 65
  (s.sources.foldl (fun (b : Option (Nat × Nat)) x =>
    match b with
    | none => some x
    | some y => if key x < key y then some x else b) none).map (·.1)

/-- NOMAP is set in each served queue whose record cannot be read (R188). -/
def State.markNomap (s : State) : State :=
  (List.range 64).foldl (fun s q =>
    let x := s.queue q
    if x.served && x.pending && (s.peek .mgmt x.record).isNone then s.modQueue q fun x => { x with nomap := true } else s) s

/-- The decoder copies the record of a source: QHEAD advances, or the fire of LAUNCH gets the tick of the copy (R188, R221). What it reads of a poisoned
block is open (R369). [DESIGN CHOICE: log 96] -/
def State.copyRecord (s : State) (src : Nat) : State :=
  if src < 64 then
    let x := s.queue src
    match s.readAs .mgmt 0 x.record 256 with
    | (some b, s1) =>
      let c : Copied := { src := src, bytes := b, minc := bits x.cfg.toNat 7 6, since := s.tick }
      { (s1.modQueue src fun x => { x with head := x.head + 1 }) with decoder := { last := src, copy := some c } }
    | (none, s1) => s1
  else
    match s.onPath with
    | a :: _ =>
      let pa := match a.stage with | .queued p => p | _ => 0
      let g := s.region? a.region
      let c : Copied := { src := 64, bytes := s.found pa (memRead s.mem pa 256), agent := some ((g.map (·.hdr.gid)).getD 0), region := a.region
                          issuer := g.map (·.cls), since := s.tick }
      let v := some (scalarVal a.wide 6 (s.tick % 2 ^ 64))
      { (((if s.poisoned pa 256 then s.useFree else s).resolve a.fire v v false s.tick).dropAccess a.id) with decoder := { last := 64, copy := some c } }
    | [] => s

/-- LAUNCH_DECODE: the decoder copies the next record, and 144 ticks later checks it (R190, R191, R201). [DEDUCED: log 51] -/
def execLaunchDecode (s : State) : Host.Outcome State Fault Refusal :=
  if s.dbg.stopped then .next s
  else match s.decoder.copy with
  | some c =>
    guarded (decide (c.since + 144 ≤ s.tick)) s
      ({ s with decoder := { s.decoder with copy := none } }.decodeRecord c)
  | none =>
    let s1 := s.markNomap
    match s1.nextSource with
    | some src => .next (s1.copyRecord src)
    | none => .next s1

/-! ## Where a region fits (R171, R176, R201, R375, R381) -/

/-- A claimed unit is enabled in its die's repair map (R370). [DESIGN CHOICE: log 64] -/
def State.unitEnabled (s : State) (kind u : Nat) : Bool :=
  let per := if kind = 2 then 8 else if kind = 4 then 1 else 16
  let r := s.faults.repair.getD (u / per) {}
  if kind = 1 then r.mx.testBit (u % 16) else if kind = 2 then r.ce.testBit (u % 8) else if kind = 4 then r.coll else true

/-- The repair byte of a tile (R370). -/
def State.repairByte (s : State) (t : Nat) : Nat := tget (s.faults.repair.getD (tileDie t) {}).tiles (tileY t % 32 * 32 + tileX t % 32) 0xFF

/-- A part of a tile is fenced (R370). [DESIGN CHOICE: log 64] -/
def State.tileFenced (s : State) (t : Nat) : Bool := s.repairByte t != 0xFF

/-- A tile is power-gated (R381). [DESIGN CHOICE: log 64] -/
def State.tileOff (s : State) (t : Nat) : Bool := (s.tile t).powerOff

/-- The tiles beyond its edge that an image's swage exits lead to, by explicit routes and by AUTO (R168); none where one lies off the package (R169,
R381). -/
def Image.exits (m : Image) (ox oy : Nat) : Option (List Nat) :=
  let out := fun (x y d : Nat) => neighbour (tileKey (ox + x) (oy + y)) d
  let routed := m.routes.flatMap fun r => (List.range 4).filterMap fun d =>
    if m.leaves r.x r.y d && r.steps.any (fun st => st.any fun b => b.testBit d) then some (out r.x r.y d) else none
  let auto := (m.wires.filter fun w => w.auto && w.swg).flatMap fun w => (m.path w).flatMap fun q => (List.range 4).filterMap fun d =>
    if q.2.2.2.testBit d && m.leaves q.1 q.2.1 d then some (out q.1 q.2.1 d) else none
  (routed ++ auto).foldl (fun acc x => match acc, x with | some l, some (t, _) => some (t :: l) | _, _ => none) (some [])

/-- Save blocks of a header (R375). -/
def Header.blocks (h : Header) : Nat :=
  Config.saveBlocksTile * (h.w * h.h)
    + ((h.claims.map fun c => if c.kind = 1 then Config.saveBlocksNode else Config.saveBlocksUnit)).foldl (· + ·) 0

/-- Save blocks taken by others than region `mine`: by placed regions and by the saves of launches that hold no region (R375, R376). -/
def State.blocksUsed (s : State) (mine : Nat) : Nat :=
  (((s.regions.filter (·.id != mine)).map fun g => g.hdr.blocks) ++
    (s.faults.saves.filter fun v => v.region.id != mine && !s.regions.any (·.launch == v.launch)).map fun v => v.region.hdr.blocks).foldl (· + ·) 0

/-- Room in the pool for n more save blocks; a pool that is not enabled sets no limit (R375). -/
def State.poolRoom (s : State) (n mine : Nat) : Bool :=
  let c := s.faults.svcfg.toNat
  !c.testBit 0 || decide (s.blocksUsed mine + n ≤ 2 ^ bits c 5 1)

/-- How an origin serves a launch (R201): it does, or something there is held, power-gated or fenced, or it can never. -/
inductive Fit where
  | ok | held | gated | fenced | dead
deriving DecidableEq, Repr

/-- The fit of an image at an origin; `mine` is a region whose tiles and units count as free. -/
def State.fit (s : State) (m : Image) (ox oy mine : Nat) : Fit :=
  let h := m.header
  let g : Region := { ox := ox, oy := oy, hdr := h }
  let claims := h.claims.map fun c => (c.kind, unitAt c.kind (tileKey (ox + c.x) (oy + c.y)))
  match m.exits ox oy with
  | none => .dead
  | some exits =>
    if 64 < ox + h.w ∨ 64 < oy + h.h ∨ claims.any (fun c => c.2.isNone) then .dead
    else if g.tiles.any s.tileFenced || exits.any s.tileFenced || claims.any (fun c => !s.unitEnabled c.1 (c.2.getD 0)) then .fenced
    else if g.tiles.any s.tileOff || exits.any s.tileOff then .gated
    else
      let others := s.regions.filter (·.id != mine)
      if others.any (fun o => g.tiles.any o.holds || claims.any fun c => (o.claimed c.1).contains (c.2.getD 0)) then .held
      else if !s.poolRoom h.blocks mine then .held
      else .ok

/-- What becomes of a READY launch (R201). -/
inductive Placing where
  | place (ox oy : Nat)
  | wait
  | dead
deriving DecidableEq, Repr

/-- The origins of the package in row-major order. -/
def origins : List (Nat × Nat) := (List.range 64).flatMap fun y => (List.range 64).map fun x => (x, y)

/-- Where a launch is placed (R201). -/
def State.placing (s : State) (r : LaunchRec) (m : Image) : Placing :=
  if r.phint then
    match s.fit m r.ox r.oy 0 with
    | .ok => .place r.ox r.oy
    | .held => .wait
    | _ => .dead
  else
    match origins.find? fun p => s.fit m p.1 p.2 0 == .ok with
    | some p => .place p.1 p.2
    | none => if origins.any fun p => s.fit m p.1 p.2 0 != .dead then .wait else .dead

/-! ## Loading (R178, R201) -/

/-- Cycles of a cold load: 0.9 µs for each 64 tiles of the region on a die, the dies in parallel (R201). [DEDUCED: log 52] -/
def Region.coldCycles (g : Region) : Nat :=
  ((List.range 4).map fun d => 3240 * (((g.tiles.filter fun t => tileDie t == d).length + 63) / 64)).foldl max 0

/-- The ejection bindings of a tile on a plane (R168, R294). -/
def Image.ejects (m : Image) (x y : Nat) (wide : Bool) : List (Nat × Nat × Nat) :=
  (m.wires.filter fun w => w.rtag != 63 && !w.swg && w.wide == wide && w.dst.x == x && w.dst.y == y).map fun w =>
    (w.rtag, if w.dst.unit then 6 else w.dst.elem, w.dst.port)

/-- The route program of a router port: the record's, with the AUTO routes in step 0 (R164, R168). -/
def Image.program (m : Image) (x y : Nat) (wide : Bool) (p : Nat) : List (List Nat) :=
  let steps := match m.routes.find? fun r => r.x == x && r.y == y && r.wide == wide && r.port == p with
    | some r => r.steps
    | none => []
  let auto := (List.range 63).map fun g => m.autoSet x y wide p g
  if auto.all (· == 0) then steps
  else
    let s0 := (List.range 64).map fun g => (steps.getD 0 []).getD g 0 ||| auto.getD g 0
    s0 :: steps.drop 1

/-- The plane an element's shadow takes: slots, literals and the spill map's places (R178, R247, R248). -/
def Image.planeFor (m : Image) (t x y e : Nat) : Option Plane :=
  (m.spill.find? fun q => q.1.x == x && q.1.y == y && q.1.elem == e).map fun q =>
    { q.1.plane with spmaps := (List.range 4).map fun k => spmapWord q.2 (((unitAt 1 t).getD 0) % 16) k }

/-- An image enters the shadow planes of the tiles of a region (R178). -/
def State.install (s : State) (g : Region) (m : Image) : State :=
  g.tiles.foldl (fun s t =>
    let x := tileX t - g.ox
    let y := tileY t - g.oy
    let s1 := (List.range 6).foldl (fun s e => s.modElem (elemKey t e) fun z => { z with shadow := m.planeFor t x y e }) s
    let load := fun (wide : Bool) (r : Router) =>
      { r with ports := r.ports.mapIdx (fun p q => { q with shadow := m.program x y wide p }), shadowEject := m.ejects x y wide }
    s1.modTile t fun z => { z with shadowOf := some g.id, loaded := false, narrow := load false z.narrow, wide := load true z.wide }) s

/-- The region of a launch at an origin (R172, R175, R189). -/
def newRegion (id : Nat) (l : Launch) (ox oy cls : Nat) : Region :=
  let r := l.lrec
  let h := l.img.header
  { id := id, launch := l.id, solo := l.img.solo, wide := l.img.solo && l.img.elems.any fun e => decide (4 ≤ e.elem), ox := ox, oy := oy
    hdr := h, hier := hierLevels (if (r.hier.getD 0 0).toNat.testBit 8 then r.hier else h.hier), ext := r.ext, cls := cls
    taskid := r.taskid, named := r.named, edge := edgeOf r h, binds := l.img.binds, wires := l.img.wires }

/-- The planes of a region's tiles stand loaded, and the tiles may swap from tick u (R181, R201). -/
def State.planesLoaded (s : State) (g : Region) (u : Nat) : State :=
  g.tiles.foldl (fun s t => s.modTile t fun x => if x.shadowOf == some g.id then { x with loaded := true, swapAt := u } else x) s

/-! ## Follow-ons (R223) -/

/-- The running launch that a record follows on: same origin and size, claims among its claims, without a follow-on yet, and no follow-on itself of a
launch that still holds the place: a region takes one at a time. [DEDUCED: log 52; DESIGN CHOICE: log 86] -/
def State.leader (s : State) (r : LaunchRec) (m : Image) : Option Region :=
  if !r.phint || m.solo then none
  else s.regions.find? fun g =>
    !g.solo && g.follow.isNone && !(match g.predecessor with | some p => s.regions.any (·.id == p) | none => false) && g.ending.isNone && g.freeze.isNone && g.ox == r.ox && g.oy == r.oy && g.hdr.w == m.hdr.w && g.hdr.h == m.hdr.h
      && m.hdr.claims.all g.hdr.claims.contains
      && (match s.launch? g.launch with
        | some l => l.handler.isNone && !l.lrec.timed && !l.lrec.preload && (match l.state with | .loading t => t != 0 | .running => true | _ => false)
        | none => false)

/-- What becomes of a launch that may follow on the region g: its place must serve it as any other would, but for the launch that holds it (R201,
R223, R375, R381). -/
def State.following (s : State) (r : LaunchRec) (m : Image) (g : Region) : Placing :=
  match s.fit m g.ox g.oy g.id with
  | .ok => if s.poolRoom m.header.blocks 0 then .place r.ox r.oy else .wait
  | .held => .wait
  | _ => .dead

/-! ## Placement (R199, R201, R223) -/

/-- The load of a launch that has been abandoned waits: the configuration network of a die of its place carries the load of a launch of a lower class
number (R195). [DEDUCED: log 41] -/
def State.netHeld (s : State) (l : Launch) (g : Region) : Bool :=
  l.abandoned && s.launches.any fun o => match o.state, s.region? o.region with
    | .loading t, some r => decide (s.tick < t) && decide (r.cls < g.cls) && r.tiles.any fun x => g.tiles.any fun y => tileDie x == tileDie y
    | _, _ => false

/-- A launch takes its place: the task runs (R192). [DEDUCED: log 52] -/
def State.takePlace (s : State) (l : Launch) (g : Region) (st : LaunchState) : State :=
  let s1 := s.modLaunch l.id fun x => { x with state := st, region := g.id, placed := s.ids, abandoned := false }
  if l.lrec.named && !l.lrec.timed && l.handler.isNone then s1.modTask l.lrec.taskid fun t => { t with state := .running } else s1

/-- A warm launch on a reservation: a timed launch or a handler (R199, R364). [DEDUCED: log 52] -/
def State.placeWarm (s : State) (l : Launch) (g : Region) : State :=
  let one := l.handler.isSome
  let g1 := { newRegion g.id l g.ox g.oy (if one then 1 else 0) with live := true, ext := if one then [] else l.lrec.ext }
  let s1 := { s with regions := s.regions.map fun (x : Region) => if x.id == g.id then g1 else x }
  ((s1.takePlace l g1 .running).modTask l.lrec.taskid fun t => { t with loaded := false }).planesLoaded g1 (s.tick + 648)

/-- A launch is placed at an origin, and its image loaded (R201). [DEDUCED: log 52] -/
def State.placeCold (s : State) (l : Launch) (ox oy : Nat) : State :=
  let g := newRegion s.ids l ox oy (if l.lrec.preload then 1 else l.lrec.cls)
  let s1 := { s.newId with regions := s.regions ++ [g] }
  (s1.install g l.img).takePlace l g (.loading (s.tick + 360 + g.coldCycles))

/-- A launch that no origin can serve (R201): refused, and its id returns to FREE with a counter of 0. -/
def State.routeDead (s : State) (l : Launch) : State :=
  let s1 := s.bareBlock l.id l.agent l.lrec 7 0x106 0
  let s2 := { s1 with launches := s1.launches.filter (·.id != l.id) }
  if l.lrec.named then s2.modTask l.lrec.taskid fun t => { t with state := .free, counter := 0 } else s2

/-- A launch is READY now and asks for a first placement. -/
def State.readyNow (s : State) (l : Launch) : Bool := (match l.state with | .ready t => decide (t ≤ s.tick) | _ => false) && l.save.isNone && l.again.isNone

/-- A launch is placed behind the launch of region g, whose place it takes over tile by tile (R223). -/
def State.placeFollow (s : State) (l : Launch) (g : Region) : State :=
  let f := { newRegion s.ids l g.ox g.oy (if l.lrec.preload then 1 else l.lrec.cls) with predecessor := some g.id }
  let s0 : State := { s.newId with regions := s.regions ++ [f] }
  let s1 := s0.modRegion g.id fun x => { x with follow := some f.id }
  (s1.takePlace l f (.loading 0)).modLaunch l.id fun x => { x with followOf := some g.launch, abandoned := l.abandoned }

/-- LAUNCH_PLACE: a READY launch is placed, follows on, swaps its reservation, is refused, or waits (R199, R201, R223). -/
def execLaunchPlace (li : Nat) (s : State) : Host.Outcome State Fault Refusal :=
  match s.launch? li with
  | none => .next s
  | some l =>
    if !s.readyNow l || s.dbg.stopped then .next s
    else if l.lrec.timed || l.handler.isSome then
      match s.reservation l.lrec.taskid with
      | some g =>
        let free := (s.task l.lrec.taskid).loaded || l.handler.isNone
        guarded (free && (s.task l.lrec.taskid).state == .reserved && !g.live) s (s.placeWarm l g)
      | none => .next s
    else
      let lead := s.leader l.lrec l.img
      match (match lead with | some g => s.following l.lrec l.img g | none => s.placing l.lrec l.img) with
      | .place ox oy => match lead with
        | some g => guarded (!s.netHeld l (newRegion s.ids l ox oy l.lrec.cls)) s (s.placeFollow l g)
        | none => guarded (!s.netHeld l (newRegion s.ids l ox oy l.lrec.cls)) s (s.placeCold l ox oy)
      | .wait => .next s
      | .dead => .next (s.routeDead l)

/-- The running launch has swapped every tile, and no token of the plane bit that the shadows will take remains (R178, R223). -/
def State.shadowsFree (s : State) (f : Region) : Bool :=
  f.tiles.all fun t =>
    let x := s.tile t
    x.shadowOf.isNone && (x.region.isNone || x.region == f.predecessor)
      && (x.narrow.ports ++ x.wide.ports).all fun p => p.buf.all fun k => k.plane == x.plane

/-- FOLLOW_ON_LOAD: the cold load of a follow-on begins (R223). [DEDUCED: log 52] -/
def execFollowOnLoad (li : Nat) (s : State) : Host.Outcome State Fault Refusal :=
  match s.launch? li with
  | none => .next s
  | some l =>
    match s.region? l.region with
    | none => .next s
    | some f =>
      guarded (l.followOf.isSome && l.state == .loading 0 && s.shadowsFree f && !s.netHeld l f && f.ending.isNone && !s.dbg.stopped) s
        ((s.install f l.img).modLaunch li fun x => { x with state := .loading (s.tick + f.coldCycles), abandoned := false })

/-- A region is no follow-on of another any more: that one may take another (R223). [DEDUCED: log 52] -/
def State.unfollow (s : State) (g : Nat) : State :=
  { s with regions := s.regions.map fun (x : Region) =>
      if x.follow == some g then { x with follow := none } else if x.id == g then { x with predecessor := none } else x }

/-- A PRELOAD launch has loaded: its block is written with LOADED, its id is RESERVED, and NEXT falls (R199). [DEDUCED: log 43] -/
def State.reserve (s : State) (l : Launch) : State :=
  let e := edgeOf l.lrec l.img.header
  let s1 := s.bareBlock l.id l.agent l.lrec 10 0 0
  let s2 := (s1.modTask l.lrec.taskid fun t =>
      { t with state := .reserved, counter := 0, image := l.lrec.image, launch := l.id, loaded := true, edge := e, rank := l.img.header.rank }).modLaunch
    l.id fun x => { x with state := .ended }
  if l.lrec.nexten then s2.decrement l.lrec.next 1 else s2

/-- COLD_LOAD_END: a load ends; a launch goes on to its swap, a reservation is ready (R199, R201, R223). The load of a
restore ends in RESTORE. [DEDUCED: log 52] -/
def execColdLoadEnd (li : Nat) (s : State) : Host.Outcome State Fault Refusal :=
  match s.launch? li with
  | none => .next s
  | some l =>
    match l.state, s.region? l.region with
    | .loading till, some g =>
      if till = 0 ∨ s.tick < till ∨ s.dbg.stopped ∨ l.save.isSome then .next s
      else if l.lrec.preload then
        let s1 := s.planesLoaded g s.tick
        if (s.task l.lrec.taskid).state = .reserved then
          .next ((s1.modTask l.lrec.taskid fun t => { t with loaded := true }).modLaunch li fun x => { x with state := .ended })
        else .next (((s1.unfollow g.id).reserve l).modLaunch li fun x => { x with followOf := none })
      else
        let u := if l.followOf.isSome then s.tick else s.tick + 288
        .next (((s.planesLoaded g u).modRegion g.id fun r => { r with live := true }).modLaunch li fun x => { x with state := .running })
    | _, _ => .next s

end Sys2Proof.Machine
end

