-- ==== Sys2Proof/Machine/Owner.lean ====
section
/-! DEFINITION. The steps of the translation owners and their registers: an address token at its owner, withheld tokens, XRESOLVE,
XINV, page migration, XACK (spec/12_memory.md R234 to R246; spec/21_faults.md R380; spec/22_prog_translation_fault.md R383). -/

namespace Sys2Proof.Machine

/-! ## An address token at its owner -/

/-- The agent of an access (R240). -/
def State.agentFor (s : State) (a : Access) : Agent := if a.core.isSome then .core else s.agentOf a.region

/-- An access belongs to a binding of a solo launch (R35). -/
def Access.bindChan (a : Access) : Option (Bool × Nat) :=
  match a.kind with
  | .feed c => some (false, c)
  | .sink c => some (true, c)
  | _ => none

/-- A binding goes on after its access has been translated: it makes the access anew. -/
def State.bindFree (s : State) (a : Access) : State :=
  match a.bindChan, s.region? a.region with
  | some (sink, c), some g =>
    (match g.bindOf sink c with
      | some i => s.modBind g.id i fun b => { b with waiting := false }
      | none => s).dropAccess a.id
  | _, _ => s.dropAccess a.id

/-- The state with an access moved behind the others. -/
def State.toEnd (s : State) (a : Access) : State := { s with accesses := s.accesses.filter (·.id != a.id) ++ [a] }

/-- The cycles that a slice adds to a hit (R235). -/
def hitCycles : Nat := 6

/-- A translated access goes on, `wait` cycles and an open time later: to its weir, its node or the host window, or it is held back by a
migration, with the number of its arrival (R234, R235, R244, R388). A launch record joins the internal path at its end, or waits for room (R221). -/
def State.proceed (s : State) (a : Access) (pa wait : Nat) : State :=
  if a.bindChan.isSome then s.bindFree a
  else
    let go := fun (st : Stage) => (s.modAccess a.id fun x => { x with stage := st, due := s.later + 1 + wait, left := s.tick + wait }).useFree
    match a.kind with
    | .pref | .unit _ => s.dropAccess a.id
    | .launchRec =>
      if s.onPath.length < 16 then (s.toEnd { a with stage := .queued pa, due := s.later + 1 + wait }).useFree
      else s.modAccess a.id fun x => { x with stage := .toOwner, due := s.tick }
    | _ =>
      if a.wr && s.migrates a.va then s.newId.modAccess a.id fun x => { x with stage := .migrating pa, due := s.ids }
      else if a.link.isSome then go (.toWeir pa)
      else if isHostWin pa then go (.hostWindow pa)
      else go (.toNode pa)

/-- The core address of a device virtual address (R390). -/
def coreAddr (va : Nat) : Nat := 2 ^ 55 + va % 2 ^ 55

/-- An access fault of a core: the access ends with it, and with it every later one of the core, which has performed nothing yet, for a core is
precise (R390). [DEDUCED: log 26] -/
def State.coreFaultAt (s : State) (a : Access) (c : Nat) : State :=
  { s with accesses := s.accesses.filter fun b => !(b.core == some c && decide (a.id ≤ b.id))
           coreDone := s.coreDone ++ [⟨c, 0, true, coreAddr a.va, a.coreOp⟩] }

/-- A failed translation (R241, R258, R390): a prefetch is dropped, anything else is withheld; a resolvable failure posts a fault-queue entry. A hold
of zero ends at once, that of a core's access once no earlier one may still fault. [DEDUCED: log 16, 26] -/
def State.failed (s : State) (a : Access) (cd since : Nat) : State :=
  match a.kind, a.core with
  | .pref, _ => s.dropAccess a.id
  | _, some _ =>
    let s1 := s.modAccess a.id fun x => { x with stage := .withheld cd since }
    if resolvable cd then s1.postFq 0 a.va cd a.wr else s1
  | _, none =>
    let s1 := s.modAccess a.id fun x => { x with stage := .withheld cd since }
    let s2 := if s1.traced a.region && since == s.tick then s1.perf 3 1 else s1
    if resolvable cd then s2.postFq a.region a.va cd a.wr else s2

/-- An access is withheld because a page of a spill ring, named by its physical address, is not there (R306). [DEDUCED: log 58] -/
def Access.spills (a : Access) : Bool := match a.stage with | .withheld cd _ => cd == cSpillFault | _ => false

/-- The page of the spill ring that the engine of a withheld token now needs is not there (R306). -/
def State.spillLacks (s : State) (a : Access) : Bool :=
  match a.kind with
  | .unit u => let x := s.engine (u % 256); x.sp.en && physReserved (x.sp.entry x.sp.tail 64 / 4096 * 4096)
  | _ => false

/-- An access that does not go on from its owner as it stands: a binding or a unit makes it anew, and so does a LAUNCH that finds no room. It is that access
which counts and sets A and D (R246). [DEDUCED: log 49] -/
def State.madeAnew (s : State) (a : Access) : Bool :=
  a.bindChan.isSome || (match a.kind with | .pref | .unit _ => true | .launchRec => decide (16 ≤ s.onPath.length) | _ => false)

/-- The owner translates an access; `again` walks anew (R235, R241). A token withheld for a spill ring looks at the ring as it is set now, and its
fire goes on where the page is there (R306). -/
def State.translateAccess (s : State) (a : Access) (again : Bool) (since : Nat) : State :=
  let wait := if (s.cached a.va).isSome && !again then hitCycles else 0
  if a.spills then (if s.spillLacks a then s.failed a cSpillFault since else s.dropAccess a.id)
  else match s.translate (s.agentFor a) a.va a.wr again (s.madeAnew a) with
  | (.pa p, s1) => s1.proceed a p wait
  | (.fail cd, s1) => s1.failed a cd since

/-- A LAUNCH may pass its record on: the issuer's earlier accesses have arrived, and the internal path has room (R221). -/
def State.launchTurn (s : State) (a : Access) : Bool :=
  a.kind != .launchRec || (s.releasable a.elem a.ctx a.fire && decide (s.onPath.length < 16))

/-- ADDRESS_TRANSLATE: an address token reaches its owner and is translated and admitted, or withheld (R234 to R241). A LAUNCH is a
release of its issuer's writes (R221). -/
def execAddressTranslate (ai : Nat) (s : State) : Host.Outcome State Fault Refusal :=
  match s.access? ai with
  | none => .next s
  | some a =>
    let s1 := if a.kind = .launchRec then s.release a.region a.elem a.ctx a.inv a.fire 6 else s
    guarded (a.stage == .toOwner && decide (a.due ≤ s.tick) && s.launchTurn a && !s.dbg.stopped) s (s1.translateAccess a a.anew s.tick)

/-! ## Withheld tokens (R241, R380, R383) -/

/-- An access carries data that its fault record keeps (R383): a store, an atomic, the token of a sink, the status word of a binding, or a store of a
sequence command, which is the issuing context's (R345). -/
def Access.keepsData (a : Access) : Option LinkWord :=
  match a.kind with
  | .store | .atomic _ _ | .sink _ => some a.data
  | .feed _ | .unit _ => if a.wr then some a.data else none
  | _ => none

/-- The fault of a withheld token (R380, R383). -/
def State.tokenFault (s : State) (a : Access) (cd : Nat) : State :=
  let o := s.owner a.va
  let t := elemTile a.elem
  (s.modAccess a.id fun x => { x with stage := .expired cd }).takeFault a.region
    { id := 0, code := cd, pend := true, unit := 6, x := tileX t, y := tileY t, elem := elemIdx a.elem, ctx := a.ctx, slot := a.slot
      uidx := o.1 * 256 + o.2, addr := a.va, hdesc := BitVec.ofNat 64 (a.reqTag * 2 ^ 32 + a.opw.toNat), data := a.keepsData
      link := a.link, access := some a.id, resolved := a.asked }

/-- Two addresses lie in one page, as the tables stand; where they give neither a page, in one granule (R234, R241, R384). [DEDUCED: log 83] -/
def State.samePage (s : State) (va vb : Nat) : Bool :=
  match s.walk va, s.walk vb with
  | .leaf t, _ => t.covers vb
  | .fail _, .leaf _ => false
  | .fail _, .fail _ => s.pageOf va == s.pageOf vb

/-- A withheld access at the page of an address. -/
def State.waitsFor (s : State) (a : Access) (va : Nat) : Bool :=
  (match a.stage with | .withheld cd _ => resolvable cd | _ => false) && s.samePage va a.va

/-- XRESOLVE: the owner walks again for each token withheld at the page; every withheld token there, and a record with PEND set, notes it (R241, R384). -/
def execXresolve (v : Word) (s : State) : Host.Outcome State Fault Refusal :=
  let va := v.toNat
  let s1 := { s with xl := { s.xl with xresolve := v } }
  let note := fun (a : Access) => match a.stage with | .withheld _ _ => if s1.samePage va a.va then { a with asked := true } else a | _ => a
  let s2 := (s1.accesses.filter fun a => s1.waitsFor a va).foldl (fun s a =>
    let since := match a.stage with | .withheld _ t => t | _ => s.tick
    s.translateAccess a true since) { s1 with accesses := s1.accesses.map note }
  let noted := s2.faults.records.map fun r => if r.pend && s.samePage va r.addr then { r with resolved := true } else r
  s.hosted { s2 with faults := { s2.faults with records := noted } }

/-! ## XINV (R239) -/

/-- A translated access is still in the slice of its owner: it is a hit in its 6 cycles there, or a write that a migration withholds (R235, R239, R244). -/
def State.inSlice (s : State) (a : Access) : Bool :=
  match a.stage with
  | .migrating _ => true
  | .toWeir _ | .toNode _ | .hostWindow _ => decide (s.tick < a.left)
  | _ => false

/-- XINV: the owner drops its translation of the page, and DONE clears; it notes the accesses translated under the old entry that have yet to leave
it (R239, R243). -/
def execXinv (v : Word) (s : State) : Host.Outcome State Fault Refusal :=
  let va := bits v.toNat 56 12 * 4096
  let o := s.owner va
  let old := s.xl.cache.filter fun t => t.covers va && t.own == o
  let under := fun (a : Access) => if old.isEmpty then s.pageOf a.va == s.pageOf va else old.any (·.covers a.va)
  let wait := (s.accesses.filter fun a => s.inSlice a && under a).map (·.id)
  s.hosted { s with xl := { s.xl with xinv := BitVec.ofNat 64 va, xinvDone := false, xinvBusy := true, xinvWait := s.xl.xinvWait ++ wait,
                                       cache := s.xl.cache.filter fun t => !old.contains t } }

/-- XINV_DONE: every access translated under the old entry has left its slice, and DONE is set (R239). -/
def execXinvDone (s : State) : Host.Outcome State Fault Refusal :=
  guarded (s.xl.xinvBusy && s.xl.xinvWait.all fun i => match s.access? i with | some a => !s.inSlice a | none => true) s
    { s with xl := { s.xl with xinvDone := true, xinvBusy := false, xinvWait := [] } }

/-! ## Page migration (R244) -/

/-- MIGRATION_START: a write of XMIGPA starts a migration of the page at XMIGVA, or sets ERR while one runs (R244). [DEDUCED: log 49] -/
def execMigrationStart (v : Word) (s : State) : Host.Outcome State Fault Refusal :=
  s.hosted
    (if s.xl.mig.isSome then { s with xl := { s.xl with migErr := true } }
      else { s with xl := { s.xl with xmigpa := v, mig := some { va := s.xl.xmigva.toNat % 2 ^ 57, newFrame := v.toNat, published := false
                                                                 old := 0, size := 0 } } })

/-- A physical range is reached by an access that has not yet been performed. -/
def Access.inRange (a : Access) (base size : Nat) : Bool :=
  match a.stage with
  | .toWeir p | .atWeir p | .toNode p | .hostWindow p | .queued p | .tested p => decide (base ≤ p) && decide (p < base + size)
  | _ => false

/-- An access that waits at its home (R261, R264, R266): it goes with its page when the page migrates. [DEDUCED: log 49] -/
def Access.waitsAt (a : Access) : Bool := match a.stage with | .queued _ | .tested _ => true | _ => false

/-- An address after the page at `old` has moved to `new`. -/
def movedTo (old size new p : Nat) : Nat := if old ≤ p ∧ p < old + size then p - old + new else p

/-- The requests that wait at the home of a word stand at its new home. [DEDUCED: log 49] -/
def State.moveWaits (s : State) (old size new : Nat) : State :=
  { s with
    accesses := s.accesses.map fun (a : Access) => match a.stage with
      | .queued p => { a with stage := .queued (movedTo old size new p) }
      | .tested p => { a with stage := .tested (movedTo old size new p) }
      | _ => a
    sync := s.sync.map fun (q : SyncQueue) => { q with pa := movedTo old size new q.pa } }

/-- An engine of the die that no region claims (R244). -/
def State.freeEngine (s : State) (d : Nat) : Bool :=
  (List.range 8).any fun j => !s.regions.any fun g => (g.claimed 2).contains (8 * d + j)

/-- An open shadow of a copy or a collective on a page (R311). -/
def State.shadowed (s : State) (page size : Nat) : Bool :=
  let on := fun (x : Shadow) => decide (page ≤ x.page) && decide (x.page < page + size)
  ((s.engines.flatMap (fun e => e.2.running) ++ s.faults.saves.flatMap fun v => v.copies.flatMap fun c => c.2.1).any fun c => c.shadows.any on)
    || s.colls.any fun p => p.2.any fun q => q.shadows.any on

/-- Every write translated under the entry of a page has performed, held stores among them, and nothing else holds the copy back (R244,
R311). [DEDUCED: log 49] -/
def State.copyReady (s : State) (t : Trans) : Bool :=
  !(s.accesses.any fun a => a.wr && !a.waitsAt && a.inRange t.frame t.size)
    && !(s.held.any fun h => decide (t.frame ≤ h.pa) && decide (h.pa < t.frame + t.size))
    && !s.shadowed t.page t.size && s.freeEngine (bits t.page 56 55)

/-- The entries of a page's leaf, or of its group, that name its frames (R237, R238). -/
def Trans.entries (t : Trans) : List (Nat × Nat) :=
  if t.cont then (List.range 16).map fun k => (t.leaf / 128 * 128 + 8 * k, k * (t.size / 16)) else [(t.leaf, 0)]

/-- The writes withheld for a migration, in the order of their arrivals; of one issuer to one block, in the order of their issue (R244, R254). [DEDUCED: log 49] -/
def State.withheldWrites (s : State) : List Access :=
  (s.accesses.filter fun a => (match a.stage with | .migrating _ => true | _ => false)).foldl (fun l a =>
    (l.takeWhile fun b => decide (b.due ≤ a.due)) ++ a :: l.dropWhile fun b => decide (b.due ≤ a.due)) [] |>.foldl (fun l a =>
      (l.takeWhile fun b => !s.precedes a b) ++ a :: l.dropWhile fun b => !s.precedes a b) []

/-- A withheld write goes on from the owner at a time, behind the one that went before it; a chain access takes its turn at its weir (R244, R273). -/
def State.goAfter (s : State) (a : Access) (pa t : Nat) (before : Option Nat) : State :=
  s.toEnd { a with due := t + 1, after := if a.link.isSome then none else before, stage := if a.link.isSome then .toWeir pa else if isHostWin pa then .hostWindow pa else .toNode pa }

/-- A byte that a read's owner forwards to it: of the stores withheld for its region, or of its core's own, and of its own issuer's only the earlier
ones (R244, R254). -/
def State.forwardedTo (s : State) (a : Access) (i : Nat) : Option Byte :=
  s.forwardedBy (fun b => b.core == a.core && (a.core.isSome || s.sees a.region b.region) && (!sameIssuer a b || decide (b.id < a.id))) (a.va + i)

/-- A read of a page that is about to be published, and that has not reached its node: it keeps the bytes forwarded to it and reads the old frame;
one that a withheld write of its issuer must precede, that stands at its weir, or that waits for later writes goes to the new frame (R244, R254, R266, R274). [DEDUCED: log 49] -/
def State.atPublish (s : State) (old size new : Nat) (a : Access) : Access :=
  if a.wr || !a.inRange old size then a
  else
    let behind := s.accesses.any fun b => (match b.stage with | .migrating _ => true | _ => false) && s.precedes b a && !a.takes b
    match a.stage with
    | .toNode p => if behind || a.kind == .waitv then { a with stage := .toNode (movedTo old size new p) } else { a with fwd := (List.range a.size).map (s.forwardedTo a) }
    | .toWeir p => { a with stage := .toWeir (movedTo old size new p) }
    | .atWeir p => { a with stage := .atWeir (movedTo old size new p) }
    | _ => a

/-- The page is copied to its new frame and published; the withheld writes go on to it in arrival order (R244). [DEDUCED: log 49] -/
def State.publishPage (s : State) (m : Migration) (t : Trans) : State :=
  let s0 := { s with accesses := s.accesses.map (s.atPublish t.frame t.size m.newFrame) }
  let s1 := (s0.perform m.newFrame (memRead s.mem t.frame t.size)).carryPoison t.frame m.newFrame t.size
  let s2 := t.entries.foldl (fun s e =>
    let old := s.foundDouble e.1
    s.perform e.1 (natLe 8 (old - pteFrame old + (m.newFrame + e.2)))) s1
  let s3 := s2.fill { t with frame := m.newFrame, count := 0 }
  let s4 := { s3.moveWaits t.frame t.size m.newFrame with
    xl := { s3.xl with mig := some { m with published := true, old := t.frame, size := t.size }, queued := s3.xl.queued.filter (· != t.page) } }
  let l := s4.withheldWrites
  let ahead := none :: ((l.filter fun a => a.link.isNone).map fun a => some a.id)
  (l.map fun a => (a, m.newFrame + (a.va - t.page))).foldl (fun s x =>
    s.goAfter x.1 x.2 s4.later (ahead.getD (((l.takeWhile fun b => b.id != x.1.id).filter fun b => b.link.isNone).length) none)) s4.useFree

/-- MIGRATION_COPY: the owner copies and publishes the page (R244). [DEDUCED: log 49] -/
def execMigrationCopy (s : State) : Host.Outcome State Fault Refusal :=
  match s.xl.mig with
  | none => .next s
  | some m =>
    if m.published || s.dbg.stopped then .next s
    else match s.lookup m.va false with
      | .fail _ => .next s
      | .leaf t => guarded (s.copyReady t) s (s.publishPage m t)

/-- An access translated under a physical range has still to complete: to be performed, or to reach its issuer with its reply (R244). -/
def Access.reading (a : Access) (base size : Nat) : Bool :=
  a.inRange base size || (match a.stage with | .answered p => decide (base ≤ p) && decide (p < base + size) | _ => false)

/-- MIGRATION_DONE: every read translated under the old frame has completed: DONE is set and BUSY clears (R244). -/
def execMigrationDone (s : State) : Host.Outcome State Fault Refusal :=
  match s.xl.mig with
  | none => .next s
  | some m =>
    guarded (m.published && !(s.accesses.any fun a => a.reading m.old m.size) && !s.dbg.stopped) s
      { s with xl := { s.xl with mig := none, migDone := true } }

/-- XMIGST_CLEAR: writing 1 clears ERR and DONE (R243). -/
def execXmigstClear (v : Word) (s : State) : Host.Outcome State Fault Refusal :=
  s.hosted { s with xl := { s.xl with migErr := s.xl.migErr && !v.getLsbD 2, migDone := s.xl.migDone && !v.getLsbD 1 } }

/-- The base of the page that the tables give an address, or its granule's where they give none. -/
def State.leafPage (s : State) (va : Nat) : Nat :=
  match s.lookup va false with
  | .leaf t => t.page
  | .fail _ => s.pageOf va * 2 ^ ((s.granule va).getD 12)

/-- XACK clears the queued bit of a page (R246). -/
def execXack (v : Word) (s : State) : Host.Outcome State Fault Refusal :=
  s.hosted { s with xl := { s.xl with xack := v, queued := s.xl.queued.filter (· != s.leafPage v.toNat) } }

end Sys2Proof.Machine
end

