-- ==== Sys2Proof/Machine/Node.lean ====
section
/-! DEFINITION. Accesses at their memory nodes and homes: stores, atomics, replies, bounds records, sync objects, REL, WAITV and
barriers (spec/13_instr_memory.md R252 to R266; spec/14_ordering.md R280; spec/10_instr_control.md R218, R222). -/

namespace Sys2Proof.Machine

/-! ## At the node -/

/-- The address of an access that stands before its node, and may reach it now (R254). -/
def State.reaches (s : State) (a : Access) : Option Nat :=
  match a.stage with
  | .toNode p => if a.due ≤ s.tick ∧ s.inOrder a ∧ !s.dbg.stopped then some p else none
  | _ => none

/-- The bytes of an access's data. -/
def Access.bytes (a : Access) : List Byte := natLe a.size a.data.toNat

/-- A request tag returns to its element (R252). [DEDUCED: log 53] -/
def State.freeTag (s : State) (a : Access) : State :=
  s.modElem a.elem fun x => x.freeTag a.reqTag s.tick

/-- What a core's access leaves at its end (R390). -/
def State.coreEnd (s : State) (c : Nat) (o : CoreOp) (v : Word) : State := { s with coreDone := s.coreDone ++ [⟨c, v, false, 0, o⟩] }

/-- STORE_ARRIVAL: a store reaches its memory node and is held or performs (R185, R254, R366 to R369). [DEDUCED: log 53] -/
def execStoreArrival (ai : Nat) (s : State) : Host.Outcome State Fault Refusal :=
  match s.access? ai with
  | none => .next s
  | some a =>
    match s.reaches a, a.kind, a.core with
    | some p, .coreStore, some c => .next (((s.putBytes p a.bytes).dropAccess a.id).coreEnd c .store 0)
    | some p, .put, _ => .next ((s.putBytes p a.bytes).dropAccess a.id)
    | some p, .store, _ | some p, .sts, _ =>
      let s1 := (s.dropAccess a.id).freeTag a
      match s.region? a.region with
      | some g => .next (s1.storeAt g a.elem a.ctx a.slot a.inv a.fire p a.va a.bytes).1
      | none => .next s1
    | _, _, _ => .next s

/-! ## Atomics (R256, R257, R276) -/

/-- A signed n-bit value is at most another. -/
def leS (n x y : Nat) : Bool := decide (sextN x n ≤ sextN y n)

/-- The new value of an atomic's word of n bits: op as ACHN numbers it, 8 for ACAS, 9 and 10 for the unsigned minimum and maximum of a core (R256,
R276, R392). -/
def atomicNew (op n old b expected : Nat) : Nat :=
  match op with
  | 0 => (old + b) % 2 ^ n
  | 1 => if leS n old b then old else b
  | 2 => if leS n b old then old else b
  | 3 => old &&& b
  | 4 => old ||| b
  | 5 => old ^^^ b
  | 6 => b
  | 7 => (sumOut .rne 7 (decodeLane 7 old) (decodeLane 7 b) 0).1
  | 9 => min old b
  | 10 => max old b
  | _ => if old = expected then b else old

/-- The port performs every store that a region holds for any byte of a word, with those of the launch it follows or that follows it (R257,
R286). -/
def State.flushWord (s : State) (g pa n : Nat) : State :=
  s.performHeld fun h => s.sees g h.region && decide (h.pa < pa + n) && decide (pa < h.pa + h.bytes.length)

/-- An atomic performs at an address (R256, R257, R366). -/
def State.performAtomic (s : State) (a : Access) (p op expected : Nat) : State :=
  let s1 := if a.core.isNone then s.flushWord a.region p a.size else s
  let n := 8 * a.size
  let old := leNat (memRead s1.mem p a.size)
  let new := atomicNew op n old (a.data.toNat % 2 ^ n) (expected % 2 ^ n)
  let bad := s1.poisoned p a.size
  let v := if bad then s1.poisonBits false a.size else BitVec.ofNat 512 old
  let s2 := (if bad then s1.useFree else s1).putBytes p (natLe a.size new)
  let s3 := if a.core.isNone then s2.markX a.region a.inv else s2
  s3.reply a p v bad

/-- ATOMIC_PERFORM: an atomic, an ACHN or a core's AMO performs at its node in one step (R256, R257, R276, R392). -/
def execAtomicPerform (ai : Nat) (s : State) : Host.Outcome State Fault Refusal :=
  match s.access? ai with
  | none => .next s
  | some a =>
    match s.reaches a, a.kind with
    | some p, .atomic op ex => .next (s.performAtomic a p op ex.toNat)
    | some p, .coreAmo op => .next (s.performAtomic a p op 0)
    | _, _ => .next s

/-! ## Reads and replies (R253, R254, R255) -/

/-- The bytes a read of an access at p returns: forwarded by its owner, held for its region, or in memory (R185, R244). [DEDUCED: log 27; DESIGN CHOICE: log 66] -/
def State.readAccess (s : State) (a : Access) (p : Nat) : List Byte :=
  if a.kind = .lds then s.readFor a.region p a.size
  else (List.range a.size).map fun i =>
    let b := if a.core.isSome then memGet s.mem (p + i) else s.byteFor a.region (p + i)
    (s.forwardedTo a i).getD ((a.fwd.getD i none).getD b)

/-- An access that reads its node and is answered. -/
def Access.reads (a : Access) : Bool := match a.kind with | .load | .lds | .coreLoad => true | _ => false

/-- The value a reply carries (R253): RAW in a wide element, else by its size. -/
def Access.value (a : Access) : Val :=
  if a.wide then { bits := a.reply, fmt := 0, vl := 0 } else { bits := a.reply, fmt := replyFmt a.size, vl := 0 }

/-- The predicate result of a fire at its reply (R249, R256). -/
def Access.predicate (a : Access) : Bool :=
  match a.kind with
  | .atomic 8 ex => a.reply.toNat % 2 ^ (8 * a.size) == ex.toNat % 2 ^ (8 * a.size)
  | .acq | .acqs | .rel | .waitv => true
  | _ => false

/-- DATA_POISON of an access's region, with its place and the memory it reads: a port, or a slice (R253, R369). [DESIGN CHOICE: log 15] -/
def State.poisonFault (s : State) (a : Access) (p : Nat) : State :=
  s.unitFault a.region cDataPoison (if isHbm p then 9 else 15) (paTile p) (if isHbm p then portOf p else 0) a.elem a.ctx a.slot a.va

/-- A poisoned reply (R253): POISON in a channel, DATA_POISON of the region for a register. [DEDUCED: log 50] -/
def State.poisonReply (s : State) (a : Access) (f : Flight) : State :=
  let s1 := s.modFlight f.id fun x => { x with res := { x.res with tag := 5 } }
  let p := match a.stage with | .answered p => p | _ => 0
  if (opWrites f.op).isEmpty then s1 else s1.poisonFault a p

/-- A reply reaches its issuer: the fire's results stand ready, and it completes in its channel's order (R253). [DEDUCED: log 50] -/
def State.answer (s : State) (a : Access) : State :=
  match a.core with
  | some c => (s.dropAccess a.id).coreEnd c a.coreOp (a.reply.setWidth 64)
  | none =>
    let v := if a.kind = .rel then none else some a.value
    let s1 := (s.resolve a.fire v v a.predicate s.tick).dropAccess a.id
    match s1.flight? a.fire with
    | some f => if a.poison then s1.poisonReply a f else s1
    | none => s1

/-- MEMORY_REPLY: a read is made at its node and its reply sets out, or a reply reaches its issuer (R253 to R255). -/
def execMemoryReply (ai : Nat) (s : State) : Host.Outcome State Fault Refusal :=
  match s.access? ai with
  | none => .next s
  | some a =>
    match s.reaches a, a.stage with
    | some p, _ =>
      let bad := s.poisoned p a.size
      let v := if bad then s.poisonBits a.wide a.size else BitVec.ofNat 512 (leNat (s.readAccess a p))
      guarded a.reads s ((if bad then s.useFree else s).reply a p v bad)
    | none, .answered _ => guarded (decide (a.due ≤ s.tick) && a.kind != .mask && !s.dbg.stopped) s (s.answer a)
    | none, _ => .next s

/-- A bounds record that BOUNDS accepts (R259). -/
def boundsSound (b : List Byte) : Bool :=
  decide (dbl b 0 ≤ dbl b 8) && bits (dbl b 16) 63 3 == 0 && (dbl b 24 == 0 || (dbl b 16).testBit 2)

/-- BOUNDS_LOADED: a bounds record arrives: BAD_BOUNDS, or the fire that loaded it completes (R28, R259); one that cannot be read takes DATA_POISON, with
open bits (R253, R369). [DEDUCED: log 50] -/
def execBoundsLoaded (ai : Nat) (s : State) : Host.Outcome State Fault Refusal :=
  match s.access? ai with
  | none => .next s
  | some a =>
    match s.reaches a, a.kind, s.flight? a.fire with
    | some p, .bounds, some f =>
      let b := s.readAccess a p
      let load := fun (s : State) (x : LinkWord) => ((s.resolve a.fire (some { bits := x }) none false s.tick).detected a.fire).dropAccess a.id
      if s.poisoned p a.size then .next ((load s.useFree (s.poisonBits true a.size)).poisonFault a p)
      else if boundsSound b then .next (load s (BitVec.ofNat 512 (leNat b)))
      else .next (s.lateTrap f .badBounds a.va)
    | _, _, _ => .next s

/-! ## Sync objects (R261 to R264) -/

/-- A request joins an object's queue. -/
def State.enqueue (s : State) (p ai : Nat) : State :=
  let join := fun (q : SyncQueue) => if q.pa == p then { q with waiters := q.waiters ++ [ai] } else q
  let l := if s.sync.any (·.pa == p) then s.sync.map join else s.sync ++ [⟨p, [ai]⟩]
  { s.modAccess ai (fun x => { x with stage := .queued p }) with sync := l }

/-- A REL's check read: the object has such a holder (R264). -/
def relHeld (b o : Nat) : Bool := if b.testBit 4 then bits o 62 48 != 0 else o.testBit 63

/-- The front of an object's queue may be served now: the object or its queue has changed (R261, R263). -/
def State.servable (s : State) (a : Access) (p : Nat) : Bool :=
  (s.sync.find? (·.pa == p)).bind (fun q => q.waiters.head?) == some a.id && (objectServe a.kind (s.double p)).isSome

/-- SYNC_REQUEST: an ACQ or ACQS reaches its object's home, joins the queue, and the queue is served; a REL makes its check read, and
traps NOT_HELD, or where the object's block is poisoned its region takes DATA_POISON (R263, R264, R369). [DEDUCED: log 50] -/
def execSyncRequest (ai : Nat) (s : State) : Host.Outcome State Fault Refusal :=
  match s.access? ai with
  | none => .next s
  | some a =>
    match s.reaches a, a.stage, a.kind with
    | some p, _, .acq | some p, _, .acqs | some p, _, .mask => let s1 := s.enqueue p a.id; .next (s1.serve p (s1.waiting p))
    | some p, _, .rel =>
      match s.flight? a.fire with
      | some f =>
        if s.poisoned p 8 then
          .next (((s.modAccess a.id fun x => { x with stage := .queued p }).detected a.fire).poisonFault a p)
        else if relHeld a.data.toNat (s.double p) then .next ((s.modAccess a.id fun x => { x with stage := .queued p }).detected a.fire)
        else .next (s.lateTrap f .notHeld a.va)
      | none => .next s
    | none, .queued p, .acq | none, .queued p, .acqs | none, .queued p, .mask => guarded (s.servable a p && !s.dbg.stopped) s (s.serve p (s.waiting p))
    | _, _, _ => .next s

/-- The object after a REL (R264). -/
def objectRel (b o : Nat) : Nat :=
  let shr := bits o 62 48
  if b.testBit 4 then o - shr * 2 ^ 48 + (shr - 1) * 2 ^ 48
  else shr * 2 ^ 48 + (bits o 47 0 + 1) % 2 ^ 48

/-- An earlier NOTIFY of the context is still on its way (R222). -/
def State.notifyTurn (s : State) (a : Access) : Bool :=
  !s.accesses.any fun b => b.core.isNone && b.elem == a.elem && b.ctx == a.ctx && decide (b.id < a.id) && (match b.kind with | .notify _ => true | _ => false)

/-- REL_UPDATE: a REL whose context's earlier accesses have arrived publishes, gives up its hold and serves the queue; a NOTIFY
delivers its value after its release (R222, R264, R280). -/
def execRelUpdate (ai : Nat) (s : State) : Host.Outcome State Fault Refusal :=
  match s.access? ai with
  | none => .next s
  | some a =>
    let turn := s.releasable a.elem a.ctx a.fire && !s.dbg.stopped
    match a.kind, a.stage with
    | .rel, .queued p =>
      let b := a.data.toNat
      let s1 := s.release a.region a.elem a.ctx a.inv a.fire (b % 16)
      guarded turn s ((s1.putBytes p (natLe 8 (objectRel b (s1.double p)))).reply a p 0 false)
    | .notify w, .toNode _ =>
      guarded (turn && decide (a.due ≤ s.tick) && s.notifyTurn a) s
        (((s.release a.region a.elem a.ctx a.inv a.fire 7).notify w (a.data.setWidth 64)).dropAccess a.id)
    | _, _ => .next s

/-! ## WAITV (R266) -/

/-- WAITV_TEST: the home tests the word on arrival, and after a later write to it (R266). [DEDUCED: log 74] -/
def execWaitvTest (ai : Nat) (s : State) : Host.Outcome State Fault Refusal :=
  match s.access? ai with
  | none => .next s
  | some a =>
    match s.reaches a, a.stage, a.kind with
    | some p, _, .waitv => .next (s.testWord a p)
    | none, .queued p, .waitv => guarded (decide (a.data.toNat % 2 ^ 64 ≤ s.double p) && !s.dbg.stopped) s (s.testWord a p)
    | _, _, _ => .next s

/-- WAITV_RETRY: a WAITV that found its home's list full tests the word again (R266). -/
def execWaitvRetry (ai : Nat) (s : State) : Host.Outcome State Fault Refusal :=
  match s.access? ai with
  | none => .next s
  | some a =>
    match a.stage, a.kind with
    | .tested p, .waitv => guarded (decide (a.due ≤ s.tick) && !s.dbg.stopped) s (s.testWord a p)
    | _, _ => .next s

/-! ## Barriers (R218, R396) -/

/-- The fires that wait at generation n of a level in the barrier of an element's context. -/
def State.atBarrier (s : State) (g : Region) (l n e k : Nat) : List Flight :=
  let dom := (g.hier.getD l ⟨0, 0⟩).dom
  s.flights.filter fun f => f.region == g.id && f.wait == .bar l n && !f.ready && g.sameDomain dom e k f.elem f.ctx

/-- Every participant has arrived at generation n: it has decided more than n BARs, or has ended (R218). A context on a tile that has still to swap has
decided none. -/
def State.allArrived (s : State) (g : Region) (l n e k : Nat) : Bool :=
  (s.participants g (g.hier.getD l ⟨0, 0⟩).dom e k).all fun p =>
    let c := s.ctx p.1 p.2
    !s.toSwap g.id p.1 && (c.ended || decide (n < c.bars.getD l 0))

/-- BARRIER_OPEN: the generation at which fire i waits at level l opens once every participant has arrived and released; each of its
BARs completes (R218). -/
def execBarrierOpen (gi l i : Nat) (s : State) : Host.Outcome State Fault Refusal :=
  match s.region? gi, s.flight? i with
  | some g, some f =>
    match f.wait with
    | .bar l' n =>
      let fs := s.atBarrier g l n f.elem f.ctx
      let scope := (g.hier.getD l ⟨0, 0⟩).scope
      let s1 := fs.foldl (fun s h => s.release gi h.elem h.ctx h.inv h.id scope) s
      let s2 := fs.foldl (fun s h =>
        let v := some (scalarVal (isWide h.elem) 6 n)
        s.resolve h.id v v true s.tick) s1
      guarded (l == l' && !f.ready && f.region == gi && !s.dbg.stopped && s.allArrived g l n f.elem f.ctx
        && fs.all fun h => decide (h.decided < s.tick) && s.releasable h.elem h.ctx h.id) s s2
    | _ => .next s
  | _, _ => .next s

end Sys2Proof.Machine
end

