-- ==== Sys2Proof/Machine/Convert.lean ====
section
/-! DEFINITION. The conversions (spec/06_instr_float_vector.md R138 to R146). -/

namespace Sys2Proof.Machine

/-- Lanes of a word of a format, one in a narrow element (R138). -/
def convLanes (wide : Bool) (fmt : Nat) : Nat := if wide then lanesOf fmt else 1

/-- Valid lanes of a source by its own code (R138). -/
def convValid (wide : Bool) (v : Val) : Nat := if wide then min (v.valid (laneBits v.fmt)) (lanesOf v.fmt) else 1

/-- The value of the lanes produced by a conversion into code t (R138, R72). -/
def convVal (wide : Bool) (t : Nat) (lanes : List Nat) : Val :=
  { bits := BitVec.ofNat 512 (packLanes (laneBits t) lanes), fmt := t, vl := if wide then countOf lanes.length (lanesOf t) else 0 }

/-- A conversion lane by lane of A (R138): `ok` the source codes, `f code lane index` the lane and its flags. -/
def convSem (lat : Nat) (ok : Nat → Bool) (f : Env → Nat → Nat → Nat → Nat × Flags) (v : Env) : Dec :=
  let t := v.o.tact.val
  if !ok v.a.fmt then .trap .badFormat 0 0 0
  else
    let w := laneBits v.a.fmt
    let r := lanewise (min (convValid v.wide v.a) (convLanes v.wide t)) fun l =>
      let x := f v v.a.fmt (laneAt v.a.bits.toNat w l) l
      (x.1, false, x.2)
    .go { Go.both lat (convVal v.wide t r.1) with flags := r.2.2 }

/-- Rounding as MODE selects (R61). -/
def Env.modeRm (v : Env) : Rm := v.rm.ofMode v.o.mode.val

/-- CVT decodes each lane exactly and encodes it once into the target (R140). -/
def execCvt (o : Op) (s : State) : Host.Outcome State Fault Refusal :=
  fire (convSem 2 isFloatFmt fun v fmt x _ => encodeFloat v.o.tact.val v.modeRm (decodeLane fmt x)) (.cvt o) s

/-- CVTS converts as CVT does with stochastic rounding under one draw (R141). [DEDUCED: log 69] -/
def execCvts (o : Op) (s : State) : Host.Outcome State Fault Refusal :=
  fire (fun v =>
    if !isFloatFmt v.a.fmt then .trap .badFormat 0 0 0
    else drawing (fun v d => convSem 3 isFloatFmt (fun v fmt x l => encodeStochastic v.o.tact.val (drawLane d l) (decodeLane fmt x)) v) v) (.cvts o) s

/-- CVTI rounds each lane to an integer as MODE selects (R142). -/
def execCvti (o : Op) (s : State) : Host.Outcome State Fault Refusal :=
  fire (convSem 2 isFloatFmt fun v fmt x _ => encodeInt v.o.tact.val v.modeRm (decodeLane fmt x)) (.cvti o) s

/-- CVTIT rounds each lane to an integer towards zero (R142). -/
def execCvtit (o : Op) (s : State) : Host.Outcome State Fault Refusal :=
  fire (convSem 2 isFloatFmt fun v fmt x _ => encodeInt v.o.tact.val .rtz (decodeLane fmt x)) (.cvtit o) s

/-- CVTF reads each lane as a signed integer and encodes it into the target (R143). -/
def execCvtf (o : Op) (s : State) : Host.Outcome State Fault Refusal :=
  fire (convSem 2 (fun f => decide (f ≤ 6)) fun v fmt x _ => encodeFloat v.o.tact.val v.modeRm (Num.ofInt (sextN x (laneBits fmt)))) (.cvtf o) s

/-- CVTFU reads each lane as an unsigned integer and encodes it into the target (R143). -/
def execCvtfu (o : Op) (s : State) : Host.Outcome State Fault Refusal :=
  fire (convSem 2 (fun f => decide (f ≤ 6)) fun v _ x _ => encodeFloat v.o.tact.val v.modeRm (Num.ofInt (x : Nat))) (.cvtfu o) s

/-- A source code is of the class of a target: floats with floats, integers with integers (R139). -/
def sameClass (t f : Nat) : Bool := if decide (7 ≤ t) then isFloatFmt f else isIntFmt f

/-- A lane of code f converted to the target under RNE (R144). -/
def packLane (t f x : Nat) : Nat × Flags := encodeLane t .rne (decodeLane f x)

/-- PACK and UNPACK: the lanes of A from `off` on, then for PACK of a full A those of B (R144). [DESIGN CHOICE: log 84] -/
def packSem (two : Bool) (v : Env) : Dec :=
  let t := v.o.tact.val
  let wa := laneBits v.a.fmt
  let va := convValid v.wide v.a
  let la := convLanes v.wide v.a.fmt
  let lt := convLanes v.wide t
  let off := if two then 0 else v.b.n64 % 128
  let readB := two && v.wide && va == la
  if !sameClass t v.a.fmt || (readB && !sameClass t v.b.fmt) then .trap .badFormat 0 0 0
  else if !two && va ≤ off then .trap .badLane 0 off 0
  else
    let wb := laneBits v.b.fmt
    let vb := if readB then convValid true v.b else 0
    let na := min (va - off) lt
    let n := if readB then min (va + vb) lt else na
    let r := lanewise n fun l =>
      let x := if l < va - off then packLane t v.a.fmt (laneAt v.a.bits.toNat wa (off + l))
        else packLane t v.b.fmt (laneAt v.b.bits.toNat wb (l - va))
      (x.1, false, x.2)
    .go { Go.both 2 (convVal v.wide t r.1) with flags := r.2.2 }

/-- PACK converts A and, when A is full, B into one word (R144). -/
def execPack (o : Op) (s : State) : Host.Outcome State Fault Refusal :=
  fire (packSem true) (.pack o) s

/-- UNPACK converts the part of A from lane off on (R144). -/
def execUnpack (o : Op) (s : State) : Host.Outcome State Fault Refusal :=
  fire (packSem false) (.unpack o) s

/-- A value times the scale of an E8 code (R145). -/
def scaleBy (x : Num) (c : Nat) : Num :=
  if c = 255 then .nan x.isSnan
  else match x with
    | .fin s m e => .fin s m (e + c - 127)
    | y => y

/-- SCALE: decode(a_l) × 2^(c - 127), c in lane l div 32 of B, rounded once (R145). [DEDUCED: log 69] -/
def execScale (o : Op) (s : State) : Host.Outcome State Fault Refusal :=
  fire (fun v =>
    if !(v.b.fmt == 14 || v.b.fmt == 0) then .trap .badFormat 0 0 0
    else convSem 3 (fun f => decide (7 ≤ f) && decide (f ≤ 13)) (fun v fmt x l =>
      encodeFloat v.o.tact.val v.modeRm (scaleBy (decodeLane fmt x) (laneAt v.b.bits.toNat 8 (l / 32)))) v) (.scale o) s

/-- FMTOF writes A's bits under the target code, but for what R71 and R72 have every fire write as zero (R146). [DEDUCED: log 83] -/
def execFmtof (o : Op) (s : State) : Host.Outcome State Fault Refusal :=
  fire (fun v =>
    let t := v.o.tact.val
    if v.a.vl != 0 && laneBits v.a.fmt != laneBits t then .trap .badLane 0 0 0
    else .go (.both 1 ({ v.a with fmt := t }.clean v.wide))) (.fmtof o) s

end Sys2Proof.Machine
end

