-- ==== Sys2Proof/Machine/Vector.lean ====
section
/-! DEFINITION. The cross-lane instructions of wide elements (spec/06_instr_float_vector.md R147 to R155). -/

namespace Sys2Proof.Machine

/-- The operation format of a cross-lane instruction (R124, R147). -/
def Env.xfmt (v : Env) : Nat := opFormat v.o.mode.val v.a.fmt

/-- The lanes of A at width w. -/
def Env.aLane (v : Env) (w l : Nat) : Nat := laneAt v.a.bits.toNat w l

/-- Instructions that move lanes accept any code under FA, else the operation format or RAW of A and of the further sources `more` (R124,
R147); `f fmt w va` gives the rest, va being A's valid lanes. A lane index from lane 0 of B is no such source, and neither is the distance of
VSLIDE. [DESIGN CHOICE: log 84] -/
def moveSem (more : Env → List Val) (f : Env → Nat → Nat → Nat → Dec) (v : Env) : Dec :=
  let fmt := v.xfmt
  if v.o.mode.val != 0 && !(v.a :: more v).all (codeOk fmt) then .trap .badFormat 0 0 0 else f v fmt (laneBits fmt) (v.a.valid (laneBits fmt))

/-- Instructions that compute on FP32, BF16 and FP16 only, with both sources in the operation format or RAW (R124, R147). [DESIGN CHOICE: log 92] -/
def arithSem (f : Env → Nat → Nat → Nat → Dec) (v : Env) : Dec :=
  let fmt := v.xfmt
  if !isIeee fmt || !codeOk fmt v.a || !codeOk fmt v.b then .trap .badFormat 0 0 0
  else f v fmt (laneBits fmt) (v.a.valid (laneBits fmt))

/-- A value in lane 0 with every other lane zero and a count of 1. -/
def lane0Val (fmt x : Nat) : Val := { bits := BitVec.ofNat 512 (x % 2 ^ laneBits fmt), fmt := fmt, vl := 1 }

/-- zext(B, 64)[6:0] (R148). -/
def Env.idx (v : Env) : Nat := v.b.n64 % 128

/-- VBCAST writes lane idx of A into every lane (R148). -/
def execVbcast (o : Op) (s : State) : Host.Outcome State Fault Refusal :=
  fire (moveSem (fun _ => []) fun v fmt w va =>
    if va ≤ v.idx then .trap .badLane 0 v.idx 0
    else .go (.both 1 { bits := BitVec.ofNat 512 (repLanes w (laneCount w) (v.aLane w v.idx)), fmt := fmt, vl := 0 })) (.vbcast o) s

/-- The balanced tree of R149 over 2^k lanes from lo on: none where no lane is valid; each node computes with its flags. -/
def treeReduce (op : Nat → Nat → Nat × Flags) (lane : Nat → Option Nat) (lo : Nat) : Nat → Option (Nat × Flags)
  | 0 => (lane lo).map fun x => (x, 0)
  | k + 1 =>
    match treeReduce op lane lo k, treeReduce op lane (lo + 2 ^ k) k with
    | none, y => y
    | x, none => x
    | some (x, f), some (y, g) => let r := op x y; some (r.1, r.2 ||| f ||| g)

/-- VREDADD, VREDMAX and VREDMIN: the tree of A's valid lanes combined with lane 0 of B (R149). -/
def reduceFire (lat : Nat) (op : Rm → Nat → Nat → Nat → Nat × Flags) (i : Instr) (s : State) : Host.Outcome State Fault Refusal :=
  fire (arithSem fun v fmt w va =>
    let b0 := laneAt v.b.bits.toNat w 0
    let r := match treeReduce (op v.rm fmt) (fun l => if l < va then some (v.aLane w l) else none) 0 (if w = 32 then 4 else 5) with
      | some (x, f) => let y := op v.rm fmt b0 x; (y.1, y.2 ||| f)
      | none => let n := decodeIeee fmt b0; (if n.isNan then canonNan fmt else b0, sigFlag [n])
    .go { Go.both lat (lane0Val fmt r.1) with flags := r.2 }) i s

/-- VREDADD: the tree sum of A's valid lanes, each node rounded once under RM, plus lane 0 of B (R149). -/
def execVredadd (o : Op) (s : State) : Host.Outcome State Fault Refusal :=
  reduceFire 6 (fun rm fmt a b => let x := decodeIeee fmt a; let y := decodeIeee fmt b; sumOut rm fmt x y (sigFlag [x, y])) (.vredadd o) s

/-- VREDMAX: the greatest of A's valid lanes and lane 0 of B (R149). -/
def execVredmax (o : Op) (s : State) : Host.Outcome State Fault Refusal :=
  reduceFire 3 (fun _ => minMax fun x y => x.less y) (.vredmax o) s

/-- VREDMIN: the least of A's valid lanes and lane 0 of B (R149). -/
def execVredmin (o : Op) (s : State) : Host.Outcome State Fault Refusal :=
  reduceFire 3 (fun _ => minMax fun x y => y.less x) (.vredmin o) s

/-- Whether lane value x ranks above y: NaN below every number, -0 below +0 (R150). -/
def ranksAbove (x y : Num) : Bool := if x.isNan then false else if y.isNan then true else y.less x

/-- The winning lane among lanes 0 to n of A (R150). -/
def argmaxLane (lane : Nat → Num) : Nat → Nat
  | 0 => 0
  | n + 1 => let w := argmaxLane lane n; if ranksAbove (lane (n + 1)) (lane w) then n + 1 else w

/-- VARGMAX: the greatest valid lane to DST1, its index plus the base in B to DST2 (R150). -/
def execVargmax (o : Op) (s : State) : Host.Outcome State Fault Refusal :=
  fire (arithSem fun v fmt w va =>
    let ln := fun l => decodeIeee fmt (v.aLane w l)
    let l := argmaxLane ln (va - 1)
    let x := if (ln l).isNan then canonNan fmt else v.aLane w l
    .go { lat := 4, d1 := some (lane0Val fmt x), d2 := some (lane0Val 4 (v.b.n64 + l))
          flags := sigFlag ((List.range va).map ln) }) (.vargmax o) s

/-- The running sums of R151 from an accumulator over a list of lanes. -/
def scanSums (rm : Rm) (fmt : Nat) (acc : Nat) : List Nat → List Nat × Flags
  | [] => ([], 0)
  | a :: r =>
    let x := decodeIeee fmt acc
    let y := decodeIeee fmt a
    let p := sumOut rm fmt x y (sigFlag [x, y])
    let q := scanSums rm fmt p.1 r
    (p.1 :: q.1, p.2 ||| q.2)

/-- VSCAN: the inclusive prefix sum from lane 0 of B in lane order (R151). -/
def execVscan (o : Op) (s : State) : Host.Outcome State Fault Refusal :=
  fire (arithSem fun v fmt w va =>
    let r := scanSums v.rm fmt (laneAt v.b.bits.toNat w 0) ((List.range va).map (v.aLane w))
    .go { Go.both 8 (laneVal true w fmt r.1) with flags := r.2 }) (.vscan o) s

/-- VPERM: lane l is A's lane j, j being byte l of B; zero where lane j is not valid (R153). -/
def execVperm (o : Op) (s : State) : Host.Outcome State Fault Refusal :=
  fire (moveSem (fun v => [v.b]) fun v fmt w va =>
    if fmt = 11 || fmt = 12 || fmt = 13 then .trap .badFormat 0 0 0
    else .go (.both 2 (laneVal true w fmt ((List.range va).map fun l =>
      let j := laneAt v.b.bits.toNat 8 l
      if j < va then v.aLane w j else 0)))) (.vperm o) s

/-- VSLIDE: lane l is A's lane l + s, s being sext(B[7:0], 8); zero where that is no valid lane (R153). -/
def execVslide (o : Op) (s : State) : Host.Outcome State Fault Refusal :=
  fire (moveSem (fun _ => []) fun v fmt w va =>
    let sh := sextN v.b.n64 8
    .go (.both 1 (laneVal true w fmt ((List.range va).map fun (l : Nat) =>
      let j : Int := l + sh
      if 0 ≤ j ∧ j < va then v.aLane w j.toNat else 0)))) (.vslide o) s

/-- VEXTR writes lane idx of A to lane 0 (R148). -/
def execVextr (o : Op) (s : State) : Host.Outcome State Fault Refusal :=
  fire (moveSem (fun _ => []) fun v fmt w va =>
    if va ≤ v.idx then .trap .badLane 0 v.idx 0 else .go (.both 1 (lane0Val fmt (v.aLane w v.idx)))) (.vextr o) s

/-- VINS writes the old value of DST1 with lane idx replaced by lane 0 of A (R148). -/
def execVins (o : Op) (s : State) : Host.Outcome State Fault Refusal :=
  fire (moveSem (fun v => [v.old]) fun v fmt w _ =>
    let full := laneCount w
    if full ≤ v.idx then .trap .badLane 0 v.idx 0
    else
      let n := max (if v.old.vl = 0 then full else v.old.valid w) (v.idx + 1)
      .go (.both 1 (laneVal true w fmt ((List.range n).map fun l =>
        if l = v.idx then v.aLane w 0 else laneAt v.old.bits.toNat w l)))) (.vins o) s

/-- VDOT: old plus the products of the lanes valid in A and B, exact, rounded once to FP32 (R152). [DESIGN CHOICE: log 93] -/
def execVdot (o : Op) (s : State) : Host.Outcome State Fault Refusal :=
  fire (arithSem fun v fmt w va =>
    let n := min va (v.b.valid w)
    let old := decodeIeee 7 (v.old.bits.toNat % 2 ^ 32)
    let pairs := (List.range n).map fun l => (decodeIeee fmt (v.aLane w l), decodeIeee fmt (laneAt v.b.bits.toNat w l))
    let prods := pairs.map fun p => Num.mul p.1 p.2
    let terms := old :: prods
    let bad := pairs.any (fun p => badProduct p.1 p.2)
    let opp := terms.contains (.inf true) && terms.contains (.inf false)
    let fl := sigFlag (old :: pairs.flatMap fun p => [p.1, p.2]) ||| flagIf (bad || opp) fNV
    let r := if opp || terms.any Num.isNan then (canonNan 7, 0)
      else encodeFloat 7 v.rm (match terms with | [] => .fin false 0 0 | t :: ts => ts.foldl (Num.add v.rm) t)
    .go { Go.both 6 (lane0Val 7 r.1) with flags := fl ||| r.2 }) (.vdot o) s

/-- VMASK: bit l of a RAW word says that lane l of A is valid and nonzero (R154). -/
def execVmask (o : Op) (s : State) : Host.Outcome State Fault Refusal :=
  fire (moveSem (fun _ => []) fun v _ w va =>
    let m := packLanes 1 ((List.range (min va 128)).map fun l => if v.aLane w l = 0 then 0 else 1)
    .go { Go.both 1 { bits := BitVec.ofNat 512 m, fmt := 0, vl := 2 } with pred := m != 0 }) (.vmask o) s

/-- VCOMPRESS packs the valid lanes of A whose bit in B is 1; it writes nothing when there is none (R154). -/
def execVcompress (o : Op) (s : State) : Host.Outcome State Fault Refusal :=
  fire (moveSem (fun v => [v.b]) fun v fmt w va =>
    let l := ((List.range va).filter fun l => bit v.b.bits.toNat l).map (v.aLane w)
    if l.isEmpty then .go { lat := 2 } else .go { Go.both 2 (laneVal true w fmt l) with pred := true }) (.vcompress o) s

/-- VLANEID writes l + B into lane l, as I32 under MODE 1 and RAW of 16 bits under 2 and 3 (R155). -/
def execVlaneid (o : Op) (s : State) : Host.Outcome State Fault Refusal :=
  fire (fun v =>
    let w := if v.o.mode.val = 1 then 32 else 16
    .go (.both 1 (laneVal true w (if w = 32 then 3 else 0) ((List.range (512 / w)).map fun l => l + v.b.n64)))) (.vlaneid o) s

end Sys2Proof.Machine
end

