-- ==== Sys2Proof/Machine/Unit.lean ====
section
/-! DEFINITION. What the instructions and steps of the asynchronous units share (spec/17_engines.md, spec/18_instr_engines.md R319 to
R324): naming a unit, the decision of a command, its reply, and the unit's reads and writes of memory. A unit is named by
256 × kind + index, with the kinds of R173, and 5 for a sequence unit. -/

namespace Sys2Proof.Machine

/-! ## The decision of a command (R321) -/

/-- A command that passes its checks is sent to unit u (R322). -/
def goCommand (u : Nat) : Dec := .go { pred := true, wait := .unitSend u }

/-- The decision of a command that names its unit of a kind by CLAIM in b[3:0]: BAD_UNIT, then the command's own checks (R321). -/
def claimSem (kind : Nat) (check : Env → Option Trap) (v : Env) : Dec :=
  let l := v.g.claimed kind
  match l[v.b.n64 % 16]? with
  | none => .trap .badUnit 0 0 0
  | some n => match check v with
    | some t => .trap t 0 0 v.a.n64
    | none => goCommand (256 * kind + n)

/-- A reserved bit or code: BAD_CMD unless p holds (R321). -/
def cmdIf (p : Bool) : Option Trap := if p then none else some .badCmd

/-- The checks of an address operand: BAD_ADDR, then MISALIGNED (R321). -/
def addrTrap (a size : Nat) : Option Trap :=
  if 2 ^ 57 ≤ a then some .badAddr else if a % size ≠ 0 then some .misaligned else none

/-! ## Commands and replies (R322 to R324) -/

/-- The index and attach tile of a unit. -/
def unitIdx (u : Nat) : Nat := u % 256
def unitTile (u : Nat) : Nat :=
  match u / 256 with
  | 1 => nodeTile (unitIdx u)
  | 2 => engineTile (unitIdx u)
  | 5 => seqTile (unitIdx u)
  | _ => collTile (unitIdx u)

/-- The command of a fire. -/
def State.cmdOf (s : State) (f : Flight) : Cmd :=
  { opc := f.opc, a := f.a, b := f.b, fire := f.id, elem := f.elem, ctx := f.ctx, slot := f.slot, region := f.region
    cls := match s.region? f.region with | some g => g.cls | none => 3
    inv := f.inv, opw := f.opw }

/-- A command completes: a fire that waits for its reply has it, as U64 (R319, R323, R324). -/
def State.unitReply (s : State) (fire v : Nat) : State :=
  match s.flight? fire with
  | some f => (match f.wait with
    | .unit _ => let x := some (scalarVal (isWide f.elem) 6 v); s.resolve fire x x true s.tick
    | _ => s)
  | none => s

/-- A command completes at the present tick. -/
def State.unitDone (s : State) (fire : Nat) : State := s.unitReply fire s.tick

/-- A unit of a region may work: its region is known and the package is not stopped. -/
def State.worksFor (s : State) (c : Cmd) : Bool := (s.region? c.region).isSome && !s.dbg.stopped

/-! ## Memory as a unit reaches it: as a member of the issuing region (R185, R279, R322) -/

/-- A token of a command is withheld, or has stayed with a fault record. -/
def State.holdsUnit (s : State) (fire : Nat) : Bool := s.accesses.any fun a => a.fire == fire && (match a.kind with | .unit _ => true | _ => false)

/-- A translation of a command's work fails: its token is withheld, and the unit waits (R241). `named` is what the record of its fault will name (R308),
`data` what a store of the issuing context carries (R345, R383). -/
def State.withhold (s : State) (u : Nat) (c : Cmd) (va cd : Nat) (wr : Bool) (named : List Int := []) (data : LinkWord := 0) : State :=
  let a : Access := { id := s.ids, fire := c.fire, elem := c.elem, ctx := c.ctx, slot := c.slot, region := c.region, core := none, kind := .unit u
                      wide := false, va := va, size := 1, wr := wr, data := data, inv := c.inv
                      opw := c.opw, reqTag := 0, link := none, stage := .withheld cd s.tick, due := s.tick
                      reply := 0, poison := false, released := false, named := named }
  let s1 := s.issue a
  let s2 := if s1.traced c.region then s1.perf 3 1 else s1
  if resolvable cd then s2.postFq c.region va cd wr else s2

/-- What a unit's read or write of memory comes to: done, or a translation that fails at an address. -/
inductive Reach (α : Type) where
  | done (x : α) (s : State)
  | held (va code : Nat)

/-- Bytes from va as region g sees them, page by page, with whether a block of them is poisoned. -/
def State.unitRead (s : State) (g : Nat) : Nat → Nat → Nat → Reach (List Byte × Bool)
  | 0, _, _ => .done ([], false) s
  | fuel + 1, va, n =>
    if n = 0 then .done ([], false) s
    else
      let k := min n (4096 - va % 4096)
      match s.translate (s.agentOf g) va false false false with
      | (.fail cd, _) => .held va cd
      | (.pa p, s1) =>
        let bad := s1.poisoned p k
        match s1.unitRead g fuel (va + k) (n - k) with
        | .held a cd => .held a cd
        | .done (b, w) s2 => .done (s1.viewFor g va p k ++ b, bad || w) s2

/-- A store of bytes at va by a unit, never held, within one page. -/
def State.unitPiece (s : State) (g va : Nat) (b : List Byte) : Reach Unit :=
  match s.translate (s.agentOf g) va true false false with
  | (.fail cd, _) => .held va cd
  | (.pa p, s1) => .done () (s1.putBytes p b)

/-- A store of at most 8 bytes at va by a unit, never held: in two pieces where it spans two pages. -/
def State.unitWrite (s : State) (g va : Nat) (b : List Byte) : Reach Unit :=
  let k := 4096 - va % 4096
  if b.length ≤ k then s.unitPiece g va b
  else match s.unitPiece g va (b.take k) with
    | .held a cd => .held a cd
    | .done _ s1 => s1.unitPiece g (va + k) (b.drop k)

/-- A double read as signed. -/
def sdbl (b : List Byte) (k : Nat) : Int := sextN (dbl b k) 64

/-- Whether a virtual address lies in a global part: a page that translates into one; none where it does not translate. -/
def State.inGlobal (s : State) (va : Nat) : Bool :=
  match s.lookup va false with
  | .leaf t => isGlobal (t.pa va)
  | .fail _ => false

/-- A descriptor of n blocks of 64 bytes lies in global parts, in pages that are SHARED or GRAPH (R326). -/
def State.inDescriptorPages (s : State) (va n : Nat) : Bool :=
  (List.range n).all fun k => match s.lookup (va + 64 * k) false with
    | .leaf t => isGlobal (t.pa (va + 64 * k)) && decide (t.dom ≤ 1)
    | .fail _ => false

/-! ## Shadows and publication (R288, R310, R311) -/

/-- The next frame of a die's pool; none where the pool is empty, or the retired-frame ring is full (R312). [DEDUCED: log 58] -/
def State.nextFrame (s : State) (d : Nat) : Option Nat :=
  let f := s.frame d
  if f.fp.en && !f.fp.empty && f.rf.en && !f.rf.full then some (bits (s.double (f.fp.entry f.fp.head 8)) 51 12 * 4096) else none

/-- The copy commands that have started, those of a save among them: a cut leaves their shadows open (R373). -/
def State.started (s : State) : List Running :=
  s.engines.flatMap (fun e => e.2.running) ++ s.faults.saves.flatMap fun v => v.copies.flatMap fun c => c.2.1

/-- Another open shadow of a page: of a copy or of a collective that is not the command of fire `fire` (R311). -/
def State.overlaps (s : State) (page fire : Nat) : Bool :=
  (s.started.any fun r => r.cmd.fire != fire && !r.published && r.shadows.any (·.page == page))
    || s.colls.any fun p => p.2.any fun q => q.cmd.fire != fire && q.shadows.any (·.page == page)

/-- What opening a shadow comes to. -/
inductive Opened where
  | opened (x : Shadow) (s : State)
  | wait
  | held (code : Nat)
  | fault (code : Nat)

/-- A page's shadow is opened for a command of region g at a unit of die d (R310, R311): a frame of the pool takes the page's bytes as the
region sees them. [DEDUCED: log 58] -/
def State.openShadow (s : State) (g d fire page : Nat) : Opened :=
  match s.translate (s.agentOf g) page true false false with
  | (.fail cd, _) => .held cd
  | (.pa p, s1) =>
    match s1.lookup page false with
    | .fail cd => .held cd
    | .leaf t =>
      if t.cont || t.size != 4096 || !isHbm p then .fault cCopyDstpage
      else if s1.overlaps page fire then .fault cCopyOverlap
      else if s1.migrating page then .wait
      else match s1.nextFrame d with
        | none => .wait
        | some f =>
          let s2 := s1.modFrame d fun x => { x with fp := { x.fp with head := x.fp.head + 1 } }
          .opened ⟨page, f, p⟩ ((s2.perform f (s1.readFor g p 4096)).carryPoison p f 4096)

/-- A shadow with a smaller page comes first: pages are published in ascending order (R288). -/
def insertShadow (x : Shadow) : List Shadow → List Shadow
  | [] => [x]
  | y :: r => if x.page ≤ y.page then x :: y :: r else y :: insertShadow x r

/-- A page is published: its owner's translation changes to the shadow's frame, and the old frame is retired (R288, R310). -/
def State.publish (s : State) (d : Nat) (x : Shadow) : State :=
  match s.lookup x.page false with
  | .fail _ => s
  | .leaf t =>
    let old := s.foundDouble t.leaf
    let s1 := (s.perform t.leaf (natLe 8 (old - pteFrame old + x.frame))).fill { t with frame := x.frame }
    s1.modFrame d fun f => { f with retiring := f.retiring ++ [x.old] }

/-- The steps of R289 for a command whose pages are `pages`: its pages are published, its completion word is written, and its counter
is decremented. -/
def State.publishAll (s : State) (d : Nat) (pages : List Shadow) : State := pages.foldl (fun s x => s.publish d x) s

end Sys2Proof.Machine
end

