-- ==== Sys2Proof/Machine/Matrix.lean ====
section
/-! DEFINITION. Matrix and repeat nodes: their instructions, the order in which a node takes its commands, weights, vectors, rows,
drains and repeats (spec/17_engines.md R295 to R304; spec/18_instr_engines.md R319 to R325; spec/04_numbers.md R84 to R86). -/

namespace Sys2Proof.Machine

/-! ## The instructions (R321, R325) -/

/-- The weight formats and the stream formats (R325). -/
def weightFmt (f : Nat) : Bool := f == 8 || f == 10 || f == 11 || f == 12
def streamFmt (f : Nat) : Bool := weightFmt f || f == 13

/-- The checks of MLOAD's words. -/
def mloadCheck (a b : Nat) : Option Trap := if decide (b < 2 ^ 18) && weightFmt (bits b 7 4) then addrTrap a 64 else some .badCmd
/-- The checks of the other matrix and repeat commands' words (R325): B holds CLAIM alone, but in MMODE. -/
def mswapCheck (b : Nat) : Option Trap := cmdIf (decide (b < 16))
def mstreamCheck (a b : Nat) : Option Trap := cmdIf (decide (b < 16) && decide (a < 2 ^ 31) && streamFmt (bits a 3 0))
def mmodeCheck (a b : Nat) : Option Trap := cmdIf (decide (b < 48) && (bits b 5 4 != 0 || decide (a ≤ 2)))
def mdrainCheck (a b : Nat) : Option Trap := cmdIf (decide (b < 16) && decide (a < 2 ^ 20))
def mclrCheck (a b : Nat) : Option Trap := cmdIf (decide (b < 16) && decide (a < 2 ^ 18))
def rptsetCheck (a b : Nat) : Option Trap := cmdIf (decide (b < 16) && decide (a < 2 ^ 18) && a % 2 ^ 16 != 0)
def rptendCheck (a b : Nat) : Option Trap := cmdIf (decide (b < 16) && decide (a < 2 ^ 18) && a % 2 ^ 16 == 0)

/-- MLOAD fills a node's shadow plane from the tile at A (R297, R325). -/
def execMload (o : Op) (s : State) : Host.Outcome State Fault Refusal :=
  fire (claimSem 1 fun v => mloadCheck v.a.n64 v.b.n64) (.mload o) s

/-- MSWAP exchanges a node's planes (R299). -/
def execMswap (o : Op) (s : State) : Host.Outcome State Fault Refusal :=
  fire (claimSem 1 fun v => mswapCheck v.b.n64) (.mswap o) s

/-- MSTREAM begins an activation stream (R300). -/
def execMstream (o : Op) (s : State) : Host.Outcome State Fault Refusal :=
  fire (claimSem 1 fun v => mstreamCheck v.a.n64 v.b.n64) (.mstream o) s

/-- MMODE sets a node's mode, seed or counter (R295, R301). -/
def execMmode (o : Op) (s : State) : Host.Outcome State Fault Refusal :=
  fire (claimSem 1 fun v => mmodeCheck v.a.n64 v.b.n64) (.mmode o) s

/-- MDRAIN emits accumulator rows on the result ports (R302). -/
def execMdrain (o : Op) (s : State) : Host.Outcome State Fault Refusal :=
  fire (claimSem 1 fun v => mdrainCheck v.a.n64 v.b.n64) (.mdrain o) s

/-- MCLR clears accumulator rows (R302, R325). -/
def execMclr (o : Op) (s : State) : Host.Outcome State Fault Refusal :=
  fire (claimSem 1 fun v => mclrCheck v.a.n64 v.b.n64) (.mclr o) s

/-- RPTSET has a repeat node capture the next stream and emit it n times (R304). -/
def execRptset (o : Op) (s : State) : Host.Outcome State Fault Refusal :=
  fire (claimSem 1 fun v => rptsetCheck v.a.n64 v.b.n64) (.rptset o) s

/-- RPTEND ends the repetitions after the one in progress (R304). -/
def execRptend (o : Op) (s : State) : Host.Outcome State Fault Refusal :=
  fire (claimSem 1 fun v => rptendCheck v.a.n64 v.b.n64) (.rptend o) s

/-! ## Formats (R296) -/

/-- The largest K of a format, and the elements of K in a word of one activation port. -/
def maxK (f : Nat) : Nat := if f = 12 then 512 else if f = 8 then 128 else 256
def portElems (f : Nat) : Nat := if f = 12 then 128 else if f = 8 then 32 else 64
/-- Blocks of 32 elements that K spans (R84, R85). -/
def blocksOf (k : Nat) : Nat := (k + 31) / 32
/-- A format whose activations carry a scale stream (R84). -/
def scaled (f : Nat) : Bool := isTapered f
/-- Bytes of a row of weights (R325). -/
def rowBytes (f : Nat) : Nat := if f = 8 then 256 else if f = 10 then 128 else if f = 11 then 96 else 64

/-! ## Faults of a node (R303) -/

/-- A fault of a matrix node or of one of its repeat nodes: the node stops and its region faults (R303, R304). `named` is what the record names
besides: the port and the vector of MX_FORMAT. [DEDUCED: log 14] -/
def State.nodeFault (s : State) (n : Nat) (c : Cmd) (cd unit uidx : Nat) (named : List Int := []) : State :=
  (s.modNode n fun x => { x with stopped := true }).unitFault c.region cd unit (nodeTile n) uidx c.elem c.ctx c.slot
    (if c.opc = 0xC0 then c.a.toNat else 0) named

/-- Whether a command's rows and K are in range (R300, R325). -/
def Cmd.inRange (c : Cmd) : Bool :=
  let a := c.a.toNat
  match c.opc with
  | 0xC0 => decide (bits c.b.toNat 17 8 < maxK (bits c.b.toNat 7 4))
  | 0xC2 => decide (bits a 12 4 < maxK (bits a 3 0)) && decide (bits a 30 22 + bits a 21 13 < 512)
  | 0xC4 | 0xC5 => decide (bits a 8 0 + bits a 17 9 < 512)
  | _ => true

/-! ## Taking commands (R297 to R302, R322) -/

/-- The stream a command begins. -/
def Cmd.stream (c : Cmd) (mode : Nat) : Stream :=
  let a := c.a.toNat
  { cmd := c, fmt := bits a 3 0, k := bits a 12 4 + 1, m := bits a 21 13 + 1, base := bits a 30 22, mode := mode, started := 0, written := 0
    lastIn := 0, popped := 0, inside := [] }

/-- A stream's format suits the active plane and the mode (R300). -/
def MxNode.suits (x : MxNode) (f : Nat) : Bool :=
  match x.active with
  | some w => if x.mode = 2 then f == 13 && w.fmt == 10 else f == w.fmt
  | none => false

/-- The node stands still between streams: every row of the streams begun has been written, and no drain is under way. [DEDUCED: log 54] -/
def MxNode.quiet (x : MxNode) : Bool := x.streams.isEmpty && x.drain.isNone

/-- Accumulator row r of a node. -/
def MxNode.row (x : MxNode) (r : Nat) : List Word32 := tget x.acc r (List.replicate 128 0)

/-- The head command of a node begins, where it can (R297, R299 to R302): none where it must wait; an MSWAP that has its MLOAD is made by
PLANE_SWAP. `later` is the open time of the first weight word. [DEDUCED: log 54] -/
def MxNode.begin (x : MxNode) (c : Cmd) (later : Nat) : Option (MxNode ⊕ Nat) :=
  let a := c.a.toNat
  let y := { x with cmds := x.cmds.tail }
  match c.opc with
  | 0xC0 =>
    if x.loading.isSome then none
    else some (.inl { y with shadow := none, mloads := x.mloads + 1, loading := some { cmd := c, due := later, tile := none } })
  | 0xC1 => if x.mloads = 0 then some (.inr cMxNoshadow) else none
  | 0xC2 => if x.suits (bits a 3 0) then some (.inl { y with streams := x.streams ++ [c.stream x.mode] }) else some (.inr cMxFormat)
  | 0xC3 =>
    match bits c.b.toNat 5 4 with
    | 0 => some (.inl { y with mode := a })
    | 1 => if x.drain.isSome then none else some (.inl { y with seed := c.a })
    | _ => if x.drain.isSome then none else some (.inl { y with ctr := c.a })
  | 0xC4 =>
    if x.quiet then some (.inl { y with drain := some { cmd := c, dfmt := bits a 19 18, base := bits a 8 0, n := bits a 17 9 + 1, word := 0 } })
    else none
  | 0xC5 =>
    if x.quiet then
      some (.inl { y with acc := (List.range (bits a 17 9 + 1)).foldl (fun t j => tdel t (bits a 8 0 + j)) y.acc })
    else none
  | _ => some (.inl y)

/-- A command that completes once it has begun: MCLR (R324). -/
def atOnce (opc : Nat) : Bool := opc == 0xC5

/-- A cut of a command's region has begun (R373). -/
def State.cutting (s : State) (c : Cmd) : Bool := match s.region? c.region with | some g => g.cut != .none | none => false

/-- A node takes the commands that stand at the head of its queue, in order, as far as they can begin (R322); none in a cut (R373). [DEDUCED: log 54] -/
def State.takeCmds (s : State) (n : Nat) : Nat → State
  | 0 => s
  | fuel + 1 =>
    let x := s.node n
    match x.cmds with
    | [] => s
    | c :: _ =>
      if x.stopped || s.cutting c then s
      else match x.begin c (s.later + 1) with
        | none => s
        | some (.inr cd) => s.nodeFault n c cd 1 n
        | some (.inl y) =>
          let s1 := s.modNode n fun _ => y
          let s2 := if c.opc = 0xC0 then s1.useFree else s1
          State.takeCmds (if atOnce c.opc then s2.unitDone c.fire else s2) n fuel

/-- The state after a node has taken what it can. -/
def State.settleNode (s : State) (n : Nat) : State := s.takeCmds n 17

/-- The commands a node holds (R322). [DEDUCED: log 54] -/
def MxNode.held (x : MxNode) : Nat :=
  x.cmds.length + x.streams.length + (if x.loading.isSome then 1 else 0) + (if x.drain.isSome then 1 else 0)
    + (x.repeats.map fun r => r.sets.length + r.ends.length).foldl (· + ·) 0

/-- A repeat node takes an RPTEND (R304): with nothing to end it has no effect; a repetition in progress is let finish; a capture that
has not begun to be emitted is emptied, and so is every RPTSET that came before it. [DEDUCED: log 54] -/
def Repeat.finish (r : Repeat) (c : Cmd) : Repeat × Bool :=
  if r.sets.isEmpty then (r, true)
  else if r.full then ({ r with sets := r.sets.take 1, ends := r.ends ++ [c] }, false)
  else ({ r with sets := [], capture := [], mid := r.mid || !r.capture.isEmpty }, true)

/-- A matrix or repeat command enters its node (R300, R304, R322). An MMODE completes as the node takes it (R324). [DEDUCED: log 54] -/
def State.enterNode (s : State) (n : Nat) (c : Cmd) : State :=
  let p := bits c.a.toNat 17 16
  match c.opc with
  | 0xC6 => s.modNode n fun x => { x with repeats := x.repeats.modify p fun r => { r with sets := r.sets ++ [c] } }
  | 0xC7 =>
    let r := (s.node n).repeats.getD p {}
    let (r1, done) := r.finish c
    let s1 := s.modNode n fun x => { x with repeats := x.repeats.set p r1 }
    let s2 := (if r.full then r.sets.tail else r.sets).foldl (fun s d => s.unitDone d.fire) s1
    if done then s2.unitDone c.fire else s2
  | _ =>
    if c.inRange then
      let s1 := if c.opc = 0xC3 then s.unitDone c.fire else s
      (s1.modNode n fun x => { x with cmds := x.cmds ++ [c] }).settleNode n
    else s.nodeFault n c cMxRange 1 n

/-! ## Weights (R297, R325) -/

/-- The codes of a row of 128 weights in its bytes. -/
def rowCodes (f : Nat) (b : List Byte) : List Nat := let x := leNat b; (List.range 128).map (laneAt x (laneBits f))

/-- The tile of an MLOAD from its bytes: K rows, then the scale blocks from the next multiple of 64 (R325). [DEDUCED: log 56] -/
def tileOf (c : Cmd) (b : List Byte) : Weights :=
  let f := bits c.b.toNat 7 4
  let k := bits c.b.toNat 17 8 + 1
  let rb := rowBytes f
  let p := (k * rb + 63) / 64 * 64
  { fmt := f, k := k, src := c.a.toNat, rows := (List.range k).map fun r => rowCodes f ((b.drop (r * rb)).take rb)
    scales := if scaled f then (List.range (blocksOf k)).map fun j => ((b.drop (p + 128 * j)).take 128).map (·.toNat) else [] }

/-- Bytes of the tile of an MLOAD. -/
def tileBytes (c : Cmd) : Nat :=
  let f := bits c.b.toNat 7 4
  let k := bits c.b.toNat 17 8 + 1
  (k * rowBytes f + 63) / 64 * 64 + (if scaled f then 128 * blocksOf k else 0)

/-- The words of a tile arrive: the shadow load ends 128 cycles later; a poisoned word ends it with MX_POISON; a translation that
fails holds it (R241, R297, R325). [DEDUCED: log 56] -/
def State.fetchTile (s : State) (n : Nat) (l : Loading) : State :=
  match s.unitRead l.cmd.region 16 l.cmd.a.toNat (tileBytes l.cmd) with
  | .held va cd => s.withhold (256 + n) l.cmd va cd false
  | .done (b, bad) s1 =>
    if bad then (s1.modNode n fun x => { x with loading := none }).nodeFault n l.cmd cMxPoison 1 n
    else s1.modNode n fun x => { x with loading := some { l with due := s.tick + 128, tile := some (tileOf l.cmd b) } }

/-- WEIGHT_LOAD_END: the first weight word of an MLOAD arrives, or 128 cycles after it the load ends (R297). -/
def execWeightLoadEnd (n : Nat) (s : State) : Host.Outcome State Fault Refusal :=
  match (s.node n).loading with
  | none => .next s
  | some l =>
    let ready := decide (l.due ≤ s.tick) && s.worksFor l.cmd && !(s.node n).stopped && !s.holdsUnit l.cmd.fire && !s.cutting l.cmd
    match l.tile with
    | none => guarded ready s (s.fetchTile n l)
    | some w => guarded ready s (((s.modNode n fun x => { x with loading := none, shadow := some w }).unitDone l.cmd.fire).settleNode n)

/-- A stream's clean pass boundary has passed: 128 cycles after its last vector entered row 0 (R298). [DEDUCED: log 54] -/
def Stream.clean (x : Stream) (t : Nat) : Bool := x.started == x.m && decide (x.lastIn + 128 ≤ t)

/-- The MSWAP at the head of a node's queue may be made in this cycle (R299). -/
def MxNode.swappable (x : MxNode) (t : Nat) : Bool :=
  (match x.cmds with | c :: _ => c.opc == 0xC1 | [] => false) && x.mloads != 0 && x.loading.isNone && !x.stopped && x.streams.all (·.clean t)

/-- PLANE_SWAP: the planes exchange; row 0 takes no vector in that cycle (R299). -/
def execPlaneSwap (n : Nat) (s : State) : Host.Outcome State Fault Refusal :=
  let x := s.node n
  match x.cmds with
  | [] => .next s
  | c :: rest =>
    guarded (x.swappable s.tick && s.worksFor c && !s.cutting c) s
      (((s.modNode n fun x => { x with cmds := rest, active := x.shadow, shadow := x.active, mloads := 0, nextIn := s.tick + 1 }).unitDone c.fire).settleNode n)

/-! ## Vectors (R84 to R86, R298, R300, R301) -/

/-- A sum rounded once to FP32 with RNE, added to a partial sum. -/
def addFp32 (p : Nat) (y : Num) : Nat × Flags := let x := decodeLane 7 p; sumOut .rne 7 x y (sigFlag [x])

/-- The exact sum of products: NaN where an operand is NaN; an exact zero is +0. -/
def exactSum (l : List Num) : Num := l.foldl (Num.add .rne) (.fin false 0 0)

/-- A weight code at row r and column c of a tile: an open value below its K. [DEDUCED: log 56] -/
def Weights.code (w : Weights) (free r c : Nat) : Nat :=
  match w.rows[r]? with
  | some l => l.getD c 0
  | none => (Config.freeValue (free + 128 * r + c)).toNat % 2 ^ laneBits w.fmt
/-- A weight scale of block j and column c. [DEDUCED: log 56] -/
def Weights.scale (w : Weights) (free j c : Nat) : Nat :=
  match w.scales[j]? with
  | some l => l.getD c 0
  | none => (Config.freeValue (free + 2 ^ 16 + 128 * j + c)).toNat % 256

/-- A column's sum of a vector in BF16: each product exact, added at its row (R86). -/
def bf16Column (w : Weights) (free : Nat) (a : List Nat) (c : Nat) : Nat × Flags :=
  (a.mapIdx fun r x => (x, r)).foldl (fun (p : Nat × Flags) x =>
    let y := decodeLane 8 x.1
    let z := decodeLane 8 (w.code free x.2 c)
    let q := addFp32 p.1 (Num.mul y z)
    (q.1, p.2 ||| q.2 ||| sigFlag [y, z] ||| flagIf (badProduct y z) fNV)) (0, 0)

/-- A column's sum of a vector in a tapered format, or in PQ6 against TF8: each block's sum exact, scaled exactly, and added to the
partial sum in block order (R82, R85, R86, R301). `sc` gives the activation scale of a block; a scale of 0x7F is 1. -/
def blockColumn (w : Weights) (free f : Nat) (a sc : List Nat) (c : Nat) : Nat × Flags :=
  (List.range (blocksOf a.length)).foldl (fun (p : Nat × Flags) j =>
    let prods := ((a.drop (32 * j)).take 32).mapIdx fun i x => Num.mul (decodeLane f x) (decodeLane w.fmt (w.code free (32 * j + i) c))
    let v := Num.mul (exactSum prods) (Num.mul (decodeE8 (w.scale free j c)) (decodeE8 (sc.getD j 0x7F)))
    let q := addFp32 p.1 v
    (q.1, p.2 ||| q.2)) (0, 0)

/-- The 128 sums of a vector (R86, R298). -/
def vectorSums (w : Weights) (free f : Nat) (a sc : List Nat) : List Word32 × Flags :=
  let r := (List.range 128).map fun c => if w.fmt = 8 then bf16Column w free a c else blockColumn w free f a sc c
  (r.map fun x => BitVec.ofNat 32 x.1, r.foldl (fun fl x => fl ||| x.2) 0)

/-- The stream whose vectors enter next, by index: the first with vectors to start (R300). -/
def MxNode.current (x : MxNode) : Option (Nat × Stream) :=
  match x.streams.findIdx? fun st => decide (st.started < st.m) with
  | some i => (x.streams[i]?).map (i, ·)
  | none => none

/-- A word at an activation or scale port that carries a value: EOS and EBB carry none. -/
def Token.carries (k : Token) : Bool := k.tag != 2 && k.tag != 3 && k.tag != 4

/-- The words of a port without the leading ones that carry no value. [DESIGN CHOICE: log 55] -/
def words (q : List Token) : List Token := q.filter Token.carries

/-- The head of an activation port (R300). [DESIGN CHOICE: log 55] -/
def headWord (q : List Token) (t : Nat) : Option Token := match words q with | k :: _ => if k.seen ≤ t then some k else none | [] => none

/-- An activation word of port j suits a stream: its code is F and its valid lanes cover every element below K that it carries (R300). -/
def Stream.wordOk (st : Stream) (j : Nat) (k : Token) : Bool :=
  let q := portElems st.fmt
  let need := min q (st.k - j * q)
  k.val.fmt == st.fmt && decide (need ≤ (if k.val.vl = 0 then lanesOf st.fmt else k.val.vl))

/-- Ports whose head does not suit the stream. -/
def MxNode.badPort (x : MxNode) (st : Stream) (t : Nat) : Option Nat :=
  (List.range 4).find? fun j => match headWord (x.acts.getD j []) t with | some k => !st.wordOk j k | none => false

/-- The elements of a vector: Q of each port in port order, below K (R296). -/
def vectorElems (st : Stream) (ks : List Token) : List Nat :=
  let q := portElems st.fmt
  (ks.flatMap fun k => (List.range q).map (laneAt k.val.bits.toNat (laneBits st.fmt))).take st.k

/-- The scales of a stream's next vector, if their words are present (R84, R300). -/
def MxNode.vectorScales (x : MxNode) (st : Stream) (t : Nat) : Option (List Nat) :=
  if !scaled st.fmt then some []
  else
    let b := blocksOf st.k
    let ws := (words x.scaleA).takeWhile fun k => decide (k.seen ≤ t)
    let get := fun (i : Nat) => (ws[i / 64 - st.popped]?).map fun k => laneAt k.val.bits.toNat 8 (i % 64)
    (List.range b).foldr (fun i (r : Option (List Nat)) => match get (st.started * b + i), r with | some v, some l => some (v :: l) | _, _ => none) (some [])

/-- Words of a drained row on each result port (R302). -/
def Drain.per (d : Drain) : Nat := if d.dfmt = 0 then 4 else if d.dfmt = 3 then 1 else 2

/-- A row of a drain that has not left yet (R302). -/
def MxNode.draining (x : MxNode) (r : Nat) : Bool :=
  match x.drain with
  | some d =>
    decide (d.base + d.word / d.per ≤ r) && decide (r < d.base + d.n)
  | none => false

/-- What a vector's entry takes: the stream, its sums and flags, the words and the scale words it uses up. -/
structure Entry where
  idx : Nat
  stream : Stream
  sums : List Word32
  flags : BitVec 6
  used : Nat

/-- The vector that may enter row 0 in cycle t (R296, R298 to R300). -/
def MxNode.entry (x : MxNode) (free t : Nat) : Option Entry :=
  match x.current, x.active with
  | some (i, st), some w =>
    let ks := (List.range 4).filterMap fun j => headWord (x.acts.getD j []) t
    match x.vectorScales st t with
    | some sc =>
      if ks.length = 4 ∧ x.nextIn ≤ t ∧ !x.draining (st.base + st.started) then
        let r := vectorSums w free st.fmt (vectorElems st ks) sc
        let b := blocksOf st.k
        let used := if !scaled st.fmt then 0
          else if st.started + 1 = st.m then (st.m * b + 63) / 64 - st.popped else (st.started + 1) * b / 64 - st.popped
        some { idx := i, stream := st, sums := r.1, flags := r.2, used := used }
      else none
    | none => none
  | _, _ => none

/-- The queue of a port with its first n words that carry a value gone, and the EOS and EBB before them; a MARK stays until the cut has counted
it (R373). -/
def dropWords : Nat → List Token → List Token
  | _, [] => []
  | 0, q => q
  | n + 1, k :: r => if k.tag = 4 then k :: dropWords (n + 1) r else if k.carries then dropWords n r else dropWords (n + 1) r

/-- A vector enters row 0 (R298). -/
def MxNode.enter (x : MxNode) (e : Entry) (t : Nat) : MxNode :=
  { x with nextIn := t + 1, acts := x.acts.map (dropWords 1), scaleA := dropWords e.used x.scaleA
           streams := x.streams.modify e.idx fun st =>
             { st with started := st.started + 1, lastIn := t, popped := if st.started + 1 = st.m then 0 else st.popped + e.used
                       inside := st.inside ++ [(t, e.sums, e.flags)] } }

/-- VECTOR_START: a vector enters row 0 of a node once its words and scales are present, or a word at the head of a port does not suit the
stream (R298, R300). -/
def execVectorStart (n : Nat) (s : State) : Host.Outcome State Fault Refusal :=
  let x := s.node n
  match x.current with
  | none => .next s
  | some (_, st) =>
    if !s.worksFor st.cmd || x.stopped || s.cutting st.cmd then .next s
    else match x.badPort st s.tick with
      | some j => .next (s.nodeFault n st.cmd cMxFormat 1 n [j, st.started])
      | none => match x.entry s.free s.tick with
        | none => .next s
        | some e =>
          let s1 := { s.modNode n (fun x => x.enter e s.tick) with free := s.free + 2 ^ 17 }
          .next (if s1.traced st.cmd.region then s1.perf 5 1 else s1)

/-- A row combined with a vector's sums (R301). -/
def combine (mode : Nat) (row v : List Word32) : List Word32 × Flags :=
  if mode = 1 then (v, 0)
  else
    let r := List.zipWith (fun a b => let y := decodeLane 7 b.toNat; let q := addFp32 a.toNat y; (BitVec.ofNat 32 q.1, q.2 ||| sigFlag [y])) row v
    (r.map (·.1), r.foldl (fun fl x => fl ||| x.2) 0)

/-- The sums of the oldest vector inside are written into its accumulator row (R298, R301); columns of the spill map are not. -/
def MxNode.write (x : MxNode) (st : Stream) (v : List Word32) (fl : Flags) : MxNode :=
  let r := st.base + st.written
  let c := combine st.mode (x.row r) v
  let row := c.1.mapIdx fun j w => if x.spill.contains j then 0 else w
  let st1 := { st with written := st.written + 1, inside := st.inside.tail }
  { x with acc := tput x.acc r row, flags := x.flags ||| fl ||| c.2
           streams := if st1.written = st1.m then x.streams.tail else st1 :: x.streams.tail }

/-- ROW_WRITE: 260 cycles after a vector entered row 0 its sums are written into its row (R298); after the last one the stream has
ended (R324). -/
def execRowWrite (n : Nat) (s : State) : Host.Outcome State Fault Refusal :=
  let x := s.node n
  match x.streams with
  | [] => .next s
  | st :: _ => match st.inside with
    | [] => .next s
    | (t, v, fl) :: _ =>
      let s1 := s.modNode n fun x => x.write st v fl
      guarded (decide (t + 260 ≤ s.tick) && s.worksFor st.cmd && !x.stopped) s
        (if st.written + 1 = st.m then (s1.unitDone st.cmd.fire).settleNode n else s1)

/-! ## Drains (R302) -/

/-- The words of a drain on each result port. -/
def Drain.total (d : Drain) : Nat := d.n * d.per
/-- The format code of a drained word. -/
def Drain.fmt (d : Drain) : Nat := if d.dfmt = 0 then 7 else if d.dfmt = 3 then 10 else 8

/-- A result port of a node is wired: words for a port that is not are dropped. -/
def State.resultWired (s : State) (c : Cmd) (n p : Nat) : Bool :=
  match s.region? c.region with
  | some g => g.wires.any fun w => w.src.unit && w.src.port == 8 + p && g.placeTile w.src == nodeTile n
  | none => false

/-- A value divided by the scale of an E8 code, exactly: code 255 makes every value NaN (R83, R302). -/
def unscale (sc : Nat) (x : Num) : Num :=
  match x with
  | .nan q => .nan q
  | .fin sg m e => if sc = 255 then .nan false else .fin sg m (e - sc + 127)
  | .inf sg => if sc = 255 then .nan false else .inf sg

/-- The word that a drain emits next on result port p (0 or 1), with its flags; `u` is the draw of a stochastic word and `sw` the scale
word of the row (R302). A column that the spill map takes gives +0 (R295). -/
def MxNode.drainWord (x : MxNode) (d : Drain) (p : Nat) (u : Word) (sw : Nat) : Val × Flags :=
  let row := x.row (d.base + d.word / d.per)
  let lanes := 64 / d.per
  let r := (List.range lanes).map fun l =>
    let c := 64 * p + d.word % d.per * lanes + l
    let v := (row.getD c 0).toNat
    if x.spill.contains c then (0, (0 : Flags))
    else match d.dfmt with
    | 0 => (v, 0)
    | 1 => encodeFloat 8 .rne (decodeLane 7 v)
    | 2 => encodeStochastic 8 (drawLane u l) (decodeLane 7 v)
    | _ => encodeFloat 10 .rne (unscale (laneAt sw 8 (c / 32)) (decodeLane 7 v))
  (({ bits := BitVec.ofNat 512 (packLanes (laneBits d.fmt) (r.map (·.1))), fmt := d.fmt, vl := 0 } : Val), r.foldl (fun fl x => fl ||| x.2) 0)

/-- A draw of the node's generator (R91, R302): the draw, the counter after it, and RNGSAT. -/
def MxNode.draw (x : MxNode) : Word × MxNode :=
  (drawOf x.seed x.ctr, { x with ctr := drawNext x.ctr, flags := x.flags ||| flagIf (drawSat x.ctr) fRNGSAT })

/-- The node after the next words of its drain have gone to the result ports (R302). `swap` says that port 9 draws first, where the
manual gives no order between the ports; `wired` says which ports have a wire. [DESIGN CHOICE: log 55] -/
def MxNode.emit (x : MxNode) (d : Drain) (swap : Bool) (wired : Nat → Bool) (t : Nat) : MxNode :=
  let sw := match words x.scaleB with | k :: _ => k.val.bits.toNat | [] => 0
  let (u, x1) := if d.dfmt = 2 then x.draw else (0, x)
  let (w, x2) := if d.dfmt = 2 then x1.draw else (0, x1)
  let a := x.drainWord d 0 (if swap then w else u) sw
  let b := x.drainWord d 1 (if swap then u else w) sw
  let tag := if d.word + 1 = d.total then 1 else 0
  let put := fun (p : Nat) (v : Val) (q : List Token) => if wired p then q ++ [{ val := v, tag := tag, seen := t }] else q
  { x2 with outs := (x2.outs.modify 0 (put 0 a.1)).modify 1 (put 1 b.1), flags := x2.flags ||| a.2 ||| b.2
            scaleB := if d.dfmt = 3 then dropWords 1 x2.scaleB else x2.scaleB, drain := some { d with word := d.word + 1 } }

/-- Words of a drain may go to the result ports: each has room, and a scaled drain has its scale word (R302). [DESIGN CHOICE: log 55] -/
def MxNode.mayEmit (x : MxNode) (d : Drain) (t : Nat) : Bool :=
  decide (d.word < d.total) && x.outs.all (fun q => decide (q.length < 2) && q.all fun k => k.seen != t)
    && (d.dfmt != 3 || (headWord x.scaleB t).isSome)

/-- MDRAIN_EMIT: a node emits the next words of its drain, or its last word has left and the drain ends with the sticky flags as its
reply, which clears them (R302, R324, R325). [DESIGN CHOICE: log 55] -/
def execMdrainEmit (n : Nat) (s : State) : Host.Outcome State Fault Refusal :=
  let x := s.node n
  match x.drain with
  | none => .next s
  | some d =>
    if !s.worksFor d.cmd || x.stopped then .next s
    else if d.word < d.total then
      let swap := decide (Config.freeChoice s.free % 2 = 1)
      guarded (x.mayEmit d s.tick) s ((s.modNode n fun x => x.emit d swap (s.resultWired d.cmd n) s.tick).useFree)
    else
      let asks := (s.flight? d.cmd.fire).isSome
      guarded (x.outs.all List.isEmpty) s
        ((((s.modNode n fun x => { x with drain := none, flags := if asks then 0 else x.flags }).unitReply d.cmd.fire (x.flags.toNat &&& 0x37)).settleNode n))

/-! ## Repeat nodes (R304) -/

/-- A word that ends a stream. -/
def Token.ends (k : Token) : Bool := k.tag == 1 || k.tag == 2

/-- What a repeat node does with its next word or repetition: the node after it, the word that goes on, the commands that complete, and
whether the capture overflows. -/
structure RStep where
  node : Repeat
  out : List Token := []
  done : List Cmd := []
  tooLong : Option Cmd := none

/-- The repetition in progress ends (R304): the next one follows, or the capture is empty and the RPTSET and the RPTENDs complete. -/
def Repeat.turn (r : Repeat) (c : Cmd) (k : Token) : RStep :=
  let left := r.left + 1
  if left = bits c.a.toNat 15 0 ∨ !r.ends.isEmpty then
    { node := { r with sets := r.sets.tail, capture := [], full := false, left := 0, next := 0, ends := [], mid := false }
      out := [k], done := c :: r.ends }
  else { node := { r with left := left, next := 0 }, out := [k] }

/-- The next step of a repeat node (R304): none where it has nothing to do; a MARK waits at its port for the node's cut (R373). [DEDUCED: log 54] -/
def Repeat.step (r : Repeat) (t : Nat) : Option RStep :=
  match r.sets, r.full with
  | c :: _, true =>
    match r.capture[r.next]? with
    | none => none
    | some k => if r.next + 1 = r.capture.length then some (r.turn c k) else some { node := { r with next := r.next + 1 }, out := [k] }
  | sets, _ =>
    match r.inq with
    | [] => none
    | k :: rest =>
      if t < k.seen ∨ k.tag = 4 then none
      else if k.tag = 3 then some { node := { r with inq := rest, sets := [], capture := [], mid := false }, out := r.capture ++ [k], done := sets }
      else match sets with
        | [] => some { node := { r with inq := rest, mid := k.carries && !k.ends }, out := [k] }
        | c :: _ =>
          if r.mid then some { node := { r with inq := rest, mid := !k.ends }, out := [k] }
          else if 1024 ≤ r.capture.length then some { node := r, tooLong := some c }
          else some { node := { r with inq := rest, capture := r.capture ++ [k], full := k.ends } }

/-- REPEAT_CAPTURE: a repeat node passes a word on, captures it, or emits the next word of a repetition (R304). -/
def execRepeatCapture (n p : Nat) (s : State) : Host.Outcome State Fault Refusal :=
  let x := s.node n
  let q := x.acts.getD p []
  if x.stopped || s.dbg.stopped || x.marks != 0 || 4 ≤ p || 4 ≤ q.length || q.any (fun k => k.seen == s.tick + 1) then .next s
  else match (x.repeats.getD p {}).step s.tick with
    | none => .next s
    | some st =>
      match st.tooLong with
      | some c => .next (s.nodeFault n c cRptOverflow 2 (4 * n + p))
      | none =>
        let out := st.out.map fun (k : Token) => { k with seen := s.tick + 1 }
        let s1 := s.modNode n fun x => { x with repeats := x.repeats.set p st.node, acts := x.acts.modify p (· ++ out) }
        .next (st.done.foldl (fun s c => s.unitDone c.fire) s1)

end Sys2Proof.Machine
end

