-- ==== Sys2Proof/Machine/Copy.lean ====
section
/-! DEFINITION. Copy engines: their instructions, descriptors, tiles, completion, spill rings and PUBLISH (spec/17_engines.md R305 to
R317; spec/18_instr_engines.md R326 to R334; spec/14_ordering.md R288, R289). -/

namespace Sys2Proof.Machine

/-! ## The instructions (R321, R326, R332 to R334) -/

/-- The checks of a copy command: B holds CLAIM alone, A a descriptor's address (R326). -/
def copyCheck (a b : Nat) : Option Trap := if b < 16 then addrTrap a 64 else some .badCmd
/-- The checks of FREED (R333). -/
def freedCheck (a b : Nat) : Option Trap := if b < 2 ^ 12 then addrTrap a 32 else some .badCmd

/-- CPY copies an iteration space (R307, R329). -/
def execCpy (o : Op) (s : State) : Host.Outcome State Fault Refusal :=
  fire (claimSem 2 fun v => copyCheck v.a.n64 v.b.n64) (.cpy o) s

/-- CPYR combines each source element into its destination element (R315, R329). -/
def execCpyr (o : Op) (s : State) : Host.Outcome State Fault Refusal :=
  fire (claimSem 2 fun v => copyCheck v.a.n64 v.b.n64) (.cpyr o) s

/-- CPYG copies with an indexed source coordinate in dimension 0 (R329). -/
def execCpyg (o : Op) (s : State) : Host.Outcome State Fault Refusal :=
  fire (claimSem 2 fun v => copyCheck v.a.n64 v.b.n64) (.cpyg o) s

/-- CPYS copies with an indexed destination coordinate in dimension 0 (R329). -/
def execCpys (o : Op) (s : State) : Host.Outcome State Fault Refusal :=
  fire (claimSem 2 fun v => copyCheck v.a.n64 v.b.n64) (.cpys o) s

/-- CPYM copies and then sends a matrix command (R317, R329). -/
def execCpym (o : Op) (s : State) : Host.Outcome State Fault Refusal :=
  fire (claimSem 2 fun v => copyCheck v.a.n64 v.b.n64) (.cpym o) s

/-- PUBLISH flips the publishable buffer whose record is at A; B is a scope word and names no unit (R262, R332). -/
def execPublish (o : Op) (s : State) : Host.Outcome State Fault Refusal :=
  fire (fun v =>
    match addrTrap v.a.n64 32 with
    | some t => .trap t 0 0 v.a.n64
    | none => if scopeOk v.b.n64 false then goCommand (256 * 2 + ((v.g.claimed 2).head?).getD 0) else .trap .badScope 0 0 v.a.n64) (.publish o) s

/-- FREED sends FREED notices to the streaming command whose ring record is at A (R314, R333). -/
def execFreed (o : Op) (s : State) : Host.Outcome State Fault Refusal :=
  fire (claimSem 2 fun v => freedCheck v.a.n64 v.b.n64) (.freed o) s

/-- CPYQ counts the region's commands on an engine that have not completed (R334). -/
def execCpyq (o : Op) (s : State) : Host.Outcome State Fault Refusal :=
  fire (claimSem 2 fun v => cmdIf (decide (v.b.n64 < 16))) (.cpyq o) s

/-! ## Descriptors (R326 to R328, R331) -/

/-- Bytes of an element (R326). -/
def esizeOf (c : Nat) : Nat := if c = 4 then 64 else 2 ^ c

/-- A dimension record (R327). -/
def dimOf (b : List Byte) : Dim :=
  let w := dbl b 0
  { ext := bits w 31 0 + 1, smode := bits w 32 32, dmode := bits w 33 33, sstart := sdbl b 8, sstride := sdbl b 16, sbound := dbl b 24
    dstart := sdbl b 32, dstride := sdbl b 40, dbound := dbl b 48 }

/-- A descriptor as its bytes give it, before the record it names has been read. -/
def descOf (b : List Byte) : Desc :=
  let w := dbl b 0
  { idxw := w.testBit 31, task := bits w 29 18, cnten := w.testBit 17, cwen := w.testBit 16, rop := bits w 15 12, dkind := bits w 11 10
    skind := bits w 9 8, esize := esizeOf (bits w 6 4)
    dims := (List.range (bits w 3 0 + 1)).map fun d => dimOf ((b.drop (64 + 64 * d)).take 64)
    sbase := dbl b 8, dbase := dbl b 16, cwaddr := dbl b 24, cwval := BitVec.ofNat 64 (dbl b 32), idxaddr := dbl b 40
    mxa := BitVec.ofNat 64 (dbl b 48), mxb := bits (dbl b 56) 15 8, mxop := bits (dbl b 56) 7 0
    bank := 0, bankSize := 0, ringBase := 0, ringSlots := 0, arrival := 0 }

/-- The element width of a reduction (R326). -/
def ropBytes (r : Nat) : Nat := if r = 1 then 2 else if r = 3 ∨ r = 8 ∨ r = 9 then 8 else 4

/-- The checks of a follow-on matrix command (R317, R325, R328). -/
def followOk (g : Region) (d : Desc) : Bool :=
  let a := d.mxa.toNat
  let b := d.mxb
  (g.claimed 1)[b % 16]?.isSome
    && (match d.mxop with
      | 0xC0 => (mloadCheck a b).isNone
      | 0xC1 => (mswapCheck b).isNone
      | 0xC2 => (mstreamCheck a b).isNone
      | 0xC3 => (mmodeCheck a b).isNone
      | 0xC4 => (mdrainCheck a b).isNone
      | 0xC5 => (mclrCheck a b).isNone
      | _ => false)

/-- The reserved fields and codes of a descriptor's words (R326, R327). -/
def reservedClear (b : List Byte) : Bool :=
  let w := dbl b 0
  bits w 63 32 == 0 && !w.testBit 30 && !w.testBit 7 && decide (bits w 15 12 ≤ 9) && decide (bits w 6 4 ≤ 4) && (bits w 9 8 == 0 || bits w 9 8 == 3)
    && bits (dbl b 56) 63 16 == 0
    && (List.range (bits w 3 0 + 1)).all fun d =>
      let r := (b.drop (64 + 64 * d)).take 64
      bits (dbl r 0) 63 34 == 0 && dbl r 56 == 0

/-- The fields that R328 checks, but for addresses computed in local scratch. -/
def Desc.sound (d : Desc) (g : Region) (opc : Nat) (b : List Byte) : Bool :=
  let indexed := opc == 0xD2 || opc == 0xD3
  reservedClear b && (opc == 0xD1 || d.rop == 0) && (opc != 0xD1 || (d.esize == ropBytes d.rop && d.dkind != 1 && d.dkind != 2))
    && (if indexed then d.idxaddr != 0 else d.idxaddr == 0)
    && (if opc == 0xD4 then followOk g d else d.mxop == 0 && d.mxa == 0)
    && (!d.cwen || d.cwaddr % 8 == 0)

/-! ## Addresses (R307, R329, R330) -/

/-- Elements of an iteration space. -/
def Desc.count (d : Desc) : Nat := (d.dims.map (·.ext)).foldl (· * ·) 1
/-- Tiles of a command: 4 KiB of destination bytes in element order (R309). [DEDUCED: log 57] -/
def Desc.tiles (d : Desc) : Nat := (d.count * d.esize + 4095) / 4096

/-- The index vector of element n, dimension 0 fastest. -/
def indexOf : List Dim → Nat → List Nat
  | [], _ => []
  | d :: r, n => n % d.ext :: indexOf r (n / d.ext)

/-- One side of a dimension at an element: coordinate, stride, bound, whether it faults. -/
structure Axis where
  c : Int
  stride : Int
  bound : Nat
  faults : Bool

/-- What an address comes to; a fault names its dimension. -/
inductive Formed where
  | skip
  | addr (a : Nat)
  | fault (code dim : Nat)
deriving DecidableEq, Repr

/-- The bound checks of a side from dimension d on: the first dimension that faults, else whether the element is skipped (R307). -/
def boundsOf : List Axis → Nat → Bool → Nat ⊕ Bool
  | [], _, k => .inr k
  | x :: r, d, k =>
    if x.c < 0 ∨ (x.bound : Int) ≤ x.c then (if x.faults then .inl d else boundsOf r (d + 1) true) else boundsOf r (d + 1) k

/-- A value outside the signed arithmetic of 80 bits (R307). -/
def over80 (x : Int) : Bool := decide (x < -(2 ^ 79)) || decide (2 ^ 79 ≤ x)

/-- The running sum of an address from dimension d on; on overflow, the dimension (R307). -/
def sumOf : List Axis → Nat → Int → Nat ⊕ Int
  | [], _, a => .inr a
  | x :: r, d, a => let p := x.c * x.stride; if over80 p || over80 (a + p) then .inl d else sumOf r (d + 1) (a + p)

/-- The dimension with the largest |c × t|, the lowest on ties (R307). -/
def widest (axes : List Axis) : Nat :=
  ((axes.mapIdx fun k x => (k, (x.c * x.stride).natAbs)).foldl (fun (b : Nat × Nat) x => if b.2 < x.2 then x else b) (0, 0)).1

/-- The address of one side of an element of `size` bytes in a space of `limit` bytes (R307, R330). -/
def formAddr (axes : List Axis) (base limit size : Nat) : Formed :=
  match boundsOf axes 0 false with
  | .inl d => .fault cCopyBounds d
  | .inr true => .skip
  | .inr false => match sumOf axes 0 base with
    | .inl d => .fault cCopyAddrOvf d
    | .inr a => if a < 0 ∨ (limit : Int) < a + size then .fault cCopyAddrOvf (widest axes) else .addr a.toNat

/-- The axes of a side; `ix` replaces the index of dimension 0 (R329). -/
def sideAxes (src : Bool) (ds : List Dim) (iv : List Nat) (ix : Option Int) : List Axis :=
  (List.zip ds iv).mapIdx fun k p =>
    let i : Int := match k, ix with | 0, some j => j | _, _ => p.2
    if src then { c := p.1.sstart + i, stride := p.1.sstride, bound := p.1.sbound, faults := p.1.smode == 1 }
    else { c := p.1.dstart + i, stride := p.1.dstride, bound := p.1.dbound, faults := p.1.dmode == 1 }

/-- The source and destination addresses of an element. -/
def Desc.source (d : Desc) (iv : List Nat) (ix : Option Int) : Formed := formAddr (sideAxes true d.dims iv ix) d.sbase (2 ^ 57) d.esize
def Desc.dest (d : Desc) (iv : List Nat) (ix : Option Int) : Formed :=
  let axes := sideAxes false d.dims iv ix
  if d.dkind = 1 then formAddr axes 0 d.bankSize d.esize
  else if d.dkind = 2 then formAddr axes 0 (2 ^ 57) d.esize
  else formAddr axes d.dbase (2 ^ 57) d.esize

/-- A valid region scratch address of a region (R228). -/
def scratchValid (g : Region) (a size : Nat) : Bool :=
  decide (a < 2 ^ 30) && decide (bits a 23 18 < g.hdr.w) && decide (bits a 29 24 < g.hdr.h)
    && decide (bits a 17 0 + size ≤ (if g.hdr.undo then Config.undoBase else Config.globalBase))

/-- A command's addresses in local scratch depend on its index array (R328, R329). -/
def Desc.scratchByIndex (d : Desc) (opc : Nat) : Bool := (opc == 0xD2 && d.skind == 3) || (opc == 0xD3 && d.dkind == 3)

/-- Every address that a command computes in local scratch is valid; an entry of the index array that cannot be read faults when its element
moves (R328, R369). -/
def Desc.scratchOk (d : Desc) (g : Region) (idx : Nat → Option Int) (opc : Nat) : Bool :=
  (d.skind != 3 && d.dkind != 3) || (List.range d.count).all fun n =>
    let iv := indexOf d.dims n
    let ix := idx (iv.headD 0)
    let ok := fun (f : Formed) => match f with | .addr a => scratchValid g a d.esize | _ => true
    (d.skind != 3 || (opc == 0xD2 && ix.isNone) || ok (d.source iv (if opc = 0xD2 then ix else none)))
      && (d.dkind != 3 || (opc == 0xD3 && ix.isNone) || ok (d.dest iv (if opc = 0xD3 then ix else none)))

/-! ## Starting a command (R305, R328, R331) -/

/-- The command that an engine starts next: of the lowest class that runs none, the first to arrive (R305). -/
def CopyEngine.next (x : CopyEngine) : Option Cmd :=
  (List.range 4).findSome? fun c => if x.running.any (·.cmd.cls == c) then none else x.queue.find? (·.cls == c)

/-- A record that a descriptor names: its 32 bytes as the engine reads them, with the checks of R328 and R331; a fault code otherwise. -/
inductive Named where
  | ok (d : Desc) (s : State)
  | held (va code : Nat)
  | bad (code : Nat)

/-- The buffer or ring record at DBASE is read (R331). -/
def State.readRecord (s : State) (g : Nat) (d : Desc) : Named :=
  if d.dkind ≠ 1 ∧ d.dkind ≠ 2 then .ok d s
  else if 2 ^ 57 ≤ d.dbase ∨ d.dbase % 32 ≠ 0 then .bad cCopyBaddesc
  else match s.unitRead g 2 d.dbase 32 with
    | .held va cd => .held va cd
    | .done (b, bad) s1 =>
      if bad then .bad cDataPoison
      else if !s1.inGlobal d.dbase then .bad cCopyBaddesc
      else if d.dkind = 1 then
        if 2 ≤ dbl b 0 then .bad cCopyBaddesc
        else .ok { d with bank := dbl b (if dbl b 0 = 0 then 16 else 8), bankSize := dbl b 24 } s1
      else
        let n := dbl b 8
        if 65 ≤ n ∨ n = 0 ∨ dbl b 24 ≠ 0 ∨ dbl b 0 % 4096 ≠ 0 then .bad cCopyBaddesc
        else .ok { d with ringBase := dbl b 0, ringSlots := n, arrival := dbl b 16 } s1

/-- Bytes of an entry of an index array (R326). -/
def Desc.indexBytes (d : Desc) : Nat := if d.idxw then 8 else 4

/-- Entry j of an index array, sign-extended (R329), as region g sees it, where it can be read: used where every address must be known before any
byte moves. -/
def State.peekIndex (s : State) (g : Nat) (d : Desc) (j : Nat) : Option Int :=
  match s.unitRead g 2 (d.idxaddr + j * d.indexBytes) d.indexBytes with
  | .done (b, bad) _ => if bad then none else some (sextN (leNat b) (8 * d.indexBytes))
  | .held _ _ => none

/-- The first page of a command's index array that does not translate, where addresses that R328 checks depend on it. -/
def State.indexHeld (s : State) (g : Nat) (d : Desc) (opc : Nat) : Option (Nat × Nat) :=
  let n := d.indexBytes * (d.dims.map (·.ext)).headD 1
  if !d.scratchByIndex opc then none
  else match s.unitRead g (n / 4096 + 2) d.idxaddr n with
    | .held va cd => some (va, cd)
    | .done _ _ => none

/-- An engine starts a command: its descriptor is read once (R328). -/
def State.startCopy (s : State) (n : Nat) (c : Cmd) (g : Region) : State :=
  let a := c.a.toNat
  let u := 512 + n
  match s.unitRead g.id 2 a 64 with
  | .held va cd => s.withhold u c va cd false
  | .done (h, bad) s1 =>
    match s1.unitRead g.id 2 (a + 64) (64 * (bits (dbl h 0) 3 0 + 1)) with
    | .held va cd => s.withhold u c va cd false
    | .done (r, bad2) s2 =>
      let d := descOf (h ++ r)
      let fail := fun (cd : Nat) => s2.copyFault n c cd a
      if bad || bad2 then fail cDataPoison
      else if !s2.inDescriptorPages a (bits (dbl h 0) 3 0 + 2) || !d.sound g c.opc (h ++ r) then fail cCopyBaddesc
      else match s2.readRecord g.id d with
        | .held va cd => s.withhold u c va cd false
        | .bad cd => fail cd
        | .ok d s3 => match s3.indexHeld g.id d c.opc with
          | some (va, cd) => s.withhold u c va cd false
          | none =>
          if !d.scratchOk g (s3.peekIndex g.id d) c.opc then s3.copyFault n c cCopyBaddesc a
          else s3.modEngine n fun e =>
            { e with queue := e.queue.filter (·.fire != c.fire)
                     running := e.running ++ [{ cmd := c, desc := d, tile := 0, freed := 0, written := 0, shadows := [], published := false, counted := false }] }

/-- COPY_COMMAND_START: an engine starts the command that comes next, reading its descriptor once (R305, R328). -/
def execCopyCommandStart (n : Nat) (s : State) : Host.Outcome State Fault Refusal :=
  match (s.engine n).next with
  | none => .next s
  | some c => match s.region? c.region with
    | none => .next s
    | some g => guarded (!s.dbg.stopped && !s.holdsUnit c.fire && g.cut == .none) s (s.startCopy n c g)

/-! ## Tiles (R307 to R316) -/

/-- What moving a byte range comes to: the shadows and the physical ranges written, or what stands against it and what its fault names (R308). -/
inductive Moved where
  | ok (s : State) (sh : List Shadow) (put : List (Nat × Nat))
  | held (va code : Nat) (wr : Bool) (named : List Int)
  | wait
  | fault (s : State) (code addr : Nat) (named : List Int)

/-- The same, with what its fault names. -/
def Moved.naming (m : Moved) (l : List Int) : Moved :=
  match m with
  | .held va cd wr _ => .held va cd wr l
  | .fault s cd a _ => .fault s cd a l
  | x => x

/-- The same, after a range has been written. -/
def Moved.after (m : Moved) (p n : Nat) : Moved :=
  match m with
  | .ok s sh put => .ok s sh ((p, n) :: put)
  | x => x

/-- The value that lands at a destination (R315, R329): the source, or under CPYR the combination of the old bytes with it. -/
def reduceBytes (rop size : Nat) (old src : List Byte) : List Byte :=
  let x := leNat old
  let y := leNat src
  let n := 8 * size
  natLe size
    (match rop with
    | 0 => (sumOut .rne 7 (decodeLane 7 x) (decodeLane 7 y) 0).1
    | 1 => (sumOut .rne 8 (decodeLane 8 x) (decodeLane 8 y) 0).1
    | 2 | 3 => (x + y) % 2 ^ n
    | 4 => (minMax (fun a b => a.less b) 7 x y).1
    | 5 => (minMax (fun a b => b.less a) 7 x y).1
    | 6 | 8 => if leS n x y then y else x
    | _ => if leS n y x then y else x)

/-- Bytes at a destination in pages: its shadow takes them, opened first where the page has none (R310). `f` gives the new bytes from
the old ones. A range over two pages is written in two pieces. -/
def State.toPages (s : State) (g d fire : Nat) (sh : List Shadow) : Nat → Nat → List Byte → Moved
  | 0, _, _ => .ok s sh []
  | fuel + 1, va, b =>
    if b.isEmpty then .ok s sh []
    else
      let page := va / 4096 * 4096
      let k := min b.length (page + 4096 - va)
      let go := fun (s : State) (x : Shadow) (sh : List Shadow) =>
        ((s.perform (x.frame + (va - page)) (b.take k)).toPages g d fire sh fuel (va + k) (b.drop k)).after (x.frame + (va - page)) k
      match sh.find? (·.page == page) with
      | some x => go s x sh
      | none => match s.openShadow g d fire page with
        | .held cd => .held page cd true []
        | .fault cd => .fault s cd va []
        | .wait => .wait
        | .opened x s1 => go s1 x (insertShadow x sh)

/-- The bytes that a command's destination holds in its shadow, or in the page as its region sees it. -/
def State.destBytes (s : State) (g : Nat) (sh : List Shadow) (va n : Nat) : List Byte :=
  (List.range n).map fun i =>
    let a := va + i
    match sh.find? (·.page == a / 4096 * 4096) with
    | some x => memGet s.mem (x.frame + a % 4096)
    | none => match s.lookup a false with
      | .leaf t => s.byteFor g (t.pa a)
      | .fail _ => 0

/-- A byte of them that cannot be read (R369). -/
def State.destPoisoned (s : State) (sh : List Shadow) (va n : Nat) : Bool :=
  (List.range n).any fun i =>
    let a := va + i
    match sh.find? (·.page == a / 4096 * 4096) with
    | some x => s.poisoned (x.frame + a % 4096) 1
    | none => match s.lookup a false with
      | .leaf t => s.poisoned (t.pa a) 1
      | .fail _ => false

/-- The virtual address of offset a of a publishable buffer or a streaming ring (R330, R331). -/
def Desc.place (d : Desc) (a : Nat) : Nat := if d.dkind = 1 then d.bank + a else d.ringBase + 4096 * (a / 4096 % d.ringSlots) + a % 4096

/-- Bytes written directly at offset a of a destination in a global part, page by page, an effect outside the region (R313, R330, R366). A page
under migration is waited for (R311). -/
def State.toGlobal (s : State) (g inv : Nat) (d : Desc) (sh : List Shadow) : Nat → Nat → List Byte → Moved
  | 0, _, _ => .ok s sh []
  | fuel + 1, a, b =>
    if b.isEmpty then .ok s sh []
    else
      let va := d.place a
      let k := 4096 - va % 4096
      match s.translate (s.agentOf g) va true false false with
      | (.fail cd, _) => .held va cd true []
      | (.pa p, s1) =>
        if !isGlobal p then .fault s1 cCopyDstpage va []
        else if s1.migrating va then .wait
        else (((s1.putBytes p (b.take k)).markX g inv).toGlobal g inv d sh fuel (a + k) (b.drop k)).after p k

/-- The bytes of a source element (R307, R330): zero where it is skipped. -/
def State.fromSource (s : State) (g : Region) (d : Desc) (f : Formed) : Reach (List Byte × Bool) :=
  match f with
  | .addr a =>
    if d.skind = 3 then
      let p := g.scratchPa a
      .done (s.readFor g.id p d.esize, s.poisoned p d.esize) s
    else s.unitRead g.id 2 a d.esize
  | _ => .done (List.replicate d.esize 0, false) s

/-- What a fault of an element names: the side (0 source, 1 destination), the dimension (-1 where none is concerned) and the index vector (R307,
R308). [DEDUCED: log 71] -/
def naming (side : Nat) (dim : Int) (iv : List Nat) : List Int := (side : Int) :: dim :: iv.map fun (i : Nat) => (i : Int)

/-- One element moves (R307, R315, R329, R330). [DEDUCED: log 57] -/
def State.moveElem (s : State) (n : Nat) (r : Running) (g : Region) (sh : List Shadow) (j : Nat) : Moved :=
  let d := r.desc
  let opc := r.cmd.opc
  let iv := indexOf d.dims j
  let w := d.indexBytes
  let ia := d.idxaddr + iv.headD 0 * w
  let indexed := opc == 0xD2 || opc == 0xD3
  let byIndex := naming (if opc = 0xD2 then 0 else 1) 0 iv
  let srcN := naming 0 (-1) iv
  let dstN := naming 1 (-1) iv
  match (if indexed then s.unitRead g.id 2 ia w else .done ([], false) s) with
  | .held va cd => .held va cd false byIndex
  | .done (ib, bad0) s0 =>
    let ix : Int := sextN (leNat ib) (8 * w)
    let src := d.source iv (if opc = 0xD2 then some ix else none)
    let dst := d.dest iv (if opc = 0xD3 then some ix else none)
    if bad0 then .fault s0 cDataPoison ia byIndex
    else match src, dst with
      | .fault cd k, _ => .fault s0 cd r.cmd.a.toNat (naming 0 k iv)
      | _, .fault cd k => .fault s0 cd r.cmd.a.toNat (naming 1 k iv)
      | _, _ => match s0.fromSource g d src with
        | .held va cd => .held va cd false srcN
        | .done (b, bad) s1 =>
          if bad then .fault s1 cDataPoison (match src with | .addr a => a | _ => 0) srcN
          else match dst with
            | .addr a =>
              let old := if d.dkind = 3 then s1.readFor g.id (g.scratchPa a) d.esize else s1.destBytes g.id sh a d.esize
              let lost := if d.dkind = 3 then s1.poisoned (g.scratchPa a) d.esize else s1.destPoisoned sh a d.esize
              let v := if opc = 0xD1 then reduceBytes d.rop d.esize old b else b
              if opc = 0xD1 ∧ lost then .fault s1 cDataPoison a dstN
              else match d.dkind with
              | 0 => (s1.toPages g.id (n / 8) r.cmd.fire sh 3 a v).naming dstN
              | 1 | 2 => (s1.toGlobal g.id r.cmd.inv d sh 3 a v).naming dstN
              | _ => .ok (s1.writeLocal g r.cmd.inv (g.scratchPa a) v) sh [(g.scratchPa a, d.esize)]
            | _ => .ok s1 sh []

/-- The elements of a tile move in order. -/
def State.moveElems (s : State) (n : Nat) (r : Running) (g : Region) (sh : List Shadow) : Nat → Nat → Moved
  | _, 0 => .ok s sh []
  | j, k + 1 =>
    match s.moveElem n r g sh j with
    | .ok s1 sh1 p => (match s1.moveElems n r g sh1 (j + 1) k with
      | .ok s2 sh2 q => .ok s2 sh2 (p ++ q)
      | x => x)
    | x => x

/-- Blocks of which the writes of a tile cover all 64 bytes are stored with fresh ECC (R369). -/
def State.healed (s : State) (put : List (Nat × Nat)) : State :=
  { s with poison := s.poison.filter fun k => !(List.range 64).all fun i => put.any fun w => decide (w.1 ≤ 64 * k + i) && decide (64 * k + i < w.1 + w.2) }

/-- The next tile of a running command may start (R309, R314). -/
def Running.open (r : Running) : Bool :=
  decide (r.tile < r.desc.tiles) && (r.desc.dkind != 2 || decide (r.tile < r.desc.ringSlots + r.freed))

/-- The state of a running command changed. -/
def State.modRunning (s : State) (n fire : Nat) (f : Running → Running) : State :=
  s.modEngine n fun e => { e with running := e.running.map fun r => if r.cmd.fire == fire then f r else r }

/-- A tile of a running command moves: its elements, then, in a ring, its arrival word (R309, R314). None where it must wait. A fault leaves
nothing in pages, and in local scratch what the elements before it wrote (R308, R316). [DEDUCED: log 57] -/
def State.moveTile (s : State) (n : Nat) (r : Running) (g : Region) : Option State :=
  let per := 4096 / r.desc.esize
  let first := r.tile * per
  let c := r.cmd
  match s.moveElems n r g r.shadows first (min per (r.desc.count - first)) with
  | .wait => none
  | .held va cd wr named => some (s.withhold (512 + n) c va cd wr named)
  | .fault s1 cd a named => some ((if r.desc.dkind = 0 then s else s1).copyFault n c cd a named)
  | .ok s0 sh put =>
    let s1 := s0.healed put
    let bytes := min 4096 (r.desc.count * r.desc.esize - r.tile * 4096)
    let next := fun (s : State) =>
      let s2 := s.modRunning n c.fire fun x => { x with tile := x.tile + 1, written := if r.desc.dkind = 2 then r.tile + 1 else 0, shadows := sh }
      let s3 := s2.modEngine n fun e => { e with busy := s.tick + (bytes + 63) / 64 }
      if s3.traced g.id then s3.perf 6 bytes else s3
    if r.desc.dkind = 2 then
      if s1.migrating r.desc.arrival then none
      else match s1.unitWrite g.id r.desc.arrival (natLe 8 (r.tile + 1)) with
      | .held va cd => some (s.withhold (512 + n) c va cd true)
      | .done _ s2 => some (next s2)
    else some (next s1)

/-- The region of a command that no cut holds back (R373). -/
def State.working (s : State) (c : Cmd) : Option Region := (s.region? c.region).bind fun g => if g.cut = .none then some g else none

/-- The running commands of an engine in class order (R305). -/
def CopyEngine.ordered (x : CopyEngine) : List Running := (List.range 4).flatMap fun c => x.running.filter (·.cmd.cls == c)

/-- COPY_TILE: the running command of the lowest class that can move its next tile does so (R305, R309). [DEDUCED: log 57] -/
def execCopyTile (n : Nat) (s : State) : Host.Outcome State Fault Refusal :=
  let x := s.engine n
  if s.dbg.stopped || decide (s.tick < x.busy) then .next s
  else
    match x.ordered.findSome? fun r =>
      if r.open && !s.holdsUnit r.cmd.fire then (s.working r.cmd).bind fun g => s.moveTile n r g else none with
    | some t => .next t
    | none => .next s

/-! ## Completion (R288, R289, R317, R324) -/

/-- The first page of a command whose translation is gone at its publication. -/
def State.lostPage (s : State) (l : List Shadow) : Option (Nat × Nat) :=
  l.findSome? fun x => match s.lookup x.page false with | .fail cd => some (x.page, cd) | .leaf _ => none

/-- The follow-on matrix command of a CPYM (R317). -/
def Running.follow (r : Running) : Cmd := { r.cmd with opc := r.desc.mxop, a := r.desc.mxa, b := BitVec.ofNat 64 r.desc.mxb }

/-- The node that a follow-on command names. -/
def followNode (g : Region) (d : Desc) : Nat := ((g.claimed 1)[d.mxb % 16]?).getD 0

/-- A command is over: it leaves the engine, and its fire has its reply; the follow-on of a CPYM enters its node, which replies in its
place (R317, R324). -/
def State.endCommand (s : State) (n : Nat) (r : Running) (g : Region) : State :=
  let s1 := s.modEngine n fun e => { e with running := e.running.filter (·.cmd.fire != r.cmd.fire) }
  if r.cmd.opc = 0xD4 then
    let u := followNode g r.desc
    (s1.modFlight r.cmd.fire fun f => match f.wait with | .unit _ => { f with wait := .unit (256 + u) } | _ => f).enterNode u r.follow
  else s1.unitDone r.cmd.fire

/-- The steps of R289 of a command whose tiles have all moved: its pages are published; its completion word is written and its counter
decremented; it is over, once the node of a follow-on command has room. -/
def State.finishCopy (s : State) (n : Nat) (r : Running) (g : Region) : Option State :=
  let d := r.desc
  let c := r.cmd
  if !r.published then
    match s.lostPage r.shadows with
    | some (page, cd) => some (s.withhold (512 + n) c page cd true)
    | none =>
      let s1 := (s.publishAll (n / 8) r.shadows).modRunning n c.fire fun x => { x with published := true, shadows := [] }
      some (if r.shadows.isEmpty then s1 else s1.markX g.id c.inv)
  else if !r.counted then
    if d.cwen && s.migrating d.cwaddr then none
    else match (if d.cwen then s.unitWrite g.id d.cwaddr (wordLe 8 d.cwval) else .done () s) with
    | .held va cd => some (s.withhold (512 + n) c va cd true)
    | .done _ s1 =>
      let s2 := if d.cnten then (s1.decrement d.task 1).markX g.id c.inv else s1
      some (s2.modRunning n c.fire fun x => { x with counted := true })
  else if c.opc = 0xD4 && decide (16 ≤ (s.node (followNode g d)).held) then none
  else some (s.endCommand n r g)

/-- A copy command of the context of a PUBLISH, decided before it, whose destination is the publishable buffer of the record, has still to
write bytes (R332): a running one by its descriptor, a waiting one as its descriptor now stands. [DEDUCED: log 59] -/
def State.publishBlocked (s : State) (p : Cmd) : Bool :=
  let mine := fun (c : Cmd) => c.elem == p.elem && c.ctx == p.ctx && decide (c.fire < p.fire)
  let names := fun (c : Cmd) => match s.unitRead c.region 2 c.a.toNat 64 with
    | .done (b, _) _ => let d := descOf b; d.dkind == 1 && d.dbase == p.a.toNat
    | .held _ _ => true
  (s.engines.any fun e =>
    (e.2.running.any fun r => mine r.cmd && r.desc.dkind == 1 && r.desc.dbase == p.a.toNat && decide (r.tile < r.desc.tiles))
      || (e.2.queue ++ e.2.spilled).any fun c => mine c && names c)
  || s.flights.any fun f => (match f.wait with | .unitSend _ => inR f.opc 0xD0 0xD4 | _ => false) && mine (s.cmdOf f) && names (s.cmdOf f)

/-- PUBLISH flips its buffer's bank select, in one step, never held, after a release at its scope; the reply is the new value (R280, R288,
R332, R366). A bank word that cannot be read is a fault of its engine (R308, R369). [DEDUCED: log 59] -/
def State.flip (s : State) (n : Nat) (p : Cmd) : State :=
  let s1 := s.release p.region p.elem p.ctx p.inv p.fire (p.b.toNat % 16)
  match s1.translate (s1.agentOf p.region) p.a.toNat true false false with
  | (.fail cd, _) => s.withhold (512 + n) p p.a.toNat cd true
  | (.pa pa, s2) =>
    if s2.poisoned pa 8 then s2.copyFault n p cDataPoison p.a.toNat
    else
    let sel := 1 - s2.double pa % 2
    let s3 := (s2.putBytes pa (natLe 8 (s2.double pa / 2 * 2 + sel))).markX p.region p.inv
    (s3.modEngine n fun e => { e with pubs := e.pubs.filter (·.fire != p.fire) }).unitReply p.fire sel

/-- The PUBLISH of an engine that may flip now. [DEDUCED: log 59] -/
def State.publishReady (s : State) (n : Nat) : Option Cmd :=
  (s.engine n).pubs.find? fun p => !s.publishBlocked p && !s.migrating p.a.toNat && !s.holdsUnit p.fire && (s.working p).isSome

/-- COPY_COMPLETE: a command whose tiles have all moved publishes its pages, writes its completion word, decrements its counter and is over
(R288, R289, R317); a PUBLISH whose copies have written their last bytes flips its buffer (R332). -/
def execCopyComplete (n : Nat) (s : State) : Host.Outcome State Fault Refusal :=
  if s.dbg.stopped then .next s
  else match s.publishReady n with
    | some p => .next (s.flip n p)
    | none =>
      match (s.engine n).ordered.findSome? fun r =>
        if r.tile = r.desc.tiles && !s.holdsUnit r.cmd.fire then (s.working r.cmd).bind fun g => s.finishCopy n r g else none with
      | some t => .next t
      | none => .next s

/-! ## Spill rings and retired frames (R305, R306, R310, R312) -/

/-- SPILL_RETURN: room has freed in the queue, and the oldest spilled command returns to it (R305). -/
def execSpillReturn (n : Nat) (s : State) : Host.Outcome State Fault Refusal :=
  let x := s.engine n
  match x.spilled with
  | [] => .next s
  | c :: rest =>
    guarded (decide (x.queue.length < 256) && !s.dbg.stopped) s
      (s.modEngine n fun e => { e with spilled := rest, queue := e.queue ++ [c], sp := { e.sp with head := e.sp.head + 1 } })

/-- An access translated under a 4 KiB frame is still in the slice of its owner (R310). -/
def State.frameHeld (s : State) (f : Nat) : Bool :=
  s.accesses.any fun a => s.inSlice a && (match s.placeOf a with | some p => p / 4096 == f / 4096 | none => false)

/-- RETIRED_FRAME_POST: a retired frame is posted to its die's ring, once every access translated under it has left its owner (R310, R312). -/
def execRetiredFramePost (d : Nat) (s : State) : Host.Outcome State Fault Refusal :=
  let f := s.frame d
  match f.retiring with
  | [] => .next s
  | x :: rest =>
    guarded (f.rf.en && !f.rf.full && !s.frameHeld x && !s.dbg.stopped) s
      ((s.perform (f.rf.entry f.rf.tail 8) (natLe 8 x)).modFrame d fun f => { f with retiring := rest, rf := { f.rf with tail := f.rf.tail + 1 } })

end Sys2Proof.Machine
end

