-- ==== Sys2Proof/Machine/Flit.lean ====
section
/-! DEFINITION. Brezil flits (spec/23_scale.md R393, R394): their fields and CRC, and how a package sends one. -/

namespace Sys2Proof.Machine

/-- A field of a flit. -/
def flitBits (x : Flit) (hi lo : Nat) : Nat := bits x.toNat hi lo
def flitSeq (x : Flit) : BitVec 16 := BitVec.ofNat 16 (flitBits x 63 48)
def flitAck (x : Flit) : BitVec 16 := BitVec.ofNat 16 (flitBits x 47 32)
def flitKind (x : Flit) : Nat := flitBits x 31 24
def flitDst (x : Flit) : Nat := flitBits x 23 13
def flitSrc (x : Flit) : Nat := flitBits x 12 2
/-- The 240 payload bytes, the first at the low end. -/
def flitPayload (x : Flit) : List Byte := natLe 240 (flitBits x 1983 64)

/-- One bit of CRC-64, ECMA-182 polynomial. -/
def crc64Bit (c : Word) (b : Bool) : Word := if c.msb != b then (c <<< 1) ^^^ 0x42F0E1EBA9EA3693#64 else c <<< 1
/-- The CRC over bits 1983:0 of a flit, the highest first. [DEDUCED: log 29] -/
def flitCrc (x : Nat) : Word := (List.range 1984).foldl (fun c i => crc64Bit c (x.testBit (1983 - i))) 0

/-- A flit of its fields. -/
def makeFlit (seq ack : BitVec 16) (kind dst src : Nat) (payload : List Byte) : Flit :=
  let low := leNat (payload.take 240) * 2 ^ 64 + seq.toNat * 2 ^ 48 + ack.toNat * 2 ^ 32 + kind % 256 * 2 ^ 24 + dst % 2 ^ 11 * 2 ^ 13 + src % 2 ^ 11 * 4
  BitVec.ofNat 2048 ((flitCrc low).toNat * 2 ^ 1984 + low)

def State.link (s : State) (j : Nat) : BrezilLink := s.part.links.getD j {}
def State.modLink (s : State) (j : Nat) (f : BrezilLink → BrezilLink) : State := { s with part := { s.part with links := s.part.links.modify j f } }

/-- A link carries flits. -/
def State.linkRuns (s : State) (j : Nat) : Bool := decide (j < 18) && (s.link j).up && !(s.link j).fenced

/-- A flit is sent, and stays in the retry buffer (R393). -/
def BrezilLink.put (l : BrezilLink) (m : Nat × Nat × Nat × List Byte) : BrezilLink :=
  let x := makeFlit l.txSeq l.rxSeq m.1 m.2.1 m.2.2.1 m.2.2.2
  { l with out := l.out ++ [x], retry := l.retry ++ [x], txSeq := l.txSeq + 1 }

/-- What waits is sent, as far as the retry buffer of 512 flits has room for n more (R393). [DEDUCED: log 29] -/
def BrezilLink.drain : Nat → BrezilLink → BrezilLink
  | 0, l => l
  | n + 1, l =>
    match l.waiting with
    | [] => l
    | m :: r => if l.retry.length < 512 then ({ l with waiting := r }.put m).drain n else l

/-- A flit is sent on a link, behind what waits for room in its retry buffer (R393). [DEDUCED: log 29] -/
def State.sendFlit (s : State) (j kind dst src : Nat) (payload : List Byte) : State :=
  if s.linkRuns j then
    s.modLink j fun l => let l1 := { l with waiting := l.waiting ++ [(kind, dst, src, payload)] }; l1.drain l1.waiting.length
  else s

/-- The link that the route table names for a device (R394). -/
def State.routeTo (s : State) (d : Nat) : Option Nat :=
  let b := (memGet s.mem (s.part.rtbase.toNat + d)).toNat
  if b < 18 then some b else none

/-- A payload is sent to a device, where a route leads to it. -/
def State.sendTo (s : State) (d kind : Nat) (payload : List Byte) : State :=
  match s.routeTo d with
  | some j => s.sendFlit j kind d s.part.devid payload
  | none => s

/-- The other devices that the route table has a running link for. -/
def State.peers (s : State) : List Nat :=
  (List.range 2048).filter fun d => d != s.part.devid && (match s.routeTo d with | some j => s.linkRuns j | none => false)

/-- A payload is sent to every other device. -/
def State.sendAll (s : State) (kind : Nat) (payload : List Byte) : State := s.peers.foldl (fun s d => s.sendTo d kind payload) s

end Sys2Proof.Machine
end

