-- ==== Sys2Proof/Machine/Collective.lean ====
section
/-! DEFINITION. Collective engines (spec/17_engines.md R318; spec/18_instr_engines.md R335, R336; spec/23_scale.md R395). -/

namespace Sys2Proof.Machine

/-! ## COLL and COLLARG (R321, R335) -/

/-- The collective engine of a region's fires (R321): that of its claim on the issuing element's die, or of its first claim. -/
def Region.collOf (g : Region) (e : Nat) : Nat :=
  let l := g.claimed 4
  (l.find? fun d => d == tileDie (elemTile e)).getD (l.headD 0)

/-- The decision of a collective fire: every bit of B is reserved, and A is a record's address (R335). -/
def collSem (v : Env) : Dec :=
  if v.b.n64 ≠ 0 then .trap .badCmd 0 0 0
  else match addrTrap v.a.n64 64 with
    | some t => .trap t 0 0 v.a.n64
    | none => goCommand (256 * 4 + v.g.collOf v.e)

/-- COLL joins a reduction or a broadcast over a group (R318, R335). -/
def execColl (o : Op) (s : State) : Host.Outcome State Fault Refusal := fire collSem (.coll o) s

/-- COLLARG joins a reduction of (value, index) pairs over a group (R318, R335). -/
def execCollarg (o : Op) (s : State) : Host.Outcome State Fault Refusal := fire collSem (.collarg o) s

/-! ## Participant records (R335, R336) -/

/-- The element width of a collective (R335). -/
def collWidth (arg bcast : Bool) (rop : Nat) : Nat := if arg then 8 else if bcast then 1 else ropBytes rop

/-- A participant from its record; `sound` says that no reserved field or code is set, that RANK and a broadcast's ROOT are below the
number of participants, and that LEN is a multiple of the element up to 2^32. -/
def recordOf (c : Cmd) (b : List Byte) : Participant :=
  let w := dbl b 0
  let x := dbl b 48
  let arg := c.opc == 0xD8
  let bcast := w.testBit 44
  let rop := bits w 43 40
  let nm1 := bits w 39 28
  let rank := bits w 27 16
  let len := dbl b 24
  let sound := bits w 63 57 == 0 && bits x 63 14 == 0 && dbl b 56 == 0 && decide (rop ≤ 9) && (!arg || (!bcast && rop == 0)) && (!bcast || rop == 0)
    && decide (rank ≤ nm1) && (!bcast || decide (bits w 56 45 ≤ nm1)) && decide (len ≤ 2 ^ 32) && len % collWidth arg bcast rop == 0
  { cmd := c, arg := arg, sound := sound, root := bits w 56 45, bcast := bcast, rop := rop, nm1 := nm1, rank := rank, group := bits w 15 0
    src := dbl b 8, dst := dbl b 16, len := len, cwaddr := dbl b 32, cwval := BitVec.ofNat 64 (dbl b 40), cwen := x.testBit 13
    cnten := x.testBit 12, task := bits x 11 0, remote := false, data := [], told := false, pos := 0, shadows := [] }

/-- The round of a group that is gathered or runs here: how many have ended. [DEDUCED: log 60] -/
def State.round (s : State) (grp : Nat) : Nat := tget s.part.rounds grp 0

/-- The participants of a round of a group on every die, with the die each has come to. -/
def State.groupOf (s : State) (grp r : Nat) : List (Nat × Participant) :=
  s.colls.flatMap fun p => (p.2.filter fun q => q.group == grp && q.round == r).map fun q => (p.1, q)

/-- The participants of a group's present round (R336, R395). -/
def State.group (s : State) (grp : Nat) : List (Nat × Participant) := s.groupOf grp (s.round grp)

/-- What the records of a group must agree in (R336). -/
def Participant.key (p : Participant) : Bool × Nat × Bool × Nat × Nat × Nat := (p.arg, p.nm1, p.bcast, p.rop, p.root, p.len)

/-- The records of a group do not fit together (R336). [DEDUCED: log 60] -/
def mismatched (l : List Participant) : Bool :=
  l.any (fun p => !p.sound) || !(l.map (·.rank)).Nodup || l.any fun p => p.key != (l.head?.map (·.key)).getD p.key

/-- The group is complete: NM1 + 1 records (R336). -/
def groupComplete (l : List Participant) : Bool := match l with | p :: _ => l.length == p.nm1 + 1 | [] => false

/-- The round of a group that a record of this package joins: the first that is not complete. [DEDUCED: log 60] -/
def State.openRound (s : State) (grp : Nat) : Nat :=
  let r := s.round grp
  (((List.range 65).map (r + ·)).find? fun n => !groupComplete ((s.groupOf grp n).map (·.2))).getD r

/-! ## The reduction (R149, R150, R318) -/

/-- A pair wins over another: the greater value, NaN lowest, ties to the lower index (R318). -/
def pairWins (x y : Nat) : Bool :=
  let a := decodeLane 7 (x % 2 ^ 32)
  let b := decodeLane 7 (y % 2 ^ 32)
  ranksAbove a b || (!ranksAbove b a && decide (x / 2 ^ 32 ≤ y / 2 ^ 32))

/-- One node of the rank tree on one element. -/
def collOp (arg : Bool) (rop size x y : Nat) : Nat :=
  if arg then (if pairWins x y then x else y) else leNat (reduceBytes rop size (natLe size x) (natLe size y))

/-- The result of a group on n bytes, from each participant's bytes in rank order (R318). -/
def collResult (p : Participant) (l : List (List Byte)) (n : Nat) : List Byte :=
  if p.bcast then (l.getD p.root []).take n
  else
    let w := collWidth p.arg p.bcast p.rop
    (List.range (n / w)).flatMap fun j =>
      let lane := fun r => (l[r]?).map fun b => leNat ((b.drop (j * w)).take w)
      match treeReduce (fun x y => (collOp p.arg p.rop w x y, 0)) lane 0 12 with
      | some (v, _) => natLe w v
      | none => List.replicate w 0

/-- The bytes from pos on of each participant, in rank order, with whether a block of them is poisoned: those of this package from their source
ranges, others as they came, and those of a partition group as they were told (R322, R369, R395). [DEDUCED: log 60] -/
def State.collSources (s : State) (d pos n : Nat) : List Participant → Reach (List (List Byte) × Bool)
  | [] => .done ([], false) s
  | p :: r =>
    let own : Reach (List Byte × Bool) := if p.remote || p.told then .done ((p.data.drop pos).take n, false) s else s.unitRead p.cmd.region 3 (p.src + pos) n
    match own with
    | .held va cd => .held va cd
    | .done (b, bad) s1 =>
      match s1.collSources d pos n r with
      | .held va cd => .held va cd
      | .done (l, w) s2 => .done (b :: l, bad || w) s2

/-- The participants of a group by rank. -/
def byRank (l : List (Nat × Participant)) : List (Nat × Participant) :=
  match l with
  | [] => []
  | (_, p) :: _ => (List.range (p.nm1 + 1)).filterMap fun r => l.find? fun x => x.2.rank == r

/-- A participant changed. -/
def State.modPart (s : State) (d fire : Nat) (f : Participant → Participant) : State :=
  { s with colls := s.colls.map fun p => if p.1 == d then (p.1, p.2.map fun q => if q.cmd.fire == fire then f q else q) else p }

/-- The present round of a group ends: its participants are gone from their engines. -/
def State.dropGroup (s : State) (grp : Nat) : State :=
  let r := s.round grp
  { s with colls := s.colls.map fun p => (p.1, p.2.filter fun q => q.group != grp || decide (r < q.round))
           part := { s.part with rounds := tput s.part.rounds grp (r + 1) } }

/-- What a participant of a partition group is told as, beside its data. -/
def Participant.fields (p : Participant) : List Nat :=
  [if p.arg then 1 else 0, if p.sound then 1 else 0, p.root, if p.bcast then 1 else 0, p.rop, p.nm1, p.rank, p.group, p.len, p.round]

/-- The other packages hear that a round of a partition group has ended in a fault here, as a record that fits no group (R395). [DEDUCED: log 60] -/
def State.tellFault (s : State) (l : List (Nat × Participant)) : State :=
  match l.find? fun x => !x.2.remote && decide (0x8000 ≤ x.2.group) && decide (x.2.group < 2 ^ 16) with
  | some (_, p) => (Config.participantPayloads { p with sound := false }.fields []).foldl (fun s x => s.sendAll 1 x) s
  | none => s

/-- A collective ends with a fault in every participating region of this package, and the others hear of it; its shadows are dropped (R308, R336,
R395). `at_` is the fire whose range does not translate, with the address. [DEDUCED: log 60] -/
def State.collFault (s : State) (grp cd : Nat) (at_ : Option (Nat × Nat) := none) : State :=
  let l := s.group grp
  let s1 := l.foldl (fun s x => s.modFrame x.1 fun f => { f with retiring := f.retiring ++ x.2.shadows.map (·.frame) }) ((s.dropGroup grp).tellFault l)
  let s2 := { s1 with accesses := s1.accesses.filter fun a => !(a.ofUnit && l.any fun x => x.2.cmd.fire == a.fire) }
  (l.filter fun x => !x.2.remote).foldl (fun s x =>
    let addr := match at_ with | some (f, va) => if f == x.2.cmd.fire then va else x.2.cmd.a.toNat | none => x.2.cmd.a.toNat
    s.unitFault x.2.cmd.region cd 4 (collTile x.1) x.1 x.2.cmd.elem x.2.cmd.ctx x.2.cmd.slot addr) s2

/-- A withheld token of the group: the participant whose access is not translated. -/
def State.collHeld (s : State) (l : List (Nat × Participant)) : Bool := l.any fun x => s.holdsUnit x.2.cmd.fire

/-- The bytes of a step go to the destination of each participant that has not had them, shadowed (R310, R318). -/
def State.collWrite (s : State) (pos : Nat) (b : List Byte) : List (Nat × Participant) → Option (State ⊕ Nat)
  | [] => some (.inl s)
  | (d, p) :: r =>
    if p.remote || pos < p.pos then s.collWrite pos b r
    else match s.toPages p.cmd.region d p.cmd.fire p.shadows 3 (p.dst + pos) b with
      | .ok s1 sh _ => (s1.modPart d p.cmd.fire fun q => { q with pos := pos + b.length, shadows := sh, last := b }).collWrite pos b r
      | .held va cd wr _ => some (.inl (s.withhold (1024 + d) p.cmd va cd wr))
      | .wait => none
      | .fault _ cd _ _ => some (.inr cd)

/-- Where a translation fails, the participant whose range it is waits at the owner. -/
def State.collWithhold (s : State) (l : List (Nat × Participant)) (va cd : Nat) (wr : Bool) : State :=
  match l.find? fun x => !x.2.remote && (decide (x.2.src ≤ va + 4096) && decide (va < x.2.src + x.2.len) || x.2.cwaddr == va || x.2.shadows.any (·.page == va)) with
  | some (d, p) => s.withhold (1024 + d) p.cmd va cd wr
  | none => s

/-- The completion words of a group are written; where one does not translate, its participant waits (R289). -/
def State.collWords (s : State) : List (Nat × Participant) → Reach Unit
  | [] => .done () s
  | (_, p) :: r =>
    if p.remote || !p.cwen then s.collWords r
    else match s.unitWrite p.cmd.region p.cwaddr (wordLe 8 p.cwval) with
      | .held va cd => .held va cd
      | .done _ s1 => s1.collWords r

/-- A group is done: each destination is published, its completion word written, its counter decremented, and its fire has its reply
(R289, R318, R324, R366). -/
def State.collDone (s : State) (grp : Nat) (l : List (Nat × Participant)) : State :=
  let here := l.filter fun x => !x.2.remote
  match here.findSome? fun x => s.lostPage x.2.shadows with
  | some (page, cd) => s.collWithhold l page cd true
  | none =>
    let s1 := here.foldl (fun s x => s.publishAll x.1 x.2.shadows) s
    match s1.collWords l with
    | .held va cd => s.collWithhold l va cd true
    | .done _ s2 =>
      let s3 := here.foldl (fun s x => (if x.2.cnten then s.decrement x.2.task 1 else s).markX x.2.cmd.region x.2.cmd.inv) s2
      here.foldl (fun s x => s.unitDone x.2.cmd.fire) (s3.dropGroup grp)

/-- The bytes that every participant of this package has had. -/
def doneTo (l : List (Nat × Participant)) (len : Nat) : Nat := ((l.filter fun x => !x.2.remote).map (·.2.pos)).foldl min len

/-- What a step of a collective writes, from pos on: the bytes that some participant has had already where the step was broken off, so that each has the
same (R318), else the result of the sources, with whether a source is poisoned. [DEDUCED: log 60] -/
def State.collPiece (s : State) (pos n : Nat) (l : List (Nat × Participant)) (p : Participant) : Reach (List Byte × Bool) :=
  match l.find? fun x => !x.2.remote && decide (pos < x.2.pos) with
  | some x => .done (x.2.last, false) s
  | none => match s.collSources 0 pos n (l.map (·.2)) with
    | .held va cd => .held va cd
    | .done (bs, bad) s1 => .done (collResult p bs n, bad) s1

/-- The next step of a collective: 4 KiB of every participant's range, or the end (R318, R336). A page under migration is waited for (R311). [DEDUCED: log 60] -/
def State.collStep (s : State) (grp : Nat) (l : List (Nat × Participant)) (p : Participant) : Option State :=
  let pos := doneTo l p.len
  if p.len ≤ pos then (if l.any fun x => x.2.cwen && !x.2.remote && s.migrating x.2.cwaddr then none else some (s.collDone grp l))
  else
    let n := min 4096 (p.len - pos)
    match s.collPiece pos n l p with
    | .held va cd => some (s.collWithhold l va cd false)
    | .done (b, bad) s1 => if bad then some (s1.collFault grp cDataPoison) else match s1.collWrite pos b l with
      | none => none
      | some (.inl s2) => some s2
      | some (.inr cd) => some (s.collFault grp cd)

/-! ## Partition groups (R395) -/

/-- A participant of a partition group is told, with its data, to every other package of the partition. [DEDUCED: log 60] -/
def State.tell (s : State) (d : Nat) (p : Participant) : State :=
  match s.unitRead p.cmd.region (p.len / 4096 + 2) p.src p.len with
  | .held va cd => s.withhold (1024 + d) p.cmd va cd false
  | .done (b, bad) s1 => if bad then s1.collFault p.group cDataPoison else
    ((Config.participantPayloads p.fields b).foldl (fun s x => s.sendAll 1 x) s1).modPart d p.cmd.fire fun q => { q with told := true, data := b }

/-- The first participant of a partition group that is still to be told. -/
def untold (grp : Nat) (l : List (Nat × Participant)) : Option (Nat × Participant) :=
  if 0x8000 ≤ grp then l.find? fun x => !x.2.remote && !x.2.told else none

/-- COLLECTIVE_RUN: the records of a group do not fit together, and the collective ends in a fault; or all have come, and it runs (R318,
R336). It is named by the lowest die at which a participant waits. A round without a participant of this package leaves nothing to do here (R395). -/
def execCollectiveRun (d grp : Nat) (s : State) : Host.Outcome State Fault Refusal :=
  let l := s.group grp
  let ps := l.map (·.2)
  if s.dbg.stopped || (l.head?.map (·.1)) != some d then .next s
  else if s.collHeld l then .next s
  else match untold grp l with
  | some (d1, p) => .next (s.tell d1 p)
  | none =>
  if ps.all (·.remote) then guarded (mismatched ps || groupComplete ps) s (s.dropGroup grp)
  else if mismatched ps then .next (s.collFault grp cCollMismatch)
  else if !groupComplete ps || s.collHeld l then .next s
  else
    let r := byRank l
    match ((r.find? fun x => !x.2.remote).map (·.2)).bind (s.collStep grp r) with
    | some t => .next t
    | none => .next s

end Sys2Proof.Machine
end

