-- ==== Sys2Proof/Machine/Hash.lean ====
section
/-! DEFINITION. SHA3-256 (FIPS 202), which spec/19_sequences.md names in R344, R345, R352, R353 and R355, and KMAC256 (SP 800-185), which R374
names. -/

namespace Sys2Proof.Machine

/-- The rotation of each lane, by 5 × y + x. -/
def keccakRot : List Nat := [0, 1, 62, 28, 27, 36, 44, 6, 55, 20, 3, 10, 43, 25, 39, 41, 45, 15, 21, 8, 18, 2, 61, 56, 14]

/-- The round constants. -/
def keccakRc : List Word :=
  [0x0000000000000001, 0x0000000000008082, 0x800000000000808A, 0x8000000080008000, 0x000000000000808B, 0x0000000080000001,
   0x8000000080008081, 0x8000000000008009, 0x000000000000008A, 0x0000000000000088, 0x0000000080008009, 0x000000008000000A]
  ++ [0x000000008000808B, 0x800000000000008B, 0x8000000000008089, 0x8000000000008003, 0x8000000000008002, 0x8000000000000080,
   0x000000000000800A, 0x800000008000000A, 0x8000000080008081, 0x8000000000008080, 0x0000000080000001, 0x8000000080008008]

/-- One round on 25 lanes. -/
def keccakRound (a : List Word) (rc : Word) : List Word :=
  let l := fun (x y : Nat) => a.getD (5 * (y % 5) + x % 5) 0
  let c := (List.range 5).map fun x => l x 0 ^^^ l x 1 ^^^ l x 2 ^^^ l x 3 ^^^ l x 4
  let d := fun (x : Nat) => c.getD ((x + 4) % 5) 0 ^^^ (c.getD ((x + 1) % 5) 0).rotateLeft 1
  let b := (List.range 25).map fun i =>
    let x := (i % 5 + 3 * (i / 5)) % 5
    let y := i % 5
    (l x y ^^^ d x).rotateLeft (keccakRot.getD (5 * y + x) 0)
  let m := fun (x y : Nat) => b.getD (5 * y + x % 5) 0
  (List.range 25).map fun i =>
    let x := i % 5
    let y := i / 5
    (m x y ^^^ (~~~(m (x + 1) y) &&& m (x + 2) y)) ^^^ (if i = 0 then rc else 0)

/-- The permutation. -/
def keccakF (a : List Word) : List Word := keccakRc.foldl keccakRound a

/-- Blocks of 136 bytes absorbed. -/
def absorb (a : List Word) : Nat → List Byte → List Word
  | 0, _ => a
  | n + 1, b =>
    absorb (keccakF (a.mapIdx fun i w => if i < 17 then w ^^^ BitVec.ofNat 64 (leNat ((b.drop (8 * i)).take 8)) else w)) n (b.drop 136)

/-- SHA3-256: the message, its padding, and the first 32 bytes of the state. -/
def sha3_256 (m : List Byte) : List Byte :=
  let n := m.length / 136 + 1
  let pad := n * 136 - m.length
  let p : List Byte := if pad = 1 then [0x86] else 0x06 :: List.replicate (pad - 2) 0 ++ [0x80]
  ((absorb (List.replicate 25 0) n (m ++ p)).take 4).flatMap fun w => natLe 8 w.toNat

/-! ## KMAC256 (R374) -/

/-- The bytes of a number, least significant first, at least one. -/
def numBytes : Nat → Nat → List Byte
  | 0, _ => []
  | n + 1, x => BitVec.ofNat 8 x :: if x < 256 then [] else numBytes n (x / 256)

/-- A number with its length in bytes before it, most significant byte first, and with its length behind it. -/
def leftEncode (x : Nat) : List Byte := let b := numBytes 8 x; BitVec.ofNat 8 b.length :: b.reverse
def rightEncode (x : Nat) : List Byte := let b := numBytes 8 x; b.reverse ++ [BitVec.ofNat 8 b.length]
/-- A string with its length in bits before it. -/
def encodeString (b : List Byte) : List Byte := leftEncode (8 * b.length) ++ b
/-- A string behind the block length, padded to whole blocks of 136 bytes. -/
def bytepad (b : List Byte) : List Byte :=
  let x := leftEncode 136 ++ b
  x ++ List.replicate ((x.length + 135) / 136 * 136 - x.length) 0

/-- The bytes of a text of ASCII characters. -/
def asciiBytes (t : String) : List Byte := t.toList.map fun c => BitVec.ofNat 8 c.toNat

/-- cSHAKE256 with a function name and a customisation, and at most 136 bytes of output. -/
def cshake256 (name custom m : List Byte) (out : Nat) : List Byte :=
  let x := bytepad (encodeString name ++ encodeString custom) ++ m
  let n := x.length / 136 + 1
  let pad := n * 136 - x.length
  let p : List Byte := if pad = 1 then [0x84] else 0x04 :: List.replicate (pad - 2) 0 ++ [0x80]
  ((absorb (List.replicate 25 0) n (x ++ p)).flatMap fun w => natLe 8 w.toNat).take out

/-- kmac256(key, message, bits of output, customisation). -/
def kmac256 (key m : List Byte) (bits_ : Nat) (custom : List Byte) : List Byte :=
  cshake256 (asciiBytes "KMAC") custom (bytepad (encodeString key) ++ m ++ rightEncode bits_) (bits_ / 8)

end Sys2Proof.Machine
end

