-- ==== Sys2Proof/Machine/Sequence.lean ====
section
/-! DEFINITION. Sequence units: slots and their records, the fifteen instructions of group 0xE0, what their homes do, grammar masks
(spec/19_sequences.md R337 to R357). -/

namespace Sys2Proof.Machine

/-! ## The instructions at their decision (R342, R343) -/

/-- The slot a context's SEQID binds (R340). -/
def slotBound (w : Word) : Bool := w.getLsbD 14
def slotOf (w : Word) : Nat := bits w.toNat 13 0

/-- The decision of a sequence fire: NO_SEQ, BAD_CMD for a reserved bit of B outside `mask`, then the checks of an address operand of
alignment `al` (0: A is none); `zero` says that A = 0 has a meaning of its own (R343). -/
def seqSem (mask al : Nat) (zero : Bool) (v : Env) : Dec :=
  if !slotBound v.c.seqid then .trap .noSeq 0 0 0
  else if usesB v.opc && v.opc != 0xEB && (v.b.n64 &&& (2 ^ 64 - 1 - mask)) != 0 then .trap .badCmd 0 0 0
  else match (if al = 0 || (zero && v.a.n64 == 0) then none else addrTrap v.a.n64 al) with
    | some t => .trap t 0 0 v.a.n64
    | none => .go { wait := .unitSend (256 * 5 + slotOf v.c.seqid / 4096), trapPend := true }

/-- STH makes register j the HIDDEN state of the vector at A (R344). -/
def execSth (o : Op) (s : State) : Host.Outcome State Fault Refusal := fire (seqSem 3 64 false) (.sth o) s
/-- STM makes register j the MIX of the pairs at A (R344). -/
def execStm (o : Op) (s : State) : Host.Outcome State Fault Refusal := fire (seqSem 0x73 8 false) (.stm o) s
/-- STT makes register j the HARD token A (R344). -/
def execStt (o : Op) (s : State) : Host.Outcome State Fault Refusal := fire (seqSem 3 0 false) (.stt o) s
/-- STFEED writes the input of position POS from register j to A (R345). -/
def execStfeed (o : Op) (s : State) : Host.Outcome State Fault Refusal := fire (seqSem 3 64 false) (.stfeed o) s
/-- COLLAPSE turns logits into a token under the record at A (R346). -/
def execCollapse (o : Op) (s : State) : Host.Outcome State Fault Refusal := fire (seqSem 3 64 false) (.collapse o) s
/-- ACCEPT judges a block of draft tokens under the record at A (R349). -/
def execAccept (o : Op) (s : State) : Host.Outcome State Fault Refusal := fire (seqSem 0 64 false) (.accept o) s
/-- GMASK installs the mask record at A, or clears it (R348). -/
def execGmask (o : Op) (s : State) : Host.Outcome State Fault Refusal := fire (seqSem 0 32 true) (.gmask o) s
/-- TOPN keeps the highest entries under the record at A (R350). -/
def execTopn (o : Op) (s : State) : Host.Outcome State Fault Refusal := fire (seqSem 0 64 false) (.topn o) s
/-- TOKREC writes a token record at A (R351). -/
def execTokrec (o : Op) (s : State) : Host.Outcome State Fault Refusal := fire (seqSem 3 256 false) (.tokrec o) s
/-- HALLMARK completes a block and names it (R353). -/
def execHallmark (o : Op) (s : State) : Host.Outcome State Fault Refusal := fire (seqSem 0 8 true) (.hallmark o) s
/-- KVFIND looks the key at A up in the KV table (R354). -/
def execKvfind (o : Op) (s : State) : Host.Outcome State Fault Refusal := fire (seqSem 0 8 false) (.kvfind o) s
/-- KVINS inserts the key at A with the value B (R354). -/
def execKvins (o : Op) (s : State) : Host.Outcome State Fault Refusal := fire (seqSem 0 8 false) (.kvins o) s
/-- POSADV closes position POS as fed from register j (R352). -/
def execPosadv (o : Op) (s : State) : Host.Outcome State Fault Refusal := fire (seqSem 3 0 false) (.posadv o) s
/-- LOGREC writes a log record of register j at A (R355). -/
def execLogrec (o : Op) (s : State) : Host.Outcome State Fault Refusal := fire (seqSem 3 64 false) (.logrec o) s
/-- PQEXP converts scores into PQ6 probabilities under the record at A (R357). -/
def execPqexp (o : Op) (s : State) : Host.Outcome State Fault Refusal := fire (seqSem 0 64 false) (.pqexp o) s

/-! ## Slot records (R338, R341) -/

/-- A soft-token register from its 128 bytes. -/
def softOf (b : List Byte) : Soft :=
  { kind := dbl b 0 % 4, np := bits (dbl b 0) 7 4, pairs := (List.range 8).map fun i => BitVec.ofNat 64 (dbl b (8 + 8 * i))
    digest := (b.drop 96).take 32 }

/-- The 128 bytes of a soft-token register. -/
def Soft.bytes (r : Soft) : List Byte :=
  natLe 8 (r.np * 16 + r.kind) ++ r.pairs.flatMap (wordLe 8) ++ List.replicate 24 0 ++ r.digest

/-- A slot from its 4 KiB record (R338). -/
def seqSlotOf (b : List Byte) : SeqSlot :=
  let d := dbl b 0
  { gid := bits d 63 52, share := d.testBit 51, en := d.testBit 50, hm1 := bits (dbl b 8) 45 32, v := bits (dbl b 8) 31 0, emb := dbl b 16
    seed := BitVec.ofNat 64 (dbl b 24), salt := BitVec.ofNat 64 (dbl b 32), pos := BitVec.ofNat 64 (dbl b 40), nblk := dbl b 48 % 128
    hroot := (b.drop 64).take 32, hcur := (b.drop 96).take 32, mask := (b.drop 128).take 32, ntop := dbl b 256 % 32
    comp := (List.range 16).map fun i => BitVec.ofNat 64 (dbl b (264 + 8 * i))
    st := (List.range 4).map fun j => softOf ((b.drop (512 + 128 * j)).take 128)
    blk := (List.range 64).map fun j => (b.drop (1024 + 48 * j)).take 48, users := [] }

/-- The address of a slot's record. -/
def State.slotAt (s : State) (n : Nat) : Nat := s.seq.seqbase.toNat + 4096 * n

/-- A slot as its home holds it: cached, or as its record stands (R338). -/
def State.seqSlot (s : State) (n : Nat) : SeqSlot :=
  match tget? s.seq.slots n with
  | some q => q
  | none => seqSlotOf (memRead s.mem (s.slotAt n) 4096)

/-- The record of a slot that its home has not cached cannot be read (R337, R369). -/
def State.slotLost (s : State) (n : Nat) : Bool := (tget? s.seq.slots n).isNone && s.poisoned (s.slotAt n) 4096

/-- The home's cached state of a slot. -/
def State.setSlot (s : State) (n : Nat) (q : SeqSlot) : State := { s with seq := { s.seq with slots := tput s.seq.slots n q } }

/-- The fields of a slot that the device writes go back to its record (R338). -/
def State.writeBack (s : State) (n : Nat) (q : SeqSlot) : State :=
  let a := s.slotAt n
  ((((((s.perform (a + 40) (wordLe 8 q.pos)).perform (a + 48) (natLe 8 q.nblk)).perform (a + 96) q.hcur).perform (a + 128) q.mask).perform (a + 256)
    (natLe 8 q.ntop ++ q.comp.flatMap (wordLe 8))).perform (a + 512) (q.st.flatMap Soft.bytes)).perform (a + 1024) q.blk.flatten

/-- The slots that a region used are written back; a slot that no other region uses leaves the cache (R338). -/
def State.writeBackSlots (s : State) (g : Nat) : State :=
  (s.seq.slots.filter fun p => p.2.users.contains g).foldl (fun s p =>
    let q := { p.2 with users := p.2.users.filter (· != g) }
    let s1 := s.writeBack p.1 q
    if q.users.isEmpty then { s1 with seq := { s1.seq with slots := tdel s1.seq.slots p.1 } } else s1.setSlot p.1 q) s

/-- The hidden size, and the bytes of a row of the embedding table with their padding (R338). -/
def SeqSlot.h (q : SeqSlot) : Nat := q.hm1 + 1
def padTo64 (n : Nat) : Nat := (n + 63) / 64 * 64
def SeqSlot.row (q : SeqSlot) (r : Nat) : Nat := q.emb + r * padTo64 (2 * q.h)

/-! ## What a home makes of a command -/

/-- A command at its home: it is done, with the slot after it, its reply, its predicate result and its flags; it traps; a translation fails;
a read is poisoned; a hold log is full; a masked COLLAPSE waits for its mask; or a page that it writes is under migration. A token that is withheld
for a store carries the store's bytes. -/
inductive SeqOut where
  | done (s : State) (q : SeqSlot) (reply : Nat) (pred : Bool) (fl : Flags)
  | trap (t : Trap) (addr : Nat)
  | held (va code : Nat) (wr : Bool) (data : LinkWord)
  | poison (va : Nat)
  | over (s : State)
  | wait
  | moving

/-- What a home works with: the region, the fire with its operands, and the slot's number. -/
structure SeqCmd where
  g : Region
  f : Flight
  n : Nat

/-- Bytes read with the region's rights (R337), then the rest of a command. -/
def seqRead (c : SeqCmd) (s : State) (va n : Nat) (k : List Byte → State → SeqOut) : SeqOut :=
  match s.unitRead c.g.id (n / 4096 + 2) va n with
  | .held a cd => .held a cd false 0
  | .done (b, bad) s1 => if bad then .poison va else k b s1

/-- Bytes stored as the issuing context's, one store for each 64-byte block, then the rest of a command (R254, R345, R368). A page under migration is
waited for (R244). -/
def seqWrite (c : SeqCmd) : Nat → State → Nat → List Byte → (State → SeqOut) → SeqOut
  | 0, s, _, _, k => k s
  | n + 1, s, va, b, k =>
    if b.isEmpty then k s
    else
      let m := 64 - va % 64
      match s.translate (.region c.g.hdr.gid) va true false false with
      | (.fail cd, _) => .held va cd true (BitVec.ofNat 512 (leNat (b.take m)))
      | (.pa p, s1) =>
        if s1.migrates va then .moving
        else match s1.storeAt c.g c.f.elem c.f.ctx c.f.slot c.f.inv c.f.id p va (b.take m) with
        | (s2, true) => seqWrite c n s2 (va + m) (b.drop m) k
        | (s2, false) => .over s2

/-- A store of a command's result. -/
def seqStore (c : SeqCmd) (s : State) (va : Nat) (b : List Byte) (k : State → SeqOut) : SeqOut := seqWrite c (b.length / 64 + 2) s va b k

/-- Register j of a command and its slot with that register written. -/
def SeqCmd.j (c : SeqCmd) : Nat := c.f.b.toNat % 4
def SeqCmd.st (c : SeqCmd) (q : SeqSlot) : Soft := q.st.getD c.j {}
def SeqCmd.setSt (c : SeqCmd) (q : SeqSlot) (r : Soft) : SeqSlot := { q with st := q.st.set c.j r }
def SeqCmd.a (c : SeqCmd) : Nat := c.f.a.toNat

/-- The trap of the first address inside a command record that is not sound: BAD_ADDR, then MISALIGNED (R343). -/
def recAddrs (l : List (Nat × Nat)) : Option (Trap × Nat) :=
  match l.find? fun x => decide (2 ^ 57 ≤ x.1) with
  | some x => some (.badAddr, x.1)
  | none => (l.find? fun x => x.1 % x.2 != 0).map fun x => (.misaligned, x.1)

/-- The rest of a command, once the addresses inside its record are sound. -/
def withAddrs (l : List (Nat × Nat)) (k : SeqOut) : SeqOut := match recAddrs l with | some (t, a) => .trap t a | none => k

/-- Bits 63:0 of a digest (R342). -/
def digestLow (d : List Byte) : Nat := leNat (d.take 8)

/-- A soft-token register of one double. -/
def Soft.one (kind x : Nat) (digest : List Byte) : Soft :=
  { kind := kind, np := 0, pairs := BitVec.ofNat 64 x :: List.replicate 7 0, digest := digest }

/-! ## Setting and feeding (R344, R345) -/

/-- STT (R344). -/
def seqStt (c : SeqCmd) (s : State) (q : SeqSlot) : SeqOut :=
  if q.v ≤ c.a then .trap .badToken 0 else .done s (c.setSt q (.one 1 c.a (List.replicate 32 0))) c.a false 0

/-- STM (R344). -/
def seqStm (c : SeqCmd) (s : State) (q : SeqSlot) : SeqOut :=
  let np := bits c.f.b.toNat 6 4 + 1
  seqRead c s c.a (8 * np) fun b s =>
    let ps := (List.range np).map fun i => dbl b (8 * i)
    if ps.any fun p => decide (q.v ≤ p % 2 ^ 32) then .trap .badToken 0
    else if ps.any fun p => bits p 63 48 != 0 then .trap .seqRange 0
    else if ps.any fun p => bits p 46 39 == 0xFF then .trap .badMix 0
    else
      let r : Soft := { kind := 3, np := np, pairs := ps.map (BitVec.ofNat 64 ·) ++ List.replicate (8 - np) 0 }
      .done s (c.setSt q r) np false 0

/-- STH (R344). -/
def seqSth (c : SeqCmd) (s : State) (q : SeqSlot) : SeqOut :=
  seqRead c s c.a (2 * q.h) fun b s =>
    let d := sha3_256 b
    .done s (c.setSt q (.one 2 c.a d)) (digestLow d) false 0

/-- The rows of the embedding table that a MIX names, in listed order. -/
def seqRows (c : SeqCmd) (q : SeqSlot) : List Nat → State → (List (List Byte) → State → SeqOut) → SeqOut
  | [], s, k => k [] s
  | p :: r, s, k => seqRead c s (q.row (p % 2 ^ 32)) (2 * q.h) fun b s => seqRows c q r s fun l s => k (b :: l) s

/-- One element of a MIX feed: products exact, each sum rounded to FP32, the last to BF16, all with RNE (R345). -/
def mixElem (ws es : List Nat) : Nat × Flags :=
  let r := (List.zip ws es).foldl (fun (p : Nat × Flags) x =>
    let y := fusedOut false false .rne 7 (x.1 * 2 ^ 16) (x.2 * 2 ^ 16) p.1
    (y.1, p.2 ||| y.2.2)) (0, 0)
  let z := encodeFloat 8 .rne (decodeLane 7 r.1)
  (z.1, r.2 ||| z.2)

/-- The 2H bytes that a register feeds, with the flags of a MIX (R345). -/
def seqVector (c : SeqCmd) (s : State) (q : SeqSlot) (k : List Byte → Flags → State → SeqOut) : SeqOut :=
  let r := c.st q
  let p0 := (r.pairs.headD 0).toNat
  match r.kind with
  | 1 => seqRead c s (q.row (p0 % 2 ^ 32)) (2 * q.h) fun b s => k b 0 s
  | 2 => seqRead c s p0 (2 * q.h) fun b s => if sha3_256 b = r.digest then k b 0 s else .trap .softChanged 0
  | 3 =>
    let ps := (r.pairs.take r.np).map (·.toNat)
    seqRows c q ps s fun rows s =>
      let out := (List.range q.h).map fun h => mixElem (ps.map fun p => bits p 47 32) (rows.map fun b => leNat ((b.drop (2 * h)).take 2))
      k (out.flatMap fun x => natLe 2 x.1) (out.foldl (fun fl x => fl ||| x.2) 0) s
  | _ => .trap .stEmpty 0

/-- A vector padded with zero to the end of its last 64-byte word. -/
def padVec (b : List Byte) : List Byte := b ++ List.replicate (padTo64 b.length - b.length) 0

/-- STFEED (R345). -/
def seqStfeed (c : SeqCmd) (s : State) (q : SeqSlot) : SeqOut :=
  seqVector c s q fun b fl s => seqStore c s c.a (padVec b) fun s => .done s q (padTo64 (2 * q.h)) false fl

/-! ## The collapse point (R346 to R349) -/

/-- ln of a positive FP32 value in units of 2^-192. -/
def lnOf (m : Nat) (e : Int) : Int :=
  let k := Nat.log2 m
  (lnFix m k : Int) + (k + e) * ln2Fix

/-- rnd(-ln(x), FP32, RNE) of a positive FP32 value; -ln(1) is +0 (R346). [DEDUCED: log 61] -/
def negLn (x : Nat) : Nat :=
  match decodeLane 7 x with
  | .fin _ m e =>
    if m = 2 ^ Nat.log2 m ∧ (Nat.log2 m : Int) + e = 0 then 0
    else
      let l := lnOf m e
      (encodeFloat 7 .rne (sticky (decide (0 < l)) l.natAbs)).1
  | _ => canonNan 7

/-- The quotient of two values to 96 bits, with a lowest bit for what is left. -/
def divNum (x y : Num) : Num :=
  match x, y with
  | .nan a, _ => .nan a
  | _, .nan b => .nan b
  | .inf a, .inf _ => if a then .nan false else .nan false
  | .inf a, .fin b _ _ => .inf (a != b)
  | .fin a _ _, .inf b => .fin (a != b) 0 0
  | .fin a m e, .fin b n f =>
    if n = 0 then (if m = 0 then .nan false else .inf (a != b))
    else if m = 0 then .fin (a != b) 0 0
    else
      let k := Nat.log2 n + 96
      let v := m * 2 ^ k / n
      .fin (a != b) (2 * v + (if v * n = m * 2 ^ k then 0 else 1)) (e - f - k - 1)

/-- rnd(x / y, FP32, RNE). -/
def divFp32 (x y : Nat) : Nat := (encodeFloat 7 .rne (divNum (decodeLane 7 x) (decodeLane 7 y))).1
def addF (x y : Nat) : Nat := (addFp32 x (decodeLane 7 y)).1

/-- The uniform value of a key: rnd((b + 0.5) × 2^-24, FP32, RTZ) (R346, R349). -/
def SeqCmd.uniform (c : SeqCmd) (q : SeqSlot) (key : Nat) : Nat :=
  let b := (mix64 (mix64 q.pos (q.seed ^^^ BitVec.ofNat 64 c.n)) (BitVec.ofNat 64 key)).toNat % 2 ^ 24
  (encodeFloat 7 .rtz (.fin false (2 * b + 1) (-25))).1

/-- A logit perturbed under SAMPLE (R346). -/
def SeqCmd.perturb (c : SeqCmd) (q : SeqSlot) (t g x : Nat) : Nat := addF (divFp32 x t) (negLn (negLn (c.uniform q g)))

/-- The best of (value, index) entries, by R150. -/
def bestOf (l : List (Nat × Nat)) : Option (Nat × Nat) :=
  l.foldl (fun m x => match m with
    | none => some x
    | some y => if ranksAbove (decodeLane 7 x.1) (decodeLane 7 y.1) then some x
        else if !ranksAbove (decodeLane 7 y.1) (decodeLane 7 x.1) && decide (x.2 < y.2) then some x else some y) none

/-- A collapse record (R346). -/
structure CollapseRec where
  logits : Nat
  base : Nat
  n : Nat
  shard : Bool
  masked : Bool
  mode : Nat
  t : Nat
  pair : Nat

/-- A collapse record from its bytes. -/
def collapseOf (b : List Byte) : CollapseRec :=
  let d := dbl b 16
  { logits := dbl b 0, base := bits (dbl b 8) 63 32, n := bits (dbl b 8) 31 0, shard := d.testBit 35, masked := d.testBit 34, mode := bits d 33 32
    t := bits d 31 0, pair := dbl b 24 }

/-- The reserved bytes of a record from byte k on are zero. -/
def zeroFrom (b : List Byte) (k : Nat) : Bool := (b.drop k).all (· == 0)

/-- A temperature that R346 takes: finite and above 0. -/
def tempOk (t : Nat) : Bool := match decodeLane 7 t with | .fin sg m _ => !sg && m != 0 | _ => false

/-- The slot after a masked COLLAPSE: MASKST is cleared (R348). -/
def SeqSlot.unmask (q : SeqSlot) (masked : Bool) : SeqSlot := if masked then { q with mask := List.replicate 32 0 } else q

/-- COLLAPSE once its mask, where it has one, may be read (R346, R348). -/
def collapseNow (c : SeqCmd) (r : CollapseRec) (s : State) (q : SeqSlot) : SeqOut :=
  let lo := r.base / 8
  let q1 := q.unmask r.masked
  seqRead c s (if r.masked then dbl q.mask 0 + lo else r.logits) (if r.masked then (r.base + r.n - 1) / 8 - lo + 1 else 0) fun mb s =>
    seqRead c s r.logits (4 * r.n) fun lb s =>
      let keep := (List.range r.n).filter fun l =>
        let g := r.base + l
        !r.masked || ((mb.getD (g / 8 - lo) 0).getLsbD (g % 8))
      let xs := keep.map fun l =>
        let x := leNat ((lb.drop (4 * l)).take 4)
        (if r.mode = 1 then c.perturb q r.t (r.base + l) x else x, r.base + l)
      match bestOf xs with
      | none =>
        if r.shard then seqStore c s r.pair (natLe 8 0xFFFFFFFF7FC00000) fun s => .done s q1 (2 ^ 64 - 1) false 0
        else .done s q1 (2 ^ 64 - 1) false 0
      | some (x, g) =>
        if r.shard then seqStore c s r.pair (natLe 8 (g * 2 ^ 32 + x)) fun s => .done s q1 g true 0
        else .done s (c.setSt q1 (.one 1 g (List.replicate 32 0))) g true 0

/-- COLLAPSE (R346): its record is checked; a masked one waits for its mask unless `granted` (R348). -/
def seqCollapse (granted : Bool) (c : SeqCmd) (s : State) (q : SeqSlot) : SeqOut :=
  seqRead c s c.a 64 fun b s =>
    let r := collapseOf b
    if bits (dbl b 16) 63 36 ≠ 0 ∨ !zeroFrom b 32 ∨ r.n = 0 ∨ q.v < r.base + r.n ∨ 2 ≤ r.mode then .trap .seqRange 0
    else withAddrs ((r.logits, 64) :: if r.shard then [(r.pair, 8)] else [])
      (if r.mode = 1 && !tempOk r.t then .trap .badTemp 0
        else if r.masked && dbl q.mask 0 == 0 then .trap .noMask 0
        else if r.masked && !granted then .wait
        else collapseNow c r s q)

/-- GMASK (R348). -/
def seqGmask (c : SeqCmd) (s : State) (q : SeqSlot) : SeqOut :=
  if c.a = 0 then .done s { q with mask := List.replicate 32 0 } 0 false 0
  else seqRead c s c.a 32 fun b s =>
    if dbl b 0 = 0 ∨ bits (dbl b 16) 63 48 ≠ 0 then .trap .seqRange 0
    else withAddrs [(dbl b 0, 64), (dbl b 8, 8)] (.done s { q with mask := b } 0 false 0)

/-- The products of ACCEPT: the longest prefix whose product reaches u (R349). -/
def acceptCount (u : Nat) : List (Nat × Nat) → Nat → Nat → Nat → Nat
  | [], _, _, a => a
  | (p, q) :: r, prod, i, a =>
    let x := (encodeFloat 7 .rne (Num.mul (decodeLane 7 prod) (decodeLane 7 (divFp32 p q)))).1
    let v := decodeLane 7 x
    let ok := !v.isNan && v.cmp (decodeLane 7 u) != .lt
    acceptCount u r x (i + 1) (if ok then i + 1 else a)

/-- ACCEPT (R349). -/
def seqAccept (c : SeqCmd) (s : State) (q : SeqSlot) : SeqOut :=
  seqRead c s c.a 64 fun b s =>
    let l := dbl b 16
    if l = 0 ∨ 16 < l ∨ !zeroFrom b 24 then .trap .seqRange 0
    else withAddrs [(dbl b 0, 4), (dbl b 8, 4)]
      (seqRead c s (dbl b 0) (4 * l) fun pb s => seqRead c s (dbl b 8) (4 * l) fun qb s =>
        let ps := (List.range l).map fun i => (leNat ((pb.drop (4 * i)).take 4), leNat ((qb.drop (4 * i)).take 4))
        let n := acceptCount (c.uniform q (2 ^ 32)) ps 0x3F800000 0 0
        .done s q n (n == l) 0)

/-! ## Token records (R350, R351, R355) -/

/-- An entry put into a ranked list, kept to n (R150, R350). -/
def rankIn (x : Nat × Nat) : List (Nat × Nat) → List (Nat × Nat)
  | [] => [x]
  | y :: r =>
    let a := decodeLane 7 x.1
    let b := decodeLane 7 y.1
    if ranksAbove a b || (!ranksAbove b a && decide (x.2 < y.2)) then x :: y :: r else y :: rankIn x r

/-- TOPN (R350). -/
def seqTopn (c : SeqCmd) (s : State) (q : SeqSlot) : SeqOut :=
  seqRead c s c.a 64 fun b s =>
    let d := dbl b 16
    let n := bits (dbl b 8) 31 0
    let base := bits (dbl b 8) 63 32
    let pairs := d.testBit 8
    let out := dbl b 24
    let nsel := d % 32
    if bits d 7 5 ≠ 0 ∨ bits d 63 9 ≠ 0 ∨ !zeroFrom b 32 ∨ n = 0 ∨ nsel = 0 ∨ 16 < nsel then .trap .seqRange 0
    else withAddrs ((dbl b 0, 64) :: if out = 0 then [] else [(out, 8)])
      (seqRead c s (dbl b 0) ((if pairs then 8 else 4) * n) fun x s =>
        let es := (List.range n).map fun l =>
          if pairs then (dbl x (8 * l) % 2 ^ 32, dbl x (8 * l) / 2 ^ 32) else (leNat ((x.drop (4 * l)).take 4), (base + l) % 2 ^ 32)
        let keep := es.foldl (fun l e => (rankIn e l).take nsel) []
        let ws := keep.map fun p => p.2 * 2 ^ 32 + p.1
        let q1 := { q with ntop := keep.length, comp := (ws.map (BitVec.ofNat 64 ·)) ++ List.replicate (16 - keep.length) 0 }
        if out = 0 then .done s q1 keep.length false 0
        else seqStore c s out (ws.flatMap (natLe 8)) fun s => .done s q1 keep.length false 0)

/-- TOKREC: a release at HOST scope of the context's earlier writes, then the record, its first double last (R351). -/
def seqTokrec (c : SeqCmd) (s : State) (q : SeqSlot) : SeqOut :=
  let r := c.st q
  if r.kind ≠ 1 then .trap .notHard 0
  else
    let body := wordLe 8 q.pos ++ natLe 8 (q.ntop * 2 ^ 16 + c.n) ++ natLe 8 s.tick ++ List.replicate 32 0
      ++ (q.comp.take q.ntop).flatMap (wordLe 8) ++ List.replicate (192 - 8 * q.ntop) 0
    let first := natLe 8 (2 ^ 63 + (r.pairs.headD 0).toNat % 2 ^ 32)
    match s.translate (.region c.g.hdr.gid) c.a true false false with
    | (.fail cd, _) => .held c.a cd true (BitVec.ofNat 512 (leNat (first ++ body.take 56)))
    | (.pa p, s1) =>
      if s1.migrates c.a then .moving
      else
        let s2 := s1.release c.g.id c.f.elem c.f.ctx c.f.inv c.f.id 8
        .done ((s2.perform (p + 8) body).perform p first) { q with ntop := 0 } s.tick false 0

/-- LOGREC (R355). -/
def seqLogrec (c : SeqCmd) (s : State) (q : SeqSlot) : SeqOut :=
  let r := c.st q
  if r.kind = 0 then .trap .stEmpty 0
  else
    let put := fun (v : List Byte) (s : State) =>
      let len := 192 + v.length
      let head := natLe 8 ((r.kind - 1) * 2 ^ 62 + c.n) ++ wordLe 8 q.pos ++ natLe 8 s.tick ++ natLe 8 len ++ List.replicate 32 0
      seqStore c s c.a (head ++ r.bytes ++ v) fun s => .done s q len false 0
    if r.kind = 2 then seqVector c s q fun b _ s => put (padVec b) s else put [] s

/-! ## Positions, hallmarks and the KV table (R352 to R354) -/

/-- The block entry of a register: its kind byte, and its id or digest at byte 8 (R338, R352). -/
def blockEntry (r : Soft) : List Byte :=
  let body := match r.kind with
    | 1 => natLe 4 (r.pairs.headD 0).toNat
    | 2 => r.digest
    | _ => sha3_256 ((r.pairs.take r.np).flatMap (wordLe 8))
  natLe 8 (r.kind - 1) ++ body ++ List.replicate (40 - body.length) 0

/-- POSADV (R352). -/
def seqPosadv (c : SeqCmd) (s : State) (q : SeqSlot) : SeqOut :=
  let r := c.st q
  if r.kind = 0 then .trap .stEmpty 0
  else if 64 ≤ q.nblk then .trap .blockFull 0
  else
    let q1 := { q with pos := q.pos + 1, nblk := q.nblk + 1, blk := q.blk.set q.nblk (blockEntry r) }
    .done s q1 q1.pos.toNat (q1.nblk == 64) 0

/-- The hashed bytes of a block entry: its kind byte, then 4 or 32 bytes (R352, R353). -/
def hashedEntry (b : List Byte) : List Byte := b.take 1 ++ (b.drop 8).take (if b.headD 0 = 0 then 4 else 32)

/-- HALLMARK (R353). -/
def seqHallmark (c : SeqCmd) (s : State) (q : SeqSlot) : SeqOut :=
  if q.nblk ≠ 64 then .trap .blockOpen 0
  else
    let soft := q.blk.any fun b => b.headD 0 != 0
    let h := sha3_256 (q.hcur ++ q.blk.flatMap hashedEntry ++ if soft && !q.share then wordLe 8 q.salt else [])
    let q1 := { q with hcur := h, nblk := 0 }
    if c.a = 0 then .done s q1 (digestLow h) false 0 else seqStore c s c.a h fun s => .done s q1 (digestLow h) false 0

/-- The entries of the bucket of a key (R354). -/
def State.bucket (s : State) (key : List Byte) : Nat := s.seq.kvbase.toNat + 256 * (leNat (key.take 8) % 2 ^ bits s.seq.kvcfg.toNat 5 1)

/-- KVFIND and KVINS: one indivisible step at the bucket's port (R354). -/
def seqKv (ins : Option Nat) (c : SeqCmd) (s : State) (q : SeqSlot) : SeqOut :=
  if !s.seq.kvcfg.getLsbD 0 then .trap .seqNokv 0
  else if ins = some (2 ^ 64 - 1) then .trap .seqRange 0
  else seqRead c s c.a 32 fun key s =>
    let b := s.bucket key
    if s.poisoned b 256 then .poison b else
    let valid := fun (j : Nat) => (s.double (b + 64 * j + 40)).testBit 0
    let hit := (List.range 4).find? fun j =>
      valid j && memRead s.mem (b + 64 * j) 32 == key && bits (s.double (b + 64 * j + 40)) 63 52 == c.g.hdr.gid
    match hit, ins with
    | some j, none => .done s q (s.double (b + 64 * j + 32)) true 0
    | some j, some _ => .done s q (s.double (b + 64 * j + 32)) false 0
    | none, none => .done s q (2 ^ 64 - 1) false 0
    | none, some v => match (List.range 4).find? fun j => !valid j with
      | none => .done s q (2 ^ 64 - 1) false 0
      | some j =>
        .done (s.perform (b + 64 * j) (key ++ natLe 8 v ++ natLe 8 (c.g.hdr.gid * 2 ^ 52 + 1) ++ List.replicate 16 0)) q v true 0

/-- KVCNT: entries of the KV table with V set (R339, R354). -/
def State.kvCount (s : State) : Nat :=
  let b := s.seq.kvbase.toNat
  let n := 256 * 2 ^ bits s.seq.kvcfg.toNat 5 1
  (s.mem.filter fun x => decide (b ≤ x.1) && decide (x.1 < b + n) && (x.1 - b) % 64 == 40 && x.2.getLsbD 0).length

/-! ## Probabilities (R357) -/

/-- 2^d for a value d, as an exact or approximated number; out of the range of PQ6 an end stands for it. -/
def pow2Num (d : Num) : Num :=
  match d with
  | .fin s m e =>
    let v : Num := .fin s m e
    if v.cmp (.fin false 2 0) == .gt then .fin false 1 2
    else if v.cmp (.fin true 32 0) == .lt then .fin false 1 (-32)
    else
      -- the value in units of 2^-192, split into its floor and the rest
      let u : Int := (if 0 ≤ e + 192 then m * 2 ^ (e + 192).toNat else m / 2 ^ (-(e + 192)).toNat : Nat)
      let x : Int := if s then -u else u
      let k := x / 2 ^ 192
      let r := x % 2 ^ 192
      if r = 0 then .fin false 1 k
      else match sticky false (expFix (r * ln2Fix / 2 ^ 192)).toNat with
        | .fin _ n f => .fin false n (f + k)
        | y => y
  | .inf s => if s then .fin false 0 0 else .inf false
  | .nan a => .nan a

/-- The PQ6 code of a score against the reference (R357). -/
def pqCode (m x : Nat) : Nat :=
  match decodeLane 7 x with
  | .nan _ => 0x3C
  | .inf true => 0x3C
  | y => (encodeFloat 13 .rne (pow2Num (Num.add .rne y (decodeLane 7 m).negate))).1

/-- The words of packed PQ6 codes, 84 to a word (R357). -/
def pqWords : Nat → List Nat → List Byte
  | 0, _ => []
  | n + 1, l => if l.isEmpty then [] else natLe 64 (packLanes 6 (l.take 84)) ++ pqWords n (l.drop 84)

/-- PQEXP (R357). -/
def seqPqexp (c : SeqCmd) (s : State) (q : SeqSlot) : SeqOut :=
  seqRead c s c.a 64 fun b s =>
    let n := bits (dbl b 16) 31 0
    let auto := (dbl b 24).testBit 0
    if 2 ≤ dbl b 24 ∨ !zeroFrom b 32 ∨ n = 0 ∨ 2 ^ 20 < n then .trap .seqRange 0
    else withAddrs [(dbl b 0, 64), (dbl b 8, 64)]
      (seqRead c s (dbl b 0) (4 * n) fun x s =>
        let xs := (List.range n).map fun i => leNat ((x.drop (4 * i)).take 4)
        let m := if auto then ((bestOf (xs.mapIdx fun i v => (v, i))).map (·.1)).getD 0 else bits (dbl b 16) 63 32
        let codes := xs.map (pqCode m)
        let sum := if auto && (decodeLane 7 m).isNan then canonNan 7 else (encodeFloat 7 .rne (exactSum (codes.map (decodeLane 13)))).1
        seqStore c s (dbl b 8) (pqWords (n / 84 + 1) codes) fun s => .done s q sum false 0)

/-! ## At the home (R337, R343) -/

/-- A command at its home (R343): SEQ_DENIED, then its own work. [DEDUCED: log 61] -/
def seqRun (granted : Bool) (c : SeqCmd) (s : State) (q : SeqSlot) : SeqOut :=
  if !q.en || !(q.gid == 0 || q.gid == c.g.hdr.gid) then .trap .seqDenied 0
  else match c.f.instr with
    | .sth _ => seqSth c s q
    | .stm _ => seqStm c s q
    | .stt _ => seqStt c s q
    | .stfeed _ => seqStfeed c s q
    | .collapse _ => seqCollapse granted c s q
    | .accept _ => seqAccept c s q
    | .gmask _ => seqGmask c s q
    | .topn _ => seqTopn c s q
    | .tokrec _ => seqTokrec c s q
    | .hallmark _ => seqHallmark c s q
    | .kvfind _ => seqKv none c s q
    | .kvins _ => seqKv (some c.f.b.toNat) c s q
    | .posadv _ => seqPosadv c s q
    | .logrec _ => seqLogrec c s q
    | .pqexp _ => seqPqexp c s q
    | _ => .done s q 0 false 0

/-- The slot of a fire's context. -/
def State.slotOfFire (s : State) (f : Flight) : Nat := slotOf (s.ctx f.elem f.ctx).seqid

/-- A command is done: the slot is as it leaves it, and the fire completes when its reply has travelled back; until then its context is trap-pending
(R337, R342, R366). [DEDUCED: log 61] -/
def State.seqDone (s : State) (f : Flight) (n : Nat) (q : SeqSlot) (v : Nat) (pred : Bool) (fl : Flags) : State :=
  let x := some (scalarVal false 6 v)
  let u := if q.users.contains f.region then q.users else q.users ++ [f.region]
  let s1 := (s.setSlot n { q with users := u }).resolve f.id x x pred (s.tick + travel (seqTile (n / 4096)) (elemTile f.elem))
  (s1.modFlight f.id fun y => { y with wait := .seq n, res := { y.res with flags := fl } }).markX f.region f.inv

/-- A masked COLLAPSE asks the home of its mask's object for a share (R348). [DEDUCED: log 62] -/
def State.askMask (s : State) (f : Flight) (n : Nat) (q : SeqSlot) : State :=
  let a : Access := { id := s.ids, fire := f.id, elem := f.elem, ctx := f.ctx, slot := f.slot, region := f.region, core := none, kind := .mask, wide := false
                      va := dbl q.mask 8, size := 8, wr := true, data := 7, inv := f.inv, opw := f.opw, reqTag := 0, link := none, stage := .toOwner
                      due := s.later + 1, reply := 0, poison := false, released := false }
  ((s.issue a).useFree).modFlight f.id fun y =>
    { y with wait := .mask n (dbl q.mask 8) (bits (dbl q.mask 16) 47 0) (dbl q.mask 24) }

/-- What a sequence command reads cannot be read: the command is undone, and its region takes DATA_POISON of the sequence unit (R337, R369). [DEDUCED: log 61] -/
def State.seqPoison (s : State) (f : Flight) (va : Nat) : State :=
  let n := s.slotOfFire f
  (s.undoFire f).unitFault f.region cDataPoison 10 (seqTile (n / 4096)) (n / 4096) f.elem f.ctx f.slot va

/-- A command is performed at its home (R337, R342, R343). Where a translation fails, or a page it writes is under migration, it stands at the home in
the place of its arrival; a masked COLLAPSE keeps the grant it has had (R348). [DEDUCED: log 61, 62] -/
def State.seqPerform (s : State) (f : Flight) (granted : Bool) : State :=
  let n := s.slotOfFire f
  match s.region? f.region with
  | none => s
  | some g =>
    match (if s.slotLost n then .poison (s.slotAt n) else seqRun granted ⟨g, f, n⟩ s (s.seqSlot n)) with
    | .done s1 q v pred fl => s1.seqDone f n q v pred fl
    | .trap t a => s.lateTrap f t a
    | .held va cd wr x =>
      (s.withhold (256 * 5 + n / 4096) (s.cmdOf f) va cd wr [] x).modFlight f.id fun y =>
        if granted then { y with granted := true } else { y with wait := .unitSend (256 * 5 + n / 4096), due := f.due }
    | .moving => if granted then s.modFlight f.id fun y => { y with granted := true } else s
    | .poison va => s.seqPoison f va
    | .over s1 => s1.undoFire f
    | .wait => s.askMask f n (s.seqSlot n)

/-- A command for the same slot still stands before a fire's at its home (R337). -/
def State.slotBusy (s : State) (f : Flight) : Bool :=
  let n := s.slotOfFire f
  s.flights.any fun g => g.id != f.id && (match g.wait with
    | .mask m _ _ _ => m == n
    | .unitSend u => u / 256 == 5 && s.slotOfFire g == n && (match g.due, f.due with
        | some a, some b => decide (a < b) || (a == b && decide (g.id < f.id))
        | _, _ => false)
    | _ => false)

/-! ## Masks (R348) -/

/-- The request of a masked COLLAPSE for its mask's object. -/
def State.maskAsk (s : State) (f : Nat) : Option Access := s.accesses.find? fun a => a.fire == f && a.kind == .mask

/-- The share is given up with no publication, and the object's queue is served (R263, R348). [DEDUCED: log 62] -/
def State.unshare (s : State) (p : Nat) : State :=
  s.putBytes p (natLe 8 (s.double p - 2 ^ 48))

/-- A grant that carries the generation of the mask (R348). [DEDUCED: log 62] -/
def grants (a : Access) (gen : Nat) : Bool := match a.stage with | .answered _ => decide (gen ≤ bits a.reply.toNat 47 0) | _ => false

/-- COLLAPSE_MASK_GRANT: a share of the mask's object is granted: with its generation the mask is read and the COLLAPSE performed; without it
the share is given up, and asked for again once the object has changed (R348). Where the COLLAPSE must wait for a page the share is kept; an
object that cannot be read is a fault (R369). [DEDUCED: log 61, 62] -/
def execCollapseMaskGrant (i : Nat) (s : State) : Host.Outcome State Fault Refusal :=
  match s.flight? i, s.maskAsk i with
  | some f, some a =>
    match f.wait, a.stage with
    | .mask _ _ gen _, .answered p =>
      let s1 := s.seqPerform f true
      let stands := (s1.flight? i).any fun y => y.wait == f.wait && !y.ready
      let s2 := s.unshare p
      guarded (decide (a.due ≤ s.tick) && !s.holdsUnit i && !s.dbg.stopped) s
        (if a.poison then ((s.unshare p).dropAccess a.id).seqPoison f a.va
          else if grants a gen then (if stands then s1 else (s1.dropAccess a.id).unshare p)
          else s2.modAccess a.id fun x => { x with stage := .tested p, reply := BitVec.ofNat 512 (s2.double p) })
    | .mask _ _ _ _, .tested p =>
      guarded (s.double p != a.reply.toNat && !s.dbg.stopped) s (s.modAccess a.id fun x => { x with stage := .toNode p, due := s.tick + 1 })
    | _, _ => .next s
  | _, _ => .next s

/-- COLLAPSE_DEADLINE: the tick has passed DEADLINE with no qualifying grant: the COLLAPSE completes with all ones and no token, and its
mask is cleared (R348). [DEDUCED: log 62] -/
def execCollapseDeadline (i : Nat) (s : State) : Host.Outcome State Fault Refusal :=
  match s.flight? i, s.maskAsk i with
  | some f, some a =>
    match f.wait with
    | .mask n _ gen dl =>
      let s1 := match a.stage with | .answered p => s.unshare p | _ => s
      let s2 := { (s1.dropAccess a.id) with sync := s1.sync.map fun (q : SyncQueue) => { q with waiters := q.waiters.filter (· != a.id) } }
      guarded (decide (dl < s.tick) && !grants a gen && !f.granted && !s.dbg.stopped) s
        (s2.seqDone f n ((s2.seqSlot n).unmask true) (2 ^ 64 - 1) false 0)
    | _ => .next s
  | _, _ => .next s

end Sys2Proof.Machine
end

