-- ==== Sys2Proof/Machine/Accept.lean ====
section
/-! DEFINITION. The acceptance of a command by its unit (spec/17_engines.md R305, R306; spec/18_instr_engines.md R322, R333, R334;
spec/19_sequences.md R337). -/

namespace Sys2Proof.Machine

/-! ## Acceptance of a command by its unit (R322) -/

/-- A fire that waits to hand over its command, with its unit. -/
def Flight.sends (f : Flight) : Option Nat := match f.wait with | .unitSend u => some u | _ => none

/-- A command may set out: every earlier access of its context has arrived, and every earlier command of its element to the unit has set
out (R161, R322). -/
def State.maySend (s : State) (f : Flight) (u : Nat) : Bool :=
  decide (f.sent < s.tick) && s.releasable f.elem f.ctx f.id
    && !s.flights.any fun g => g.elem == f.elem && decide (g.id < f.id) && g.sends == some u && g.due.isNone

/-- A command has reached its unit. -/
def State.atUnit (s : State) (f : Flight) : Bool := match f.due with | some d => decide (d ≤ s.tick) | none => false

/-- Commands that never wait behind others at their unit: FREED, CPYQ and PUBLISH (R332 to R334). [DEDUCED: log 59] -/
def passes (opc : Nat) : Bool := opc == 0xD5 || opc == 0xD6 || opc == 0xD9

/-- A unit takes a command after those that arrived before it (R322); a sequence unit, those for the same slot (R337). -/
def State.firstAt (s : State) (f : Flight) (u : Nat) : Bool :=
  if u / 256 = 5 then !s.slotBusy f else passes f.opc || !s.flights.any fun g => g.sends == some u && !passes g.opc && s.atUnit g
    && (match g.due, f.due with | some a, some b => decide (a < b) || (a == b && decide (g.id < f.id)) | _, _ => false)

/-- A copy command finds its engine's queue full, or entries spilled: it goes to the spill ring (R305, R306): none where it waits for room. [DEDUCED: log 58] -/
def State.spillCmd (s : State) (n : Nat) (c : Cmd) : Option (Bool × State) :=
  let x := s.engine n
  let pa := x.sp.entry x.sp.tail 64
  if !x.sp.en || x.sp.full then none
  else if physReserved (pa / 4096 * 4096) then some (false, s.withhold (512 + n) c (pa / 4096 * 4096) cSpillFault true)
  else
    let b := natLe 64 (Config.freeWord s.free).toNat
    some (true, ((s.putBytes pa b).useFree).modEngine n fun e => { e with spilled := e.spilled ++ [c], sp := { e.sp with tail := e.sp.tail + 1 } })

/-- Notices of a FREED reach a streaming command (R314): each that would exceed the tiles written is ignored. -/
def State.freed (s : State) (n : Nat) (c : Cmd) : State :=
  let k := if bits c.b.toNat 11 4 = 0 then 1 else bits c.b.toNat 11 4
  match (s.engine n).running.find? fun r => r.desc.dkind == 2 && r.desc.dbase == c.a.toNat with
  | some r => s.modRunning n r.cmd.fire fun x => { x with freed := min (x.freed + k) x.written }
  | none => s

/-- A collective engine reads a participant record (R335): a record outside a global part does not fit its group. [DEDUCED: log 60] -/
def State.joinColl (s : State) (d : Nat) (c : Cmd) : Option (Bool × State) :=
  if 64 ≤ ((tget s.colls d []).filter fun q => !q.remote).length then none
  else match s.unitRead c.region 2 c.a.toNat 64 with
    | .held va cd => some (false, s.withhold (1024 + d) c va cd false)
    | .done (b, bad) s1 =>
      let p := recordOf c b
      let q := { p with sound := p.sound && !bad && s1.inGlobal c.a.toNat, round := s1.openRound p.group }
      some (true, { s1 with colls := tput s1.colls d (tget s1.colls d [] ++ [q]) })

/-- The count of CPYQ: the region's commands on an engine that have not completed (R334). -/
def State.copyCount (s : State) (n g : Nat) : Nat :=
  let x := s.engine n
  ((x.queue ++ x.spilled ++ x.running.map (·.cmd)).filter (·.region == g)).length

/-- What a unit makes of a command that has reached it: whether it has taken it, with the state after; none where it has no room. -/
def State.takeCmd (s : State) (u : Nat) (c : Cmd) : Option (Bool × State) :=
  let n := unitIdx u
  match u / 256 with
  | 1 => if (s.node n).held < 16 then some (true, s.enterNode n c) else none
  | 2 =>
    let x := s.engine n
    match c.opc with
    | 0xD5 => some (true, s.modEngine n fun e => { e with pubs := e.pubs ++ [c] })
    | 0xD6 => some (true, s.freed n c)
    | 0xD9 => some (true, s.unitReply c.fire (s.copyCount n c.region))
    | _ =>
      if x.spilled.isEmpty && decide (x.queue.length < 256) then some (true, s.modEngine n fun e => { e with queue := e.queue ++ [c] })
      else s.spillCmd n c
  | _ => s.joinColl n c

/-- A fire's command has been taken: a fire with a reply waits for it, and any other completes (R319). -/
def State.taken (s : State) (f : Flight) (u : Nat) : State :=
  s.modFlight f.id fun x =>
    if f.wantsReply then { x with wait := .unit u, due := none } else { x with wait := .unit u, ready := true, due := some s.tick }

/-- UNIT_COMMAND_ACCEPT: a command sets out for its unit, or reaches it and is taken, spilled, or waits for room (R305, R306, R322); a
sequence command is performed at its home (R337). -/
def execUnitCommandAccept (i : Nat) (s : State) : Host.Outcome State Fault Refusal :=
  match s.flight? i with
  | none => .next s
  | some f =>
    match f.sends with
    | none => .next s
    | some u =>
      if s.dbg.stopped then .next s
      else match f.due with
        | none => guarded (s.maySend f u) s (s.modFlight i fun x => { x with due := some (s.tick + travel (elemTile f.elem) (unitTile u)) })
        | some _ =>
          if s.atUnit f && s.firstAt f u && !s.holdsUnit i then
            if u / 256 = 5 then .next (s.seqPerform f false)
            else match (s.taken f u).takeCmd u (s.cmdOf f) with
            | some (true, t) => .next t
            | some (false, _) => (match s.takeCmd u (s.cmdOf f) with | some (_, t) => .next t | none => .next s)
            | none => .next s
          else .next s

end Sys2Proof.Machine
end

