-- ==== Sys2Proof/Machine/Fault.lean ====
section
/-! DEFINITION. What the scheduler does with a fault (spec/21_faults.md R361 to R368): its record in the pool, its delivery along the edges, the
end of a launch (spec/09_scheduler.md R193, R194, R199), and the three dispositions. -/

namespace Sys2Proof.Machine

/-! ## Tokens withheld past FHOLD (R241, R308, R380) -/

/-- The participant of a collective whose work a withheld token is. [DEDUCED: log 60] -/
def State.collToken (s : State) (a : Access) : Option Participant :=
  match a.kind with
  | .unit u => if u / 256 = 4 then (tget s.colls (u % 256) []).find? fun q => !q.remote && q.cmd.fire == a.fire else none
  | _ => none

/-- FHOLD has passed on a withheld token: a copy command or a PUBLISH, a collective that has the token's participant, and a collective's command whose record
has not been read, end with the fault of their engine (R308, R321); any other token stays with the record (R380). [DEDUCED: log 60] -/
def State.expire (s : State) (a : Access) (cd : Nat) : State :=
  match s.collToken a, a.kind with
  | some q, _ => s.collFault q.group cd (some (a.fire, a.va))
  | none, .unit u =>
    if u / 256 = 4 then
      match s.flight? a.fire with
      | some f => ((s.taken f u).dropAccess a.id).unitFault a.region cd 4 (collTile (u % 256)) (u % 256) a.elem a.ctx a.slot a.va
      | none => s.tokenFault a cd
    else match s.copyOf (u % 256) a.fire with
      | some c => if u / 256 = 2 then s.copyFault (u % 256) c cd a.va a.named else s.tokenFault a cd
      | none => s.tokenFault a cd
  | none, _ => s.tokenFault a cd

/-- FAULT_HOLD_EXPIRY: FHOLD has passed on a withheld token, at once for an unresolvable kind: its region faults, and the token stays
with the record (R241, R380). A collective runs on while a region of it is cut, and so does the hold of its token (R373). -/
def execFaultHoldExpiry (ai : Nat) (s : State) : Host.Outcome State Fault Refusal :=
  match s.access? ai with
  | none => .next s
  | some a =>
    match a.stage with
    | .withheld cd since =>
      guarded (a.core.isNone && decide (since + s.holdTicks a.region cd ≤ s.tick) && !s.dbg.stopped
        && ((s.collToken a).isSome || (match s.region? a.region with | some g => g.freeze.isNone | none => false))) s (s.expire a cd)
    | _ => .next s

/-! ## A region's leavings -/

/-- A copy engine without the commands of a region; those that had spilled leave the ring, which SPHEAD counts (R306, R373). -/
def CopyEngine.without (e : CopyEngine) (g : Nat) : CopyEngine :=
  let gone := (e.spilled.filter (·.region == g)).length
  { e with queue := e.queue.filter (·.region != g), spilled := e.spilled.filter (·.region != g), running := e.running.filter (·.cmd.region != g)
           pubs := e.pubs.filter (·.region != g), sp := { e.sp with head := e.sp.head + BitVec.ofNat 32 gone } }

/-- Everything of a region that is under way is gone: its fires, accesses and waits, its commands at the units, its chains. A page that a
copy or a collective had shadowed keeps its old frame, and the shadow's frame retires (R308, R310). [DEDUCED: log 65] -/
def State.dropWork (s : State) (g : Nat) : State :=
  let fl := s.flights.filter (·.region == g)
  let parked := fl.filterMap fun f => match f.wait with | .park w => if f.ready then none else some w | _ => none
  let s1 := parked.foldl (fun s w => s.setWake w {}) s
  let ids := (s1.accesses.filter fun a => a.region == g && a.core.isNone).map (·.id)
  let s2 := s1.engines.foldl (fun s e =>
    let open_ := (e.2.running.filter fun r => r.cmd.region == g && !r.published).flatMap fun r => r.shadows.map (·.frame)
    s.modFrame (e.1 / 8) fun f => { f with retiring := f.retiring ++ open_ }) s1
  let s3 := s2.colls.foldl (fun s p =>
    let open_ := (p.2.filter fun q => !q.remote && q.cmd.region == g).flatMap fun q => q.shadows.map (·.frame)
    s.modFrame p.1 fun f => { f with retiring := f.retiring ++ open_ }) s2
  { s3 with
    flights := s3.flights.filter (·.region != g), accesses := s3.accesses.filter fun a => !ids.contains a.id
    sync := s3.sync.map fun q => { q with waiters := q.waiters.filter fun a => !ids.contains a }
    waitv := s3.waitv.filter fun a => !ids.contains a, chains := s3.chains.filter (·.region != g)
    colls := s3.colls.map fun p => (p.1, p.2.filter fun q => q.remote || q.cmd.region != g)
    engines := s3.engines.map fun e => (e.1, e.2.without g) }

/-- A tile without the plane of region g: its elements are empty, its buffers hold nothing, and a shadow that g had loaded but not yet swapped
to is gone. The shadow of another launch stays (R223). -/
def State.leaveTile (s : State) (g t : Nat) : State :=
  let x := s.tile t
  let empty := fun (r : Router) => { r with ports := r.ports.map fun p => { p with buf := [], miss := false }, eject := [] }
  let s1 := if x.region = some g then
      ((List.range 6).foldl (fun s j => s.modElem (elemKey t j) fun y =>
        { shadow := y.shadow, fenced := y.fenced, notes := y.notes, walks := y.walks }) s).modTile t fun y =>
        { y with region := none, narrow := empty y.narrow, wide := empty y.wide }
    else s
  if x.shadowOf = some g then
    ((List.range 6).foldl (fun s j => s.modElem (elemKey t j) fun y => { y with shadow := none }) s1).modTile t fun y =>
      { y with shadowOf := none, loaded := false, clearTill := none }
  else s1

/-- The tiles and claimed nodes of a region are left, and nothing of it is under way. -/
def State.leave_ (s : State) (rg : Region) : State :=
  let s1 := rg.tiles.foldl (fun s t => s.leaveTile rg.id t) (s.dropWork rg.id)
  ((rg.claimed 1).filter fun n => (s.tile (nodeTile n)).region == some rg.id).foldl (fun s n => { s with nodes := tdel s.nodes n }) s1

/-! ## Saves (R374, R375) -/

/-- The save of a launch. -/
def State.saveOf (s : State) (l : Launch) : Option Save := l.save.bind fun k => s.faults.saves.find? (·.id == k)

/-- The save of a launch is released: its blocks are free, and the frames of the shadows it kept retire (R365, R310). -/
def State.releaseSave (s : State) (l : Nat) : State :=
  let gone := s.faults.saves.filter (·.launch == l)
  let frames := gone.flatMap fun v => v.copies.flatMap fun c => c.2.1.flatMap fun r => if r.published then [] else r.shadows.map fun x => (c.1, v.region, x.frame)
  let s1 := frames.foldl (fun s x => s.modFrame ((((x.2.1.claimed 2)[x.1]?).getD 0) / 8) fun f => { f with retiring := f.retiring ++ [x.2.2] }) s
  { s1.modLaunch l (fun x => { x with save := none }) with faults := { s1.faults with saves := s1.faults.saves.filter (·.launch != l) } }

/-! ## Records in the pool (R362) -/

/-- The next free slot of the record pool. -/
def State.freeSlot (s : State) : Option Nat :=
  let c := s.faults.frcfg.toNat
  if c.testBit 0 then
    ((List.range (2 ^ min (bits c 5 1) 12)).map fun n => s.faults.frbase.toNat + 512 * n).find? fun a => !s.faults.used.contains a
  else none

/-- A record is written into the pool as a release at SYSTEM scope; without a free slot, or where the pool does not translate, the management
core keeps it (R362). -/
def State.writeRecord (s : State) (k : Nat) : State :=
  match s.record? k, s.freeSlot with
  | some r, some a =>
    match s.translate .mgmt a true false false with
    | (.pa p, s1) =>
      let s2 := s1.putAt a p r.bytes
      { s2.modRecord k (fun r => { r with slotAddr := a }) with faults := { (s2.modRecord k fun r => { r with slotAddr := a }).faults with used := a :: s2.faults.used } }
    | (.fail _, s1) => s1.modRecord k fun r => { r with toMc := true }
  | _, _ => s.modRecord k fun r => { r with toMc := true }

/-- A record leaves the list of records. -/
def State.forget (s : State) (k : Nat) : State := { s with faults := { s.faults with records := s.faults.records.filter (·.id != k) } }

/-! ## Delivery (R363, R364) -/

/-- A handler launch of a task is on its way or runs. -/
def State.serving (s : State) (k : Nat) : Bool :=
  s.launches.any fun l => l.handler.isSome && l.lrec.taskid == k && (match l.state with | .ended => false | _ => true)

/-- A handler launch: the reserved image at class 1 with one invocation (R364). -/
def State.startHandler (s : State) (k rec_ : Nat) : State :=
  let img := match s.launch? (s.task k).launch with | some l => l.img | none => {}
  let l : Launch := { id := s.ids, lrec := { image := (s.task k).image, taskid := k, named := true, cls := 1, fedge := true, edge := (s.task k).edge }, img := img, agent := none
                      state := .ready s.tick, region := 0, handler := some rec_, save := none, placed := 0, followOf := none, misplaced := false }
  { s.newId with launches := s.launches ++ [l] }.modRecord rec_ fun r => { r with server := l.id }

/-- A record is delivered along an edge, and on along the handlers' own edges, to a handler, its queue, or the management core (R363, R364). -/
def State.deliver (s : State) (rec_ : Nat) : Nat → Word → State
  | 0, _ => s.modRecord rec_ fun r => { r with toMc := true, delivered := true }
  | n + 1, e =>
    match edgeTask e with
    | none => s.modRecord rec_ fun r => { r with toMc := true, delivered := true }
    | some k =>
      let x := s.task k
      let s1 := s.modRecord rec_ fun r => { r with delivered := true }
      if x.state != .reserved then s.deliver rec_ n x.edge
      else if !s.serving k && x.pending.isEmpty then s1.startHandler k rec_
      else if x.pending.length < 16 then s1.modTask k fun t => { t with pending := t.pending ++ [rec_] }
      else s.deliver rec_ n x.edge

/-- A record of a region that has been written goes along its edge: one that the management core keeps goes there at once, and that of a
handler launch goes, with the record it served, along the handler's own edge (R362, R364). -/
def State.deliverFault (s : State) (rg : Region) (k : Nat) : State :=
  let kept := match s.record? k with | some r => r.toMc | none => true
  let s1 := if kept then s.modRecord k fun r => { r with delivered := true } else s.deliver k 16 rg.edge
  match (s.launch? rg.launch).bind (·.handler) with
  | some h => if (match s1.record? h with | some r => r.server != 0 | none => false) then (s1.modRecord h fun r => { r with server := 0 }).deliver h 16 rg.edge else s1
  | none => s1

/-! ## The end of a launch (R193, R194, R199, R364) -/

/-- A reservation takes its region back: idle, and its image in the shadow planes again where it is to be kept (R199, R364). [DEDUCED: log 43] -/
def State.reloadReservation (s : State) (rg : Region) (task : Nat) : State :=
  match s.launch? (s.task task).launch with
  | none => s
  | some p =>
    let g := newRegion rg.id p rg.ox rg.oy 1
    let s1 := { s with regions := s.regions.map fun (x : Region) => if x.id == rg.id then g else x }
    (s1.install g p.img).modLaunch p.id fun x => { x with state := .loading (s.tick + 360 + g.coldCycles) }

/-- The region of a launch is free, or returns to its reservation; a reservation that is not kept ends with it (R193, R199, R200). A launch that it
followed may take another follow-on (R223). [DEDUCED: log 43] -/
def State.freeRegion (s : State) (l : Launch) (rg : Region) : State :=
  let s1 := (s.leave_ rg).unfollow rg.id
  let gone := { s1 with regions := s1.regions.filter (·.id != rg.id) }
  if l.handler.isSome || (l.lrec.timed && l.lrec.keep) then s1.reloadReservation rg l.lrec.taskid
  else if l.lrec.timed then
    let p := (s.task l.lrec.taskid).launch
    { gone with launches := gone.launches.filter (·.id != p) }
  else gone

/-- The id of a launch is free (R192, R193): that of a timed launch unless KEEP holds it, and never that of a handler. [DEDUCED: log 43] -/
def State.freeId (s : State) (l : Launch) : State :=
  if (l.lrec.named || l.lrec.timed) && l.handler.isNone && !(l.lrec.timed && l.lrec.keep) then
    s.modTask l.lrec.taskid fun t => { t with state := .free, counter := 0, loaded := false }
  else s

/-- A reservation has gone with the timed launch that ran on it: the records that wait there for a handler, and those that a handler launch waits there to
serve, go along the task's own edge (R364). [DEDUCED: log 43] -/
def State.strandHandlers (s : State) (k : Nat) : State :=
  let x := s.task k
  let hs := s.launches.filter fun l => l.handler.isSome && l.lrec.taskid == k && (match l.state with | .ready _ => true | _ => false)
  let s1 := { s with launches := s.launches.filter fun l => !hs.any (·.id == l.id) }
  let s2 := (hs.filterMap (·.handler)).foldl (fun s r => (s.modRecord r fun r => { r with server := 0 }).deliver r 16 x.edge) s1
  x.pending.foldl (fun s r => s.deliver r 16 x.edge) (s2.modTask k fun t => { t with pending := [] })

/-- A launch is over (R193): its completion block is written, which a handler launch has none of (R364), its region and id are free, its undo logs are
dropped (R367), and NEXT falls. FREC names a record where the status is TRAPPED or ABORTED, and reads 0 elsewhere (R194). [DEDUCED: log 82] -/
def State.endLaunch (s : State) (l : Launch) (rg : Option Region) (status detail rec_ : Nat) : State :=
  let first := ((rg.bind (·.first)).getD 0)
  let ninv := (rg.map (·.passed)).getD 0
  let frec := if status = 4 ∨ status = 11 then rec_ else 0
  let s1 := s.releaseSave l.id
  let s2 := if l.handler.isSome then s1
    else s1.writeSpan (agentBy l.agent) l.id 2 l.lrec.status (blockBytes status l.lrec.taskid detail first s1.tick frec ninv)
  let s3 := match rg with
    | some g =>
      let own := match s2.region? g.id with | some x => x.launch == l.id | none => false
      ((if own then s2.freeRegion l g else s2).discardHeld fun h => h.region == g.id).dropUndo g.id
    | none => s2
  let s4 := { s3 with launches := s3.launches.filter (·.id != l.id) }.freeId l
  let s5 := if l.lrec.timed && !l.lrec.keep && l.handler.isNone then s4.strandHandlers l.lrec.taskid else s4
  if l.lrec.nexten then s5.decrement l.lrec.next 1 else s5

/-! ## Follow-ons of a launch that ends in a fault or leaves its place (R223) -/

/-- The follow-on of a region has swapped a tile. -/
def State.followSwapped (s : State) (rg : Region) : Bool := match rg.follow with | some f => rg.tiles.any fun t => (s.tile t).region == some f | none => false

/-- A follow-on that has swapped no tile is READY again. -/
def State.returnFollow (s : State) (rg : Region) : State :=
  match rg.follow with
  | none => s
  | some f =>
    let s1 := rg.tiles.foldl (fun s t => s.leaveTile f t) s
    { s1 with regions := s1.regions.filter (·.id != f)
              launches := s1.launches.map fun (x : Launch) => if x.region == f then { x with state := .ready s.tick, region := 0, followOf := none } else x }

/-! ## Dispositions (R365, R366, R370) -/

/-- The status of a launch that a fault ends (R365). -/
def abortStatus (cd : Nat) : Nat := if cd = cQuiescent then 8 else if cd = cHang then 9 else 4

/-- The region that a record's launch still holds: a reservation goes on under the number of a launch that has ended on it. -/
def State.regionFor (s : State) (r : FaultRec) : Option Region := (s.region? r.region).bind fun g => if g.launch = r.launch then some g else none

/-- A region comes to an end; one that had come to an end of its own ends so instead. -/
def Region.endAs (g : Region) (status frec : Nat) : Region := { g with ending := if g.ending.isNone || g.ownEnd then some (status, 0, frec) else g.ending }

/-- A region's bindings after the ABORT of a record that keeps the token of a status word: that word is not made (R33, R380). -/
def Region.giveUpWord (g : Region) (r : FaultRec) : Region :=
  if r.pend && g.ownEnd then { g with binds := g.binds.map fun (b : Binding) => if b.status == r.addr then { b with worded := true } else b } else g

/-- ABORT (R365): held stores of open invocations are discarded, the save is released, and the launch completes; a follow-on completes
ABORTED (R223). A launch without a region completes at once; of one that has ended nothing is left to do. [DEDUCED: log 47] -/
def State.abort (s : State) (r : FaultRec) : State :=
  match s.regionFor r, s.launch? r.launch with
  | some g, _ =>
    let s1 := ((s.discardOpen g.id).releaseSave r.launch).modRegion g.id fun x => (x.giveUpWord r).endAs (abortStatus r.code) r.slotAddr
    (match g.follow with
      | some f => s1.modRegion f fun x => x.endAs 11 r.slotAddr
      | none => s1)
  | none, some l =>
    let rg := match s.saveOf l, l.again with | some v, _ => some v.region | none, some a => some a.1 | none, none => none
    s.endLaunch l rg (abortStatus r.code) 0 r.slotAddr
  | none, none => s

/-- The open invocations of a region are restartable (R366). -/
def Region.restartable (r : Region) : Bool :=
  let open_ := fun (l : List Nat) => l.any fun i => decide (r.passed ≤ i)
  r.hdr.sckpt && !open_ r.dirtyX && !open_ r.dirtyS

/-- The bindings of a solo launch as its image gives them. -/
def Binding.fresh (b : Binding) : Binding :=
  { b with next := 0, moved := 0, poison := 0, lastTag := 0, overrun := false, ended := false, waiting := false, worded := false }

/-- A region as it starts work again at invocation k. -/
def Region.again (r : Region) (k : Nat) : Region :=
  { r with passed := k, freeze := none, cut := .none, injected := false, live := false, started := 0, dirtyX := [], dirtyS := [], halt := none
           ending := none, brk := none, savable := true, steps := [], patches := [], binds := r.binds.map Binding.fresh, boundaryAt := if k = 0 then 0 else r.boundaryAt }

/-- A launch keeps its place while it waits for its restore or its restart: one on a reservation, or with a follow-on. [DEDUCED: log 41] -/
def Launch.stays (l : Launch) (g : Region) : Bool := l.lrec.timed || l.handler.isSome || g.follow.isSome

/-- A launch that has left its place is READY, and its task with it (R192, R376). -/
def State.readyAgain (s : State) (l : Launch) (g : Region) : State :=
  let s1 := s.modLaunch l.id fun x => { x with state := .ready s.tick, region := g.id, followOf := none }
  if l.lrec.named && !l.lrec.timed && l.handler.isNone then s1.modTask l.lrec.taskid fun t => { t with state := .ready } else s1

/-- The configuration of a region is loaded afresh where it stands, and work will start at invocation k (R365). -/
def State.restartHere (s : State) (l : Launch) (g : Region) (k : Nat) : State :=
  let g1 := g.again k
  let rs := if s.regions.any (·.id == g.id) then s.regions.map fun (x : Region) => if x.id == g.id then g1 else x else s.regions ++ [g1]
  (({ s with regions := rs }.install g1 l.img).releaseSave l.id).modLaunch l.id fun x =>
    { x with state := .loading (s.tick + 360 + g1.coldCycles), region := g1.id, again := none }

/-- A launch starts again at invocation k: at its place where that can still serve it, else wherever one can, once there is one (R365, R370). [DEDUCED: log 41] -/
def State.restartAt (s : State) (l : Launch) (g : Region) (k : Nat) : State :=
  let s1 := ((s.leave_ g).discardHeld fun h => h.region == g.id && decide (k ≤ h.inv)).dropUndo g.id
  if s1.fit l.img g.ox g.oy g.id == .ok then s1.restartHere l g k
  else
    let g1 := { g.again k with freeze := some .preempt, freezeAt := 0, predecessor := none }
    let rs := if l.stays g then s1.regions.map fun (x : Region) => if x.id == g.id then g1 else x else s1.regions.filter (·.id != g.id)
    ((({ s1 with regions := rs }.unfollow g.id).releaseSave l.id).readyAgain l g).modLaunch l.id fun x => { x with again := some (g, k) }

/-- How a launch that cannot go on may start again (R365, R379): from its first invocation not passed, from invocation 0, or not at all. -/
def restartFrom (l : Launch) (g : Region) : Option Nat :=
  if g.restartable then some g.passed else if l.lrec.restart then some 0 else none

/-- A launch starts again from region g, its undo logs applied where the invocation is the unit of restart and it still stands at its place (R365,
R367, R379). A follow-on that has swapped no tile waits for its turn again. -/
def State.retryAt (s : State) (l : Launch) (g : Region) (k : Nat) : State :=
  let there := s.regions.any fun x => x.id == g.id && x.ox == g.ox && x.oy == g.oy
  let s1 := if g.restartable && there then s.applyUndo g.id else s
  (s1.returnFollow g).restartAt l { g with follow := none } k

/-- A follow-on that has swapped a tile completes ABORTED, where the launch that it follows starts again on their tiles. [DEDUCED: log 47] -/
def State.endFollow (s : State) (g : Region) (frec : Nat) : State :=
  match g.follow.bind s.region? with
  | none => s
  | some f => match s.launch? f.launch with
    | some l => ((s.writeBackSlots f.id).discardOpen f.id).endLaunch l (some f) 11 0 frec
    | none => s

/-- RETRY (R365). [DEDUCED: log 47] -/
def State.retry (s : State) (r : FaultRec) : State :=
  match s.regionFor r, s.launch? r.launch with
  | some g, some l =>
    (match restartFrom l g with
      | some k => if s.followSwapped g then (s.endFollow g r.slotAddr).retryAt l { g with follow := none } k else s.retryAt l g k
      | none => s.abort r)
  | none, some l =>
    (match s.saveOf l with
      | some v => (match restartFrom l v.region with
        | some k => (((s.discardHeld fun h => h.region == v.region.id && decide (k ≤ h.inv)).dropUndo v.region.id).releaseSave l.id).modLaunch l.id
            fun x => { x with again := some (v.region, k) }
        | none => s.abort r)
      | none => s)
  | _, none => s

/-- A launch whose region is saved leaves its place, and is READY with its save; a follow-on that has swapped no tile is READY too (R376, R377). [DEDUCED: log 41] -/
def State.vacate (s : State) (l : Launch) (g : Region) : State :=
  let s1 := (s.returnFollow g).leave_ g
  ({ s1 with regions := s1.regions.filter (·.id != g.id) }.unfollow g.id).readyAgain l g

/-- The freeze that a record has brought or met still stands. -/
def Region.stands (g : Region) (r : FaultRec) : Bool := g.faulted && decide (g.cutno ≤ r.cutno + 1)

/-- RESUME (R365): a launch that is saved is READY to be restored; one that is not acts as under ABORT. A freeze that another record has had
resumed needs nothing more. [DEDUCED: log 41] -/
def State.resume (s : State) (r : FaultRec) : State :=
  match s.regionFor r, s.launch? r.launch with
  | some g, some l =>
    if !g.stands r || l.state != .running then s
    else if !r.saved || l.save.isNone then s.abort r
    else if l.stays g then s.modLaunch l.id fun x => { x with state := .ready s.tick }
    else s.vacate l g
  | _, _ => s

/-- What the management core does with a record delivered to it (R364, R370): none while it waits for an XRESOLVE, and for a RESTORE class
record, which it only logs; one whose token another record's restore has put back has nothing more to wait for. A lasting fault is answered by a relocation, or RETRY where there is no save. [DEDUCED: log 46] -/
def FaultRec.mcDisposition (r : FaultRec) : Option Nat :=
  if r.code / 256 = 8 ∨ r.code = Trap.brk.code then none
  else if r.access.isSome then (if r.resolved || !r.pend then some 0 else none)
  else if r.code = cUnitLasting ∨ r.code = cImageChanged then some (if r.saved then 0 else 1)
  else some 2

/-- The disposition of a record that has been given: by an FRET, or by the management core. [DEDUCED: log 46] -/
def State.dispositionOf (s : State) (r : FaultRec) : Option Nat :=
  if r.disposed || !r.delivered then none
  else if r.toMc then r.mcDisposition
  else if r.slotAddr = 0 then none
  else (s.faults.dispose.find? (·.1 == r.slotAddr)).map (·.2)

/-- A disposition is carried out (R365). A record whose token still waits for its place stays until the restore (R380). -/
def State.dispose (s : State) (r : FaultRec) (d : Nat) : State :=
  let s1 := if r.toMc then s else { s with faults := { s.faults with dispose := s.faults.dispose.erase (r.slotAddr, d) } }
  let s2 := if r.pend && d == 0 && r.saved then s1.modRecord r.id fun x => { x with disposed := true } else s1.forget r.id
  if d = 0 then s2.resume r else if d = 1 then s2.retry r else s2.abort r

/-- A launch of a handler is over (R364): a record that no FRET has named is disposed of as ABORT, and the next that waits is served. -/
def State.endHandler (s : State) (l : Launch) : State :=
  let k := l.lrec.taskid
  let left := s.faults.records.filter fun r => r.server == l.id && !r.disposed && !s.faults.dispose.any (·.1 == r.slotAddr)
  let s1 := left.foldl (fun s r => s.dispose r 2) s
  match (s1.task k).pending with
  | [] => s1
  | r :: rest =>
    let s2 := s1.modTask k fun t => { t with pending := rest }
    if (s2.record? r).isSome then s2.startHandler k r else s2

/-- FAULT_DISPOSITION: the scheduler applies the disposition of a record to the launch that faulted (R217, R365). -/
def execFaultDisposition (rec_ disp : Nat) (s : State) : Host.Outcome State Fault Refusal :=
  match s.record? rec_ with
  | none => .next s
  | some r => guarded (s.dispositionOf r == some disp && !s.dbg.stopped) s (s.dispose r disp)

end Sys2Proof.Machine
end

