-- ==== Sys2Proof/Machine/Weir.lean ====
section
/-! DEFINITION. Wave-ordered chains at their home weirs (spec/13_instr_memory.md R267 to R277; the gap-stall record of
spec/24_debug.md R401). -/

namespace Sys2Proof.Machine

/-! ## Chains -/

/-- The chain an access belongs to: its region's chain of that id, at START of wave 0 where the weir has none yet (R269). -/
def State.chain (s : State) (g c : Nat) : Chain := (s.chains.find? fun x => x.region == g && x.id == c).getD { region := g, id := c }

/-- The state with a chain put in. -/
def State.setChain (s : State) (x : Chain) : State :=
  { s with chains := if s.chains.any (fun y => y.region == x.region && y.id == x.id) then
      s.chains.map (fun y => if y.region == x.region && y.id == x.id then x else y) else s.chains ++ [x] }

/-- The port whose weir homes a chain: the (c mod m)-th claim of KIND 3 (R268). -/
def State.weirOf (s : State) (g c : Nat) : Nat :=
  match s.region? g with
  | some r => let l := r.claimed 3; l.getD (c % l.length) 0
  | none => 0

/-- The link of an access (R267). -/
def Access.chainLink (a : Access) : Link := a.link.getD ⟨0, 0, 0, 0, 0⟩

/-- The links of the accesses of a chain's current wave that stand at its weir, the buffered ones in arrival order, up to an access. -/
def State.bufferedLinks (s : State) (x : Chain) (upTo : Nat) : List Link :=
  (((x.buffered ++ x.waiting).takeWhile (· != upTo)).filterMap s.access?).filterMap fun a =>
    if a.chainLink.wave == x.wave then some a.chainLink else none

/-- Reserved codes of pred and succ (R267): `first` and `last`, and `?`. -/
def cFirst : Nat := 0xFE
def cAny : Nat := 0xFF

/-- A link is the head of the current wave (R269). -/
def Chain.heads (x : Chain) (l : Link) : Bool :=
  l.wave == x.wave &&
    (match x.pos with
      | .start => l.pred == cFirst
      | .after q n => if n = cAny then l.pred == q else l.seq == n)

/-- The successor of a released seq has been resolved through `?` (R271). -/
def Chain.resolved (x : Chain) (q : Nat) : Bool :=
  x.released.any fun l => l.seq == q && l.succ == cAny && x.released.any fun m => m.pred == q

/-- One link names another as its successor, which names a different predecessor (R271). -/
def linkClash (l m : Link) : Bool := l.succ != cAny && l.succ != cFirst && l.succ == m.seq && m.pred != cAny && m.pred != l.seq

/-- What the rows for d = 0 of R270 find against a link: CHAIN_DUPSEQ, CHAIN_MISMATCH, or nothing; `known` are the links of the wave
released, or buffered before it. -/
def Chain.check (x : Chain) (known : List Link) (l : Link) : Option Nat :=
  if known.any (·.seq == l.seq) then some cChainDupseq
  else if (l.pred == cFirst && x.pos != .start) || x.resolved l.pred || known.any (fun k => linkClash k l || linkClash l k) then some cChainMismatch
  else none

/-- A weir fault (R272): the weir keeps the access, which it does not release and which takes no entry of its chain, the region faults and its held
stores of open invocations are discarded. The record's X and Y are the issuing element's, which it names. [DEDUCED: log 14, 47] -/
def State.weirFault (s : State) (x : Chain) (a : Access) (cd : Nat) : State :=
  let w := s.weirOf x.region x.id
  let drop := fun (l : List Nat) => l.filter (· != a.id)
  let s1 := (s.setChain { x with buffered := drop x.buffered, waiting := drop x.waiting }).modAccess a.id fun y => { y with stage := .atWeir (match a.stage with | .toWeir p | .atWeir p => p | _ => 0) }
  let s2 := s1.discardOpen x.region
  let t := elemTile a.elem
  s2.takeFault x.region { id := 0, code := cd, unit := 5, x := tileX t, y := tileY t, uidx := w, elem := elemIdx a.elem, ctx := a.ctx
                          slot := a.slot, addr := if a.kind = .cnop then 0 else a.va, link := a.link }

/-! ## Release (R269, R273, R274, R275) -/

/-- A released access goes on to its node, behind those released before it; a CNOP ends, and returns its tag (R252, R275). [DEDUCED: log 53] -/
def State.sendOn (s : State) (a : Access) : State :=
  match a.kind, a.stage with
  | .cnop, _ => (s.dropAccess a.id).freeTag a
  | _, .toWeir p | _, .atWeir p =>
    let b := { a with released := true, due := s.later + 1, stage := if isHostWin p then .hostWindow p else .toNode p }
    let s1 := s.useFree
    { s1 with accesses := (s1.accesses.filter (·.id != a.id)) ++ [b] }
  | _, _ => s

/-- The chain after an access with a link has been released; succ `last` ends the wave (R269). The next gap is another, whatever place it misses (R277). -/
def Chain.advance (x : Chain) (ai : Nat) (l : Link) (t : Nat) : Chain :=
  let b := x.buffered.filter (· != ai)
  let y := { x with buffered := b, waiting := x.waiting.filter (· != ai), lastRel := t, gapDone := none,
                     firstBuf := if b.isEmpty then 0 else x.firstBuf }
  if l.succ = cFirst then { y with wave := (x.wave + 1) % 2 ^ 16, pos := .start, released := [] }
  else { y with pos := .after l.seq l.succ, released := x.released ++ [l] }

/-- The first buffered access of the current wave that the rows for d = 0 refuse, in arrival order, with its code (R270, R271). -/
def State.clash (s : State) (x : Chain) : Option (Access × Nat) :=
  (x.buffered.filterMap s.access?).findSome? fun a =>
    if a.chainLink.wave != x.wave then none
    else (x.check (x.released ++ s.bufferedLinks x a.id) a.chainLink).map (a, ·)

/-- The other accesses that are the head beside an access, as its release makes known: both name `first` at START, or both name the seq whose
successor `?` leaves open (R271). -/
def State.rivals (s : State) (x : Chain) (ai : Nat) : List Access :=
  ((x.buffered ++ x.waiting).filterMap s.access?).filter fun b => b.id != ai && x.heads b.chainLink

/-- The buffered accesses of a chain's current wave are checked in their order of arrival, and each that the rows for d = 0 refuse is a fault (R270). -/
def State.checkWave (s : State) (g c : Nat) : Nat → State
  | 0 => s
  | n + 1 => match s.clash (s.chain g c) with
    | some (b, cd) => (s.weirFault (s.chain g c) b cd).checkWave g c n
    | none => s

/-- The weir releases an access (R269, R273): it goes on, the position moves, and the accesses of the wave that stand there are checked (R271). -/
def State.releaseLink (s : State) (x : Chain) (a : Access) : State :=
  let y := x.advance a.id a.chainLink s.tick
  let s1 := (s.setChain y).sendOn a
  let s2 := (s.rivals x a.id).foldl (fun s b => s.weirFault (s.chain x.region x.id) b cChainMismatch) s1
  s2.checkWave x.region x.id x.buffered.length

/-- The weir of a port has released an access in this cycle (R273). [DEDUCED: log 65] -/
def State.weirUsed (s : State) (w : Nat) : Bool :=
  s.chains.any fun x => x.lastRel == s.tick && s.tick != 0 && s.weirOf x.region x.id == w

/-- The buffered access of a chain that is its head. -/
def State.bufferedHead (s : State) (x : Chain) : Option Access := (x.buffered.filterMap s.access?).find? fun a => x.heads a.chainLink

/-! ## Arrival (R270) -/

/-- An access arrives at its chain (R270). One that is the head takes no entry, whatever stands there, and is released as the weir's chains take their
turns, in this cycle at the earliest (R273). -/
def State.weirArrive (s : State) (x : Chain) (a : Access) : State :=
  let l := a.chainLink
  let d := (l.wave + 2 ^ 16 - x.wave) % 2 ^ 16
  let p := match a.stage with | .toWeir p => p | _ => 0
  let stand := s.modAccess a.id fun y => { y with stage := .atWeir p }
  if l.pred = cAny ∧ l.succ = cAny then s.weirFault x a cLinkAmbiguous
  else if 255 < d then s.weirFault x a cChainStale
  else
    let bad := if d = 0 then x.check (x.released ++ s.bufferedLinks x 0) l else none
    match bad with
    | some cd => s.weirFault x a cd
    | none =>
      if d = 0 && x.heads l then stand.setChain { x with waiting := x.waiting ++ [a.id] }
      else if chainQuota x.id ≤ x.buffered.length then s.weirFault x a cOrderOverflow
      else (if s.traced x.region then stand.perf 4 1 else stand).setChain { x with buffered := x.buffered ++ [a.id], firstBuf := if x.buffered.isEmpty then s.tick else x.firstBuf }

/-- CHAIN_ARRIVAL: a chain access reaches its home weir, is the head, or is buffered or faulted (R270). -/
def execChainArrival (ai : Nat) (s : State) : Host.Outcome State Fault Refusal :=
  match s.access? ai with
  | none => .next s
  | some a =>
    match a.stage, a.link with
    | .toWeir _, some l => guarded (decide (a.due ≤ s.tick) && !s.dbg.stopped) s (s.weirArrive (s.chain a.region l.chain) a)
    | _, _ => .next s

/-! ## Releases (R273) -/

/-- The access of a chain that its weir may release: a buffered head first, else the first that was the head on arrival. [DEDUCED: log 65] -/
def State.candidate (s : State) (x : Chain) : Option Access :=
  match s.bufferedHead x with | some a => some a | none => x.waiting.findSome? s.access?

/-- The chains homed at a weir, those after the chain that it served last first (R273). -/
def State.rotation (s : State) (w : Nat) : List Chain :=
  let l := s.chains.filter fun x => s.weirOf x.region x.id == w
  let last := (l.map (·.lastRel)).foldl max 0
  match l.findIdx? fun x => x.lastRel == last with
  | some i => l.drop (i + 1) ++ l.take (i + 1)
  | none => l

/-- The class of the launch that owns a region; an agent without one counts as class 3 (R195). -/
def State.regionClass (s : State) (g : Nat) : Nat := match s.region? g with | some r => min r.cls 3 | none => 3

/-- The chain that a weir serves next: of those with a head there the lowest class number first, and within a class the first in its rotation
(R195, R273). [DEDUCED: log 65] -/
def State.nextChain (s : State) (w : Nat) : Option Chain :=
  let l := (s.rotation w).filter fun x => (s.candidate x).isSome
  (List.range 4).findSome? fun c => l.find? fun x => s.regionClass x.region == c

/-- CHAIN_RELEASE: the weir releases the head of the chain whose turn it is (R273). -/
def execChainRelease (gi c : Nat) (s : State) : Host.Outcome State Fault Refusal :=
  let x := s.chain gi c
  let w := s.weirOf gi c
  match s.candidate x with
  | none => .next s
  | some a => guarded (!s.weirUsed w && s.nextChain w == some x && !s.dbg.stopped) s (s.releaseLink x a)

/-! ## Gaps (R277) -/

/-- The missing place of a chain: its kind and the seq (R277, R401). -/
def Chain.missing (x : Chain) : Nat × Nat :=
  match x.pos with
  | .start => (0, 0)
  | .after q n => if n = cAny then (2, q) else (1, n)

/-- A chain is in a gap: accesses are buffered, and its head is not among them (R277). -/
def State.inGap (s : State) (x : Chain) : Bool := !x.buffered.isEmpty && x.waiting.isEmpty && (s.bufferedHead x).isNone

/-- A gap's window (R277). -/
def State.gapTicks (s : State) : Nat := if s.gapwin.toNat % 2 ^ 32 = 0 then 65536 else s.gapwin.toNat % 2 ^ 32

/-- GAP_STALL: a gap has lasted GAPWIN ticks; one record is written for the missing place, and the chain keeps waiting (R277). -/
def execGapStall (gi c : Nat) (s : State) : Host.Outcome State Fault Refusal :=
  let x := s.chain gi c
  let m := x.missing
  let key := some (x.wave * 4 + m.1, m.2)
  let w := s.weirOf gi c
  let t := portTile w
  let d2 := c * 2 ^ 56 + x.wave * 2 ^ 40 + m.1 * 2 ^ 32 + m.2 * 2 ^ 24 + x.buffered.length
  let running := match s.region? gi with | some g => !s.frozen g | none => false
  guarded (s.inGap x && decide (max x.thawed (max x.lastRel x.firstBuf) + s.gapTicks ≤ s.tick) && x.gapDone != key && running && !s.dbg.stopped) s
    ((s.setChain { x with gapDone := key }).trace 2 5 (tileY t * 2 ^ 40 + tileX t * 2 ^ 32 + w) d2 0)

/-- At a thaw, which leaves the weir's rotation as it is, the gap window of every chain of a region starts afresh (R277). -/
def State.thawChains (s : State) (g : Nat) : State :=
  { s with chains := s.chains.map fun x => if x.region == g then { x with thawed := s.tick } else x }

end Sys2Proof.Machine
end

