-- ==== Sys2Proof/Machine/Cut.lean ====
section
/-! DEFINITION. The tidemark cut, its save, pre-emption and the restore (spec/21_faults.md R371 to R380; spec/22_prog_translation_fault.md
R384). -/

namespace Sys2Proof.Machine

/-! ## What stands still in a cut (R371, R373) -/

/-- An access that a cut or a fault has stopped, or that its weir keeps. -/
def Access.parked (a : Access) : Bool := match a.stage with | .cut | .expired _ | .atWeir _ => true | _ => false

/-- An access that answers to nobody: a prefetch, or a token that a unit's or a binding's work left at its owner. -/
def Access.unasked (a : Access) : Bool := a.kind == .pref || a.ofUnit || a.bindChan.isSome

/-- An access of an element waits behind one that stands still: its release waits for it (R264, R221, R222), or its block's order (R254). -/
def State.behind (s : State) (still : List Nat) (a : Access) : Bool :=
  let before := s.accesses.filter fun b => b.core.isNone && b.elem == a.elem && decide (b.id < a.id) && still.contains b.id && !b.arrived
  let release := before.any fun b => b.ctx == a.ctx && !b.ofUnit
  match a.kind, a.stage with
  | .rel, .queued _ => release
  | .notify _, .toNode _ => release
  | .launchRec, .toOwner => release
  | _, .toNode _ => a.touches && before.any fun b => b.touches && s.sameBlock a b && !sameChain a b
  | _, _ => false

/-- One round of finding the accesses of an element that stand still. -/
def State.stillRound (s : State) (e : Nat) (still : List Nat) : List Nat :=
  (s.accesses.filter fun a => a.core.isNone && a.elem == e && (a.parked || a.withdrawable || a.unasked || s.behind still a)).map (·.id)

/-- The accesses of an element that stand still, and make no further step of their own. -/
def State.stillAccesses (s : State) (e : Nat) : List Nat := (List.range 24).foldl (fun l _ => s.stillRound e l) []

/-- A fire in flight that the snapshot of its element does not wait for (R373): a wait that is withdrawn, a fire bound to a command that its
unit has taken, or one whose reply finds no room or is not sent (R323). [DEDUCED: log 39] -/
def State.stillFlight (s : State) (still : List Nat) (f : Flight) : Bool :=
  let mine := s.accesses.any fun a => a.fire == f.id && still.contains a.id && !a.unasked
  let stopped := (s.earlier f.elem f.ctx f.id).any fun a => still.contains a.id && !a.arrived
  if f.ready then s.lapsed f && (!s.replyTurn f || s.unitHeld f)
  else match f.wait with
    | .withdrawn _ | .park _ | .bar _ _ | .mask _ _ _ _ => true
    | .unit u => u / 256 != 4 || !s.collBegun f.id
    | .unitSend u => (f.due.isNone && stopped) || (s.atUnit f && (u / 256 != 5 || s.holdsUnit f.id))
    | .fence | .arrive _ _ => stopped
    | .halt _ => true
    | .lat => false
    | _ => mine

/-- The wait of a fire as it will be made anew (R373): a command goes to its unit again, and a masked COLLAPSE to its sequence unit. -/
def State.again (s : State) (f : Flight) : Option Wait :=
  match f.wait with
  | .withdrawn _ | .halt _ => none
  | .mask slot _ _ _ => some (.unitSend (256 * 5 + slot / 4096))
  | .unit u => if s.participantOf f.id then some (.unitSend u) else if s.publishOf f.id then some (.unitSend u) else none
  | w => some w

/-- The waits of an element are withdrawn at their homes (R373): accesses leave their queues and owners, a PARK leaves its wake register
EMPTY, records and PUBLISHes are taken back, a share that a masked COLLAPSE has been granted and not used is given up, and reservations of outputs go. [DEDUCED: log 39] -/
def State.withdrawElem (s : State) (e : Nat) : State :=
  let still := s.stillAccesses e
  let fl := s.flights.filter fun f => f.elem == e && !f.ready && s.stillFlight still f
  let wakes := fl.filterMap fun f => match f.wait with | .park w => some w | _ => none
  let news := fl.filterMap fun f => (s.again f).map fun w => (f.id, w)
  let gone := news.map (·.1)
  let masks := s.accesses.filter fun a => a.kind == .mask && gone.contains a.fire
  let drop := (s.accesses.filter fun a => still.contains a.id && a.unasked).map (·.id) ++ masks.map (·.id)
  let s1 := wakes.foldl (fun s w => s.setWake w {}) s
  let stopAcc := fun (a : Access) => if still.contains a.id && !a.parked then { a with stage := Stage.cut } else a
  let stopFire := fun (f : Flight) =>
    match news.find? (·.1 == f.id) with
    | some n => { f with wait := .withdrawn n.2, due := none, granted := false }
    | none => f
  let s2 := { s1 with
    accesses := (s1.accesses.filter fun (a : Access) => !drop.contains a.id).map stopAcc
    sync := s1.sync.map fun (q : SyncQueue) => { q with waiters := q.waiters.filter fun a => !still.contains a && !drop.contains a }
    waitv := s1.waitv.filter fun (a : Nat) => !still.contains a
    colls := s1.colls.map fun (p : Nat × List Participant) => (p.1, p.2.filter fun q => !gone.contains q.cmd.fire)
    engines := s1.engines.map fun (x : Nat × CopyEngine) => (x.1, { x.2 with pubs := x.2.pubs.filter fun c => !gone.contains c.fire })
    flights := s1.flights.map stopFire }
  let s3 := masks.foldl (fun s a => match a.stage with | .answered p => s.unshare p | _ => s) s2
  s3.modElem e fun x => { x with outs := x.outs.map fun c => gone.foldl (fun c f => c.settle f none) c }

/-! ## The cut (R371) -/

/-- A cut of a region may begin: it is frozen by a fault other than BREAK, or to be pre-empted (R215, R359, R376); a solo launch that has come to an
end of its own may be frozen so while its last words are written (R413). [DEDUCED: log 37] -/
def State.cutReady (s : State) (g : Region) : Bool :=
  s.frozen g && g.live && g.cut == .none && g.faultable && (g.faulted || g.freeze == some .preempt)

/-- CUT_START: the scheduler sends the cut command to every tile and claimed unit of a region; the units withdraw the waits that stand at
their homes (R371, R373). -/
def execCutStart (gi : Nat) (s : State) : Host.Outcome State Fault Refusal :=
  match s.region? gi with
  | none => .next s
  | some g =>
    let s1 := (s.regionElems gi).foldl (fun s p => s.withdrawElem p.1) s
    let s2 := { s1 with accesses := s1.accesses.filter fun a => !(a.region == gi && a.core.isNone && a.bindChan.isSome) }
    guarded (s.cutReady g && !s.dbg.stopped) s
      (s2.modRegion gi fun r => { r with cut := .running s.tick, cutno := r.cutno + 1, steps := []
                                         binds := r.binds.map fun (b : Binding) => { b with waiting := false } })

/-- The cut of an element's region is under way. -/
def State.inCut (s : State) (g : Region) : Bool := match g.cut with | .running _ => !s.dbg.stopped | _ => false

/-- The wired outputs of an element that lead to a channel or a unit; an advance word's path carries no MARK (R166). [DEDUCED: log 39] -/
def Region.markedOuts (g : Region) (e : Nat) : List Nat := (List.range 4).filter fun c => (g.outOf e c).any (·.rtag != 63)

/-- The router steps of a tile, narrow ports then wide ones (R372). -/
def State.tileSteps (s : State) (t : Nat) : List Nat := let x := s.tile t; (x.narrow.ports ++ x.wide.ports).map (·.step)

/-- The save of an element ends; with the last of its tile, the steps of the tile's routers are recorded (R372). -/
def State.endSave (s : State) (g : Region) (e : Nat) : State :=
  let s1 := s.modElem e fun x => { x with saved := true }
  let t := elemTile e
  if (s1.regionElems g.id).all fun p => elemTile p.1 != t || p.2.saved then s1.modRegion g.id fun r => { r with steps := tput r.steps t (s1.tileSteps t) }
  else s1

/-- An element may take its snapshot: every fire in flight has completed and every request has been answered, but for the waits of R373. -/
def State.snapReady (s : State) (e : Nat) : Bool :=
  let still := s.stillAccesses e
  (s.accesses.all fun a => a.elem != e || a.core.isSome || still.contains a.id) && (s.flights.all fun f => f.elem != e || s.stillFlight still f)

/-- The snapshot of an element (R371): MARKs that have come are counted and leave their channels, and a MARK goes behind the tokens of each
wired output. -/
def State.snapshot (s : State) (g : Region) (e : Nat) : State :=
  let s1 := (s.withdrawElem e).modElem e fun x =>
    let ins := x.ins.map fun (c : InCh) =>
      { c with q := c.q.filter (·.tag != 4), marks := c.marks + (c.q.filter (·.tag == 4)).length, closed := false }
    let outs := x.outs.mapIdx fun n (c : OutCh) =>
      if (g.markedOuts e).contains n then { c with q := c.q ++ [OutEntry.tok { tag := 4, seen := s.tick }] } else c
    { x with snapped := true, ins := ins, outs := outs }
  if (g.wiredIns e).isEmpty then s1.endSave g e else s1

/-- The result ports of a matrix node that are wired (R294). -/
def Region.resultPorts (g : Region) (n : Nat) : List Nat :=
  (List.range 2).filter fun p => g.wires.any fun w => w.src.unit && w.src.port == 8 + p && g.placeTile w.src == nodeTile n

/-- A matrix node may be cut: no drain is under way, and no vector is in its array (R373). -/
def MxNode.cuttable (x : MxNode) : Bool := x.marks == 0 && x.drain.isNone && x.streams.all fun st => st.inside.isEmpty

/-- A matrix node takes its part in the cut: a MARK goes behind the words of each wired result port (R373). -/
def State.cutNode (s : State) (g : Region) (n : Nat) : State :=
  s.modNode n fun x =>
    { x with marks := 1
             outs := x.outs.mapIdx fun p q => if (g.resultPorts n).contains p then q ++ [{ tag := 4, seen := s.tick }] else q }

/-- ELEMENT_SNAPSHOT: an element of a region in a cut takes its snapshot; the index 6 of a tile stands for its matrix node (R371, R373). -/
def execElementSnapshot (e : Nat) (s : State) : Host.Outcome State Fault Refusal :=
  if elemIdx e = 6 then
    match nodeOf (elemTile e), (s.tile (elemTile e)).region.bind s.region? with
    | some n, some g => guarded (s.inCut g && (g.claimed 1).contains n && (s.node n).cuttable) s (s.cutNode g n)
    | _, _ => .next s
  else
    match s.regionOf e with
    | none => .next s
    | some g =>
      let x := s.elem e
      guarded (s.inCut g && x.loaded && !x.snapped && s.snapReady e) s (s.snapshot g e)

/-- INPUT_CLOSE: as many MARKs as records wire an input have come, and it closes; with the last of its inputs the element's save ends
(R372). -/
def execInputClose (e c : Nat) (s : State) : Host.Outcome State Fault Refusal :=
  match s.regionOf e with
  | none => .next s
  | some g =>
    let x := s.elem e
    let s1 := s.modElem e fun x => x.modIn c fun ch => { ch with closed := true }
    let y := s1.elem e
    guarded (s.inCut g && x.snapped && !x.saved && (g.wiredIns e).contains c && !(x.in_ c).closed && decide ((g.into e c).length ≤ (x.in_ c).marks)) s
      (if (g.wiredIns e).all fun k => (y.in_ k).closed then s1.endSave g e else s1)

/-! ## The end of a cut (R372 to R375) -/

/-- A MARK has come on every record that wires an input port of a claimed node, and its own have left (R373). -/
def State.nodeClosed (s : State) (g : Region) (n : Nat) : Bool :=
  let x := s.node n
  let due := fun (p : Nat) => (g.wires.filter fun w => w.dst.unit && w.dst.port == p && w.rtag != 63 && !w.swg && g.placeTile w.dst == nodeTile n).length
  let got := fun (q : List Token) => (q.filter (·.tag == 4)).length
  x.marks != 0 && x.outs.all List.isEmpty && ((List.range 4).all fun p => decide (due (p + 1) ≤ got (x.repeats.getD p {}).inq))
    && decide (due 6 ≤ got x.scaleA) && decide (due 7 ≤ got x.scaleB)

/-- A save of a region can be made: the pool is enabled, no state of it is lost (R369), its tiles are all its own (R182), and no token of it is
held at a router (R165). [DEDUCED: log 38] -/
def State.savable (s : State) (g : Region) : Bool :=
  s.faults.svcfg.getLsbD 0 && g.savable && g.tiles.all fun t =>
    let x := s.tile t
    x.region == some g.id && (x.narrow.ports ++ x.wide.ports).all fun p => !p.miss

/-- A collective of a region that has begun still runs (R373). -/
def State.collRuns (s : State) (g : Nat) : Bool :=
  s.colls.any fun p => p.2.any fun q => !q.remote && q.cmd.region == g && (q.pos != 0 || !q.shadows.isEmpty)

/-- The cut of a region is complete, or as far as it can come where no save can be made (R370, R372). [DEDUCED: log 38] -/
def State.cutDone (s : State) (g : Region) : Bool :=
  let els := s.regionElems g.id
  s.inCut g && els.all (fun p => p.2.snapped) && !s.collRuns g.id
    && (!s.savable g || (els.all (fun p => p.2.saved && (g.markedOuts p.1).all fun c => (p.2.out c).q.isEmpty)
        && (g.claimed 1).all fun n => s.nodeClosed g n))

/-- The blocks of a save (R374, R375): for each, UNIT, region-relative row and column, ELEM, NBLK and INDEX. A tile has six element blocks and
fifty of its own. [DESIGN CHOICE: log 40] -/
def Region.saveBlocks (g : Region) : List (Nat × Nat × Nat × Nat × Nat × Nat) :=
  let tile := fun (x y : Nat) => (List.range 6).map (fun e => (0, y, x, e, 1, 0)) ++ (List.range 50).map fun j => (15, y, x, 0, 50, j)
  let unit := fun (c : Claim) =>
    let n := if c.kind = 1 then Config.saveBlocksNode else Config.saveBlocksUnit
    let u := if c.kind = 1 then 1 else if c.kind = 2 then 3 else if c.kind = 3 then 5 else 4
    (List.range n).map fun j => (u, c.y, c.x, 0, n, j)
  ((List.range g.hdr.h).flatMap fun y => (List.range g.hdr.w).flatMap fun x => tile x y) ++ g.hdr.claims.flatMap unit

/-- A block under its tag: header and payload, and the keyed hash of both (R374). -/
def taggedBlock (key b : List Byte) : List Byte := b ++ kmac256 key b 256 (asciiBytes "W9 SAVE")

/-- The 4,096 bytes of a block, block j of save or dump `id`: header, payload and tag; `x` gives UNIT, row, column, ELEM, NBLK and INDEX (R374). [DESIGN CHOICE: log 40] -/
def stateBlock (key : List Byte) (id task cutno since j : Nat) (x : Nat × Nat × Nat × Nat × Nat × Nat) : List Byte :=
  let (u, ry, rx, e, n, i) := x
  taggedBlock key <| natLe 8 (n * 2 ^ 48 + i * 2 ^ 32 + 0x65766173) ++ natLe 8 (task * 2 ^ 52 + u * 2 ^ 48 + ry * 2 ^ 40 + rx * 2 ^ 32 + e * 2 ^ 29)
    ++ natLe 8 cutno ++ natLe 8 since ++ List.replicate 32 0
    ++ (List.range 4000).map (Config.savePayload id j)

/-- Block j of a save (R374). [DESIGN CHOICE: log 40] -/
def Save.block (v : Save) (key : List Byte) (j : Nat) : List Byte :=
  stateBlock key v.id (if v.region.named then v.region.taskid else 0) v.cutno v.since j (v.region.saveBlocks.getD j (0, 0, 0, 0, 0, 0))

/-- The address of block n of the save pool (R375). [DESIGN CHOICE: log 40] -/
def State.saveAddr (s : State) (n : Nat) : Nat := s.faults.svbase.toNat + 4096 * n

/-- Pool blocks that no save holds, lowest first. [DESIGN CHOICE: log 40] -/
def State.freeBlocks (s : State) : List Nat :=
  let used := s.faults.saves.flatMap (·.blocks)
  (List.range (2 ^ min (bits s.faults.svcfg.toNat 5 1) 24)).filter fun n => !used.contains n

/-- The local part of a tile (R227). -/
def State.localPart (s : State) (t : Nat) : List Host.Cell :=
  s.mem.filter fun c => decide (slicePa t 0 ≤ c.1) && decide (c.1 < slicePa t Config.globalBase)

/-- An element as its save holds it: what its inputs held and recorded, and the tokens of outputs that no wire takes (R371, R372). [DEDUCED: log 39] -/
def Elem.kept (x : Elem) (g : Region) (e : Nat) : Elem :=
  { x with shadow := none, snapped := false, saved := false, walks := []
           ins := x.ins.map fun (c : InCh) => { c with q := c.q ++ c.record, arriving := [], record := [], marks := 0, closed := false }
           outs := x.outs.mapIdx fun n (c : OutCh) => if (g.wiredOuts e).contains n then { c with q := [] } else c }

/-- A matrix node as its save holds it (R373): an MLOAD in progress is run again. -/
def MxNode.kept (x : MxNode) : MxNode :=
  let plain := fun (q : List Token) => q.filter (·.tag != 4)
  { x with loading := none, cmds := (x.loading.toList.map (·.cmd)) ++ x.cmds, mloads := x.mloads - (if x.loading.isSome then 1 else 0), stopped := false
           marks := 0, outs := List.replicate 2 [], acts := x.acts.map plain, scaleA := plain x.scaleA, scaleB := plain x.scaleB
           repeats := x.repeats.map fun (r : Repeat) => { r with inq := plain r.inq } }

/-- The blocks of a tile's local part that cannot be read (R369). -/
def State.localPoison (s : State) (t : Nat) : List Nat :=
  s.poison.filter fun k => decide (slicePa t 0 ≤ 64 * k) && decide (64 * k < slicePa t Config.globalBase)

/-- The save of a region, as it stands at the end of its cut; the routers of a tile without an element of the region stand since the end (R372). -/
def State.makeSave (s : State) (g : Region) (c : Nat) : Save :=
  { id := s.ids, launch := g.launch, cutno := g.cutno, since := c, blocks := s.freeBlocks.take g.hdr.blocks, region := g
    elems := (s.regionElems g.id).map fun p => (p.1, p.2.kept g p.1)
    flights := s.flights.filter (·.region == g.id), accesses := s.accesses.filter fun a => a.region == g.id && a.core.isNone
    steps := g.tiles.map fun t => (t, tget g.steps t (s.tileSteps t)), locals := g.tiles.map fun t => (t, s.localPart t)
    poison := g.tiles.flatMap s.localPoison, chains := s.chains.filter (·.region == g.id)
    nodes := (g.claimed 1).mapIdx fun i n => (i, (s.node n).kept)
    copies := (g.claimed 2).mapIdx fun i n =>
      let x := s.engine n
      (i, x.running.filter (·.cmd.region == g.id), (x.queue ++ x.spilled).filter (·.region == g.id)) }

/-- The commands of a region leave its engines, into its save. -/
def State.takeCopies (s : State) (g : Nat) : State := { s with engines := s.engines.map fun e => (e.1, e.2.without g) }

/-- Every block of a save is written, as the management core (R372, R374). -/
def State.writeBlocks (s : State) (v : Save) : State :=
  (v.blocks.mapIdx fun j n => (j, n)).foldl (fun s x => s.writeAs .mgmt (s.saveAddr x.2) (v.block s.mgmt.ksave x.1)) s

/-- The save of a region is made and its launch holds it. -/
def State.saveRegion (s : State) (g : Region) (c : Nat) : State :=
  let v := s.makeSave g c
  let s1 := (s.newId.writeBlocks v).takeCopies g.id
  ({ s1 with flights := s1.flights.filter (·.region != g.id), accesses := s1.accesses.filter fun a => !(a.region == g.id && a.core.isNone)
             chains := s1.chains.filter (·.region != g.id), faults := { s1.faults with saves := s1.faults.saves ++ [v] } }).modLaunch g.launch
    fun l => { l with save := some v.id }

/-- A region goes on; whatever follows it goes on with it, and the gap windows of both start afresh (R277, R378). A BREAK that the host has still to
resume holds it frozen (R406). [DEDUCED: log 38] -/
def State.thaw (s : State) (g : Region) : State :=
  if (match s.region? g.id with | some r => r.brk.isSome | none => false) then
    s.modRegion g.id fun r => { r with freeze := r.brk.map Freeze.brk, cut := .none, patches := [] }
  else
  let s1 := s.modRegion g.id fun r => { r with freeze := none, cut := .none, lastFire := s.tick, frozenTicks := 0, patches := [] }
  let s2 := match g.follow with
    | some f => (s1.modRegion f fun r => { r with freeze := if r.freeze == some Freeze.leader then none else r.freeze, lastFire := s.tick }).thawChains f
    | none => s1
  s2.thawChains g.id

/-- The record of a fault as it is written at the end of the cut: whether a save exists, and the flags of R366 as they have become. [DEDUCED: log 38] -/
def State.closeRecord (s : State) (g : Region) (k : Nat) (made : Bool) : State :=
  let open_ := fun (l : List Nat) => l.any fun i => decide (g.passed ≤ i)
  (s.modRecord k fun r => { r with saved := made, sdirty := open_ g.dirtyS, xdirty := open_ g.dirtyX }).writeRecord k

/-- The records of faults of a region's launch that are still to be written and delivered; that of a BREAK goes to no edge (R406). -/
def State.undelivered (s : State) (g : Region) : List FaultRec :=
  s.faults.records.filter fun r => r.region == g.id && r.launch == g.launch && !r.delivered && r.code != Trap.brk.code

/-- The records of a region's faults are written and delivered, in the order of the faults (R362, R364). -/
def State.deliverAll (s : State) (g : Region) (made : Bool) : State :=
  (s.undelivered g).foldl (fun s r => (s.closeRecord g r.id made).deliverFault g r.id) s

/-- CUT_COMPLETE: the saves have ended and every block is written; the sequence units have written the region's slots back; the fault records
are written and delivered, or the pre-empted launch is READY with its save (R362, R364, R372, R373, R376). A fault that comes after it has its record
delivered under the same cut (R359). [DEDUCED: log 38] -/
def execCutComplete (gi : Nat) (s : State) : Host.Outcome State Fault Refusal :=
  match s.region? gi with
  | none => .next s
  | some g =>
    match g.cut with
    | .running c =>
      let made := s.savable g
      let s1 := (s.writeBackSlots gi).modRegion gi fun r => { r with cut := .complete c }
      let s2 := if made then s1.saveRegion { g with cut := .complete c } c else s1
      guarded (s.cutDone g) s
        (if g.faulted then s2.deliverAll g made
          else match s2.launch? g.launch with
            | some l => if made then s2.vacate l g else s2.thaw g
            | none => s2)
    | .complete _ =>
      let made := match s.launch? g.launch with | some l => l.save.isSome | none => false
      guarded (g.faulted && !s.dbg.stopped) s (s.deliverAll g made)
    | .none => .next s

/-! ## Pre-emption (R376) -/

/-- PREWIN in ticks. -/
def State.prewin (s : State) : Nat :=
  let n := bits s.faults.prewin.toNat 31 0
  (if n = 0 then 100 else n) * Config.ticksPerMicro

/-- A launch of class 1 has waited PREWIN µs. -/
def State.impatient (s : State) (l : Launch) : Bool :=
  (l.lrec.cls == 1 || l.lrec.preload) && l.handler.isNone &&
    (match l.state with | .ready t => decide (t + s.prewin ≤ s.tick) | _ => false)

/-- A launch of class 2 or 3 that is no reservation and no handler. -/
def State.lowClass (s : State) (g : Region) : Bool :=
  decide (2 ≤ g.cls) && (match s.launch? g.launch with | some l => !l.lrec.preload && !l.lrec.timed && l.handler.isNone | none => false)

/-- The load of a region is under way, other than that of a follow-on. -/
def State.loadingAt (s : State) (g : Region) : Bool :=
  match s.launch? g.launch with
  | some l => l.followOf.isNone && (match l.state with | .loading t => t != 0 | _ => false)
  | none => false

/-- A placed launch that may be pre-empted: of class 2 or 3, whole on its tiles, running, with a save to be made, or one whose load is under way (R195,
R376). -/
def State.preemptible (s : State) (g : Region) : Bool :=
  s.lowClass g && g.ending.isNone && (s.loadingAt g || (g.live && g.freeze.isNone && g.halt.isNone && s.savable g
    && (match s.launch? g.launch with | some l => l.state == .running | none => false)))

/-- A load is abandoned (R195): its launch is READY, to be loaded from the first block wherever it is placed next, once the network there is free of
lower class numbers. [DEDUCED: log 41] -/
def State.abandonLoad (s : State) (g : Region) : State :=
  match s.launch? g.launch with
  | none => s
  | some l =>
    let s1 := (s.returnFollow g).leave_ g
    let again := if l.save.isNone && (g.passed != 0 || g.first.isSome) then some (g, g.passed) else none
    (({ s1 with regions := s1.regions.filter (·.id != g.id) }.unfollow g.id).readyAgain l g).modLaunch l.id fun x => { x with again := again, abandoned := true }

/-- A victim is frozen to be cut, or its load abandoned. -/
def State.reclaim (s : State) (g : Region) : State :=
  if s.loadingAt g then s.abandonLoad g else s.modRegion g.id fun x => x.stop .preempt s.tick

/-- The order of victims: highest class number first, then most recent placement. -/
def State.victims (s : State) : List Region :=
  let placed := fun (g : Region) => match s.launch? g.launch with | some l => l.placed | none => 0
  let l := s.regions.filter s.preemptible
  let rec insert (x : Region) : List Region → List Region
    | [] => [x]
    | y :: r => if y.cls < x.cls ∨ (y.cls = x.cls ∧ placed y < placed x) then x :: y :: r else y :: insert x r
  l.foldl (fun acc x => insert x acc) []

/-- The shortest run of victims whose tiles would let a launch be placed. -/
def State.enough (s : State) (l : Launch) : List Region → Nat → Option (List Region)
  | _, 0 => none
  | vs, k + 1 =>
    match s.enough l vs k with
    | some r => some r
    | none =>
      let chosen := vs.take (k + 1)
      let t := { s with regions := s.regions.filter fun g => !chosen.any fun (c : Region) => c.id == g.id || c.follow == some g.id }
      match t.placing l.lrec l.img with
      | .place _ _ => some chosen
      | _ => none

/-- PREEMPT: a launch of class 1 has been READY for PREWIN µs, and the regions whose tiles it needs are frozen and cut, or their loads abandoned (R195,
R376). -/
def execPreempt (li : Nat) (s : State) : Host.Outcome State Fault Refusal :=
  match s.launch? li with
  | none => .next s
  | some l =>
    if !s.impatient l || s.dbg.stopped || s.regions.any (fun g => g.live && g.freeze == some .preempt) then .next s
    else match s.placing l.lrec l.img with
      | .wait =>
        let vs := s.victims
        (match s.enough l vs vs.length with
          | some c => .next (c.foldl State.reclaim s)
          | none => .next s)
      | _ => .next s

/-! ## Restore (R377 to R380, R384) -/

/-- Every block of a save reads as it was written (R378). -/
def State.saveSound (s : State) (v : Save) : Bool :=
  (v.blocks.mapIdx fun j n => (j, n)).all fun x =>
    match s.translate .mgmt (s.saveAddr x.2) false false false with
    | (.pa p, _) => !s.poisoned p 4096 && memRead s.mem p 4096 == v.block s.mgmt.ksave x.1
    | (.fail _, _) => false

/-- Where a launch may come back (R377, R201): at its own place where it has kept it and that still serves, else at the first origin that qualifies.
Where the repair maps leave none, it has no place; else it waits. [DEDUCED: log 41] -/
def State.placeAgain (s : State) (l : Launch) (g : Region) : Placing :=
  let t := { s with regions := s.regions.filter fun x => x.predecessor != some g.id }
  let at_ := fun (p : Nat × Nat) => t.fit l.img p.1 p.2 g.id
  let own := match s.region? g.id with | some x => at_ (x.ox, x.oy) == Fit.ok | none => false
  match s.region? g.id, own, origins.find? fun p => at_ p == Fit.ok with
  | some x, true, _ => .place x.ox x.oy
  | _, _, some p => .place p.1 p.2
  | _, _, none => if origins.any fun p => at_ p == Fit.held || at_ p == Fit.gated then .wait else .dead

/-- A place that a launch has kept is left, where it comes back at another. -/
def State.leaveOld (s : State) (g : Region) (ox oy : Nat) : State :=
  match s.region? g.id with
  | some x => if x.ox = ox ∧ x.oy = oy then s else ((s.returnFollow x).leave_ x).modRegion x.id fun y => { y with follow := none }
  | none => s

/-- A launch that comes back takes its place: the task runs, and the placement counts as the latest (R192, R376). -/
def State.comeBack (s : State) (l : Launch) : State :=
  let s1 := s.newId.modLaunch l.id fun x => { x with placed := s.ids, misplaced := false, abandoned := false }
  if l.lrec.named && !l.lrec.timed && l.handler.isNone then s1.modTask l.lrec.taskid fun t => { t with state := .running } else s1

/-- The record of a save that is corrupt, which goes to the management core at once (R379). -/
def State.corruptRecord (s : State) (l : Launch) (v : Save) : FaultRec :=
  { s.faultRecord v.region { id := 0, code := cSaveCorrupt, unit := 15 } with launch := l.id, saved := false, delivered := true, toMc := true }

/-- A save fails its check (R379): the launch starts again where it may, else it completes TRAPPED, with a record that goes to the management core;
a handler's task goes on to its next record (R364). [DEDUCED: log 41] -/
def State.corrupt (s : State) (l : Launch) (v : Save) (ox oy : Nat) : State :=
  match restartFrom l v.region with
  | some k => ((s.leaveOld v.region ox oy).retryAt l { v.region with ox := ox, oy := oy, follow := none } k).comeBack l
  | none =>
    let k := s.ids
    let s1 := ({ s.newId with faults := { s.faults with records := s.faults.records ++ [s.corruptRecord l v] } }).writeRecord k
    let a := match s1.record? k with | some r => r.slotAddr | none => 0
    let s2 := (s1.log 3 a).endLaunch l (some ((s.region? v.region.id).getD v.region)) 4 0 a
    if l.handler.isSome then s2.endHandler l else s2

/-- A restore begins (R378 steps 1 and 2): the image is loaded into the planes of the new place. -/
def State.beginRestore (s : State) (l : Launch) (v : Save) (ox oy : Nat) : State :=
  let s0 := s.leaveOld v.region ox oy
  let old := s0.region? v.region.id
  let s1 := match old with | some g => s0.leave_ g | none => s0
  let g : Region := { v.region with ox := ox, oy := oy, freeze := some .preempt, freezeAt := 0, cut := .none, live := false
                                    follow := old.bind (·.follow), predecessor := none }
  let s2 := { s1 with regions := s1.regions.filter (fun (x : Region) => x.id != g.id) ++ [g] }
  ((s2.install g l.img).modLaunch l.id fun x => { x with state := .loading (s.tick + 360 + g.coldCycles), region := g.id }).comeBack l

/-- An element's key at another origin. -/
def shiftElem (v : Region) (g : Region) (e : Nat) : Nat :=
  let t := elemTile e
  elemKey (tileKey (g.ox + (tileX t - v.ox)) (g.oy + (tileY t - v.oy))) (elemIdx e)

/-- The tokens of a channel record come to the front of their channel, one a cycle as room allows (R378). [DEDUCED: log 42] -/
def InCh.refill (c : InCh) (t : Nat) : InCh :=
  let n := 4 - c.kept
  { c with q := (c.q.take n).mapIdx fun i (k : Token) => { k with seen := t + 1 + i }, record := c.q.drop n }

/-- A fire in flight as it is issued again (R378 step 5). -/
def Flight.reissue (f : Flight) (v g : Region) : Flight :=
  let f1 := { f with elem := shiftElem v g f.elem, region := g.id }
  match f.wait with
  | .withdrawn w => { f1 with wait := w }
  | _ => f1

/-- A PARK is made again, as if decided then: a FULL register completes it at once, and one on which another PARK waits traps it (R222, R373). [DEDUCED: log 42] -/
def State.repark (s : State) (f : Flight) : State :=
  match f.wait with
  | .park w =>
    let r := s.wake w
    if f.ready then s
    else if r.state = 2 then s.lateTrap f .wakeBusy 0
    else if r.state = 1 then
      (s.setWake w {}).resolve f.id (some (scalarVal (isWide f.elem) 6 r.val.toNat)) (some (scalarVal (isWide f.elem) 6 r.count)) true s.tick
    else s.setWake w { state := 2, fire := f.id }
  | _ => s

/-- An access that a cut withdrew, or a fault record kept, sets out again (R378 steps 5 and 6): to its owner, or straight to its node where it is
not translated. The owner walks for the token of a fault record (R380). -/
def Access.reissue (a : Access) (v g : Region) (t : Nat) : Access :=
  let a1 := { a with elem := shiftElem v g a.elem, asked := false, after := none, anew := match a.stage with | .expired _ => true | _ => a.anew }
  match a.stage with
  | .cut | .expired _ =>
    (match a.kind with
      | .notify _ => { a1 with stage := .toNode 0, due := t + 1 }
      | .lds | .sts => let p := g.scratchPa a.va; { a1 with stage := .toNode p, due := t + travel (elemTile a1.elem) (paTile p) }
      | _ => { a1 with stage := .toOwner, due := t + 1 })
  | _ => a1

/-- The commands of a save return to their engine. -/
def State.refillEngine (s : State) (v g : Region) (x : Nat × List Running × List Cmd) : State :=
  match (g.claimed 2)[x.1]? with
  | none => s
  | some n =>
    let move := fun (c : Cmd) => { c with elem := shiftElem v g c.elem }
    s.modEngine n fun e => { e with running := e.running ++ x.2.1.map (fun (r : Running) => { r with cmd := move r.cmd }), queue := e.queue ++ x.2.2.map move }

/-- The load that fetches a weight plane of node n again from its recorded source (R378). [DEDUCED: log 42] -/
def reloadCmd (g n : Nat) (w : Weights) : Cmd :=
  { opc := 0xC0, a := BitVec.ofNat 64 w.src, b := BitVec.ofNat 64 (w.fmt * 16 + (w.k - 1) * 256), fire := 0, elem := elemKey (nodeTile n) 0, ctx := 0
    slot := 0, region := g, cls := 3, inv := 0 }

/-- A weight plane without its codes, which are open. -/
def Weights.open_ (w : Weights) : Weights := { w with rows := [], scales := [] }

/-- A weight plane is fetched again from its recorded source, as MLOAD does (R297, R378): what stands there now, with whether a word is poisoned, which
leaves it open; or a source that does not translate. [DEDUCED: log 42] -/
def State.refetch (s : State) (g n : Nat) (w : Weights) : Reach (Weights × Bool) :=
  match s.unitRead g 16 w.src (tileBytes (reloadCmd g n w)) with
  | .done (b, bad) s1 => .done (if bad then w.open_ else tileOf (reloadCmd g n w) b, bad) s1
  | .held va cd => .held va cd

/-- The weight plane that a restore puts in a node. -/
def State.reloaded (s : State) (g n : Nat) (w : Weights) : Weights := match s.refetch g n w with | .done (x, _) _ => x | .held _ _ => w.open_

/-- The weight planes that a restore fetches again, with their nodes. -/
def Save.planes (v : Save) (g : Region) : List (Nat × Weights) :=
  v.nodes.flatMap fun x => match (g.claimed 1)[x.1]? with
    | some n => (x.2.active.toList ++ x.2.shadow.toList).map fun w => (n, w)
    | none => []

/-- The first source of a restore's weights that does not translate, with its node's load (R241, R378). -/
def State.weightsHeld (s : State) (v : Save) (g : Region) : Option (Nat × Cmd × Nat × Nat) :=
  (v.planes g).findSome? fun x => match s.refetch g.id x.1 x.2 with
    | .held va cd => some (x.1, reloadCmd g.id x.1 x.2, va, cd)
    | .done _ _ => none

/-- The nodes whose weights a restore finds poisoned fault with MX_POISON (R297, R369, R378). -/
def State.poisonedWeights (s : State) (v : Save) (g : Region) : State :=
  (v.planes g).foldl (fun t x => match s.refetch g.id x.1 x.2 with
    | .done (_, true) _ => t.nodeFault x.1 (reloadCmd g.id x.1 x.2) cMxPoison 1 x.1
    | _ => t) s

/-- A matrix node takes its saved state. [DEDUCED: log 42] -/
def State.refillNode (s : State) (v g : Region) (x : Nat × MxNode) : State :=
  match (g.claimed 1)[x.1]? with
  | none => s
  | some n =>
    let move := fun (c : Cmd) => { c with elem := shiftElem v g c.elem }
    s.modNode n fun _ =>
      { x.2 with cmds := x.2.cmds.map move, active := x.2.active.map (s.reloaded g.id n), shadow := x.2.shadow.map (s.reloaded g.id n)
                 spill := (s.node n).spill, streams := x.2.streams.map fun (st : Stream) => { st with cmd := move st.cmd }
                 repeats := x.2.repeats.map fun (r : Repeat) => { r with sets := r.sets.map move, ends := r.ends.map move } }

/-- The local parts of a save stand in the slices of the new place, what could not be read of them among it (R369, R374). -/
def State.refillLocal (s : State) (v : Save) (g : Region) (x : Nat × List Host.Cell) : State :=
  let t := elemTile (shiftElem v.region g (elemKey x.1 0))
  let bad := v.poison.filter fun k => decide (slicePa x.1 0 ≤ 64 * k) && decide (64 * k < slicePa x.1 Config.globalBase)
  let clear := { s with mem := s.mem.filter fun c => decide (c.1 < slicePa t 0) || decide (slicePa t Config.globalBase ≤ c.1)
                        poison := (s.poison.filter fun k => !(s.localPoison t).contains k) ++ bad.map fun k => k - slicePa x.1 0 / 64 + slicePa t 0 / 64 }
  x.2.foldl (fun s c => { s with mem := memPut s.mem (c.1 - slicePa x.1 0 + slicePa t 0) c.2 }) clear

/-- The steps of a tile's routers are set. -/
def State.refillSteps (s : State) (v g : Region) (x : Nat × List Nat) : State :=
  let t := elemTile (shiftElem v g (elemKey x.1 0))
  let put := fun (o : Nat) (r : Router) => { r with ports := r.ports.mapIdx fun i (p : RPort) => { p with step := x.2.getD (o + i) 0 } }
  s.modTile t fun y => { y with narrow := put 0 y.narrow, wide := put 5 y.wide }

/-- An element takes its saved state in the plane that the load brought (R378 step 3). [DEDUCED: log 42] -/
def State.refillElem (s : State) (v g : Region) (p : Nat × Elem) : State :=
  let e := shiftElem v g p.1
  let x := s.elem e
  s.setElem e { p.2 with region := some g.id, loaded := true, ins := p.2.ins.map fun (c : InCh) => c.refill s.tick
                         active := x.active, shadow := x.shadow, fenced := x.fenced, patched := false
                         ctxs := p.2.ctxs.mapIdx fun k (c : Ctx) => { c with spmap := x.active.spmaps.getD k 0 } }

/-- A plane after a write of slot words and literals (R382). -/
def Plane.written (p : Plane) (w : StoreWrite) : Plane :=
  { p with slots := w.slots.foldl (fun l x => l.set x.1 { trig := x.2.1, op := x.2.2.1, upd := x.2.2.2 }) p.slots
           lits := w.lits.foldl (fun l x => l.set x.1 (x.2.1, x.2.2)) p.lits }

/-- A write of the control store that the freeze has taken is in the plane of the new place: it takes effect at the first decision after the thaw
(R382). -/
def State.repatch (s : State) (v g : Region) (x : Nat × StoreWrite) : State :=
  s.modElem (shiftElem v g x.1) fun y => { y with active := y.active.written x.2, patched := true }

/-- PEND of the records whose tokens have been reinjected clears, in their slots too where they still stand there (R378 step 6): of the record that brought
the restore, and of any other whose token stands in the save. One that has been disposed of leaves. [DEDUCED: log 42] -/
def State.clearPend (s : State) (l : Nat) (tokens : List Nat) : State :=
  (s.faults.records.filter fun r => r.launch == l && r.pend && (r.disposed || r.access.any tokens.contains)).foldl (fun s r =>
    let s1 := if r.disposed then s.forget r.id else s.modRecord r.id fun x => { x with pend := false }
    if r.slotAddr != 0 && s1.faults.used.contains r.slotAddr then
      s1.writeAs .mgmt r.slotAddr (natLe 8 (({ r with pend := false } : FaultRec).doubles.headD 0))
    else s1) s

/-- A fire that waits for a reservation in its output channels has it again, in decision order. [DEDUCED: log 39] -/
def State.rereserve (s : State) (f : Flight) : State :=
  let put := fun (n : Nat) (c : OutCh) => if (opOuts f.op f.opc).contains n then { c with q := c.q ++ [OutEntry.rsv f.id] } else c
  s.modElem f.elem fun x => { x with outs := x.outs.mapIdx put }

/-- The BREAK that still holds a restored region stands at the place of its BRK there (R406). [DEDUCED: log 22] -/
def State.moveBreak (s : State) (v g : Region) : State :=
  match g.brk with
  | some k => s.modRecord k fun r =>
      let t := elemTile (shiftElem v g (elemKey (tileKey r.x r.y) r.elem))
      { r with x := tileX t, y := tileY t }
  | none => s

/-- A restore ends (R378 steps 3 to 7): the state of the save stands in the new place, its waits are issued again, the withheld token is back
at its owner, and the region thaws. [DEDUCED: log 42] -/
def State.endRestore (s : State) (l : Launch) (v : Save) (g : Region) : State :=
  let s1 := g.tiles.foldl (fun s t => (s.swapTile t g).modTile t fun x => { x with startAt := s.tick + 1 }) s
  let s2 := g.patches.foldl (fun s x => s.repatch v.region g x) (v.elems.foldl (fun s p => s.refillElem v.region g p) s1)
  let s3 := v.locals.foldl (fun s p => s.refillLocal v g p) s2
  let s4 := v.steps.foldl (fun s p => s.refillSteps v.region g p) s3
  let s5 := v.nodes.foldl (fun s p => s.refillNode v.region g p) s4
  let s6 := v.copies.foldl (fun s p => s.refillEngine v.region g p) s5
  let fl := v.flights.map fun f => f.reissue v.region g
  let acc := v.accesses.map fun (a : Access) => a.reissue v.region g s.tick
  let moveUndo := fun (u : Undo) =>
    if u.region == g.id then let t := elemTile (shiftElem v.region g (elemKey u.tile 0)); { u with tile := t, pa := u.pa - slicePa u.tile 0 + slicePa t 0 } else u
  let s7 := { s6 with flights := s6.flights ++ fl, accesses := s6.accesses ++ acc, chains := s6.chains ++ v.chains
                      undo := s6.undo.map moveUndo
                      held := s6.held.map fun (h : Held) => if h.region == g.id then { h with elem := shiftElem v.region g h.elem } else h
                      faults := { s6.faults with saves := s6.faults.saves.filter (·.id != v.id) } }
  let s8 := fl.foldl State.rereserve s7
  let tokens := (v.accesses.filter fun a => match a.stage with | .expired _ => true | _ => false).map (·.id)
  let s9 := ((s8.modRegion g.id fun r => { r with live := true, savable := true, steps := [] }).clearPend l.id tokens).moveBreak v.region g
  fl.foldl State.repark ((s9.thaw g).modLaunch l.id fun x => { x with state := .running, save := none })

/-- The token of a restore's fetch of weights that its owner withholds. [DEDUCED: log 42] -/
def State.fetchToken (s : State) (g : Nat) : Option Access :=
  s.accesses.find? fun a => a.region == g && a.fire == 0 && (match a.kind, a.stage with | .unit _, .withheld _ _ => true | _, _ => false)

/-- The load of a restore has ended (R378): its weights are fetched, as MLOAD fetches them. A source that does not translate holds the restore; past
FHOLD the region comes back, and faults with the token (R241, R380). [DEDUCED: log 42] -/
def State.finishRestore (s : State) (l : Launch) (v : Save) (g : Region) : State :=
  match s.fetchToken g.id with
  | some a =>
    (match a.stage with
      | .withheld cd since => if since + s.holdTicks g.id cd ≤ s.tick then (s.endRestore l v g).tokenFault a cd else s
      | _ => s)
  | none => match s.weightsHeld v g with
    | some (n, c, va, cd) => s.withhold (256 + n) c va cd false
    | none => (s.endRestore l v g).poisonedWeights v g

/-- A launch that no origin of the package can serve under the repair maps waits with PLACE_MISMATCH, which the management core hears of (R377). -/
def State.misplace (s : State) (l : Launch) : State :=
  if l.misplaced then s else (s.log 4 l.id).modLaunch l.id fun x => { x with misplaced := true }

/-- RESTORE: the blocks of a saved launch are checked and its image loaded; when the load ends its state returns and the region thaws (R377 to
R380). A launch that is to start again away from its place is loaded at another (R365, R370). -/
def execRestore (li : Nat) (s : State) : Host.Outcome State Fault Refusal :=
  match s.launch? li with
  | none => .next s
  | some l =>
    match l.again, s.saveOf l, l.state with
    | some (g, k), _, .ready t =>
      if s.dbg.stopped || decide (s.tick < t) then .next s
      else match s.placeAgain l g with
        | .place ox oy => guarded (!s.netHeld l { g with ox := ox, oy := oy }) s
            (((s.leaveOld g ox oy).restartHere l { g with ox := ox, oy := oy, follow := none } k).comeBack l)
        | .wait => .next s
        | .dead => .next (s.misplace l)
    | none, some v, .ready t =>
      if s.dbg.stopped || decide (s.tick < t) then .next s
      else match s.placeAgain l v.region with
        | .place ox oy => guarded (!s.netHeld l { v.region with ox := ox, oy := oy }) s
            (if s.saveSound v then s.beginRestore l v ox oy else s.corrupt l v ox oy)
        | .wait => .next s
        | .dead => .next (s.misplace l)
    | _, some v, .loading till =>
      match s.region? l.region with
      | some g => guarded (decide (till ≤ s.tick) && !s.dbg.stopped) s (s.finishRestore l v g)
      | none => .next s
    | _, _, _ => .next s

end Sys2Proof.Machine
end

