-- ==== Sys2Proof/Machine/Finish.lean ====
section
/-! DEFINITION. The ends of a launch: completion, BUDGET, the slackwater detector, the hang monitor, the quiet of a solo launch, the release of a
reservation (spec/09_scheduler.md R193, R199, R200, R203 to R205, R413; spec/01_element.md R33, R34). -/

namespace Sys2Proof.Machine

/-! ## Status words of a solo launch (R33) -/

/-- The status word of a binding (R33). The tag of a binding that has moved no token reads 0. [DESIGN CHOICE: log 79] -/
def Binding.word (b : Binding) : Nat :=
  b.moved % 2 ^ 32 * 2 ^ 32 + min b.poison 255 * 2 ^ 24 + b.lastTag * 2 ^ 21 + if b.overrun then 2 ^ 20 else 0

/-- The status access of a binding that its owner withholds. -/
def State.wordAccess (s : State) (g : Region) (b : Binding) : Option Access :=
  s.accesses.find? fun a => a.region == g.id && a.va == b.status && a.size == 8 && a.bindChan == some (b.sink, b.chan)

/-- BUDGET has ended a launch: its block is due within 3,600 ticks, which no status word may outwait (R200). -/
def Region.budgeted (g : Region) : Bool := match g.ending with | some st => st.1 == 6 | none => false

/-- The status word of binding i is written, or withheld (R33, R413). One whose hold runs out is a fault of the launch like any other withheld
token's (R380), unless a fault, the hang monitor or BUDGET has ended it: then it is not made, and the management core logs the launch and the address;
a launch that BUDGET has ended gives such a word up at once (R200). [DEDUCED: log 44; DESIGN CHOICE: log 88] -/
def State.writeWord (s : State) (g : Region) (i : Nat) : State :=
  let b := g.bind i
  let e := match s.regionElems g.id with | p :: _ => p.1 | [] => elemKey (tileKey g.ox g.oy) 0
  let done := fun (s : State) => s.modBind g.id i fun b => { b with worded := true }
  match s.wordAccess g b with
  | some a =>
    let lost := match a.stage with | .withheld cd since => decide (since + s.holdTicks g.id cd ≤ s.tick) | .expired _ => true | _ => false
    if (lost || g.budgeted) && !g.ownEnd then done (((s.dropAccess a.id).log 1 g.launch).log 2 b.status) else s
  | none =>
    match s.translate (.region g.hdr.gid) b.status true false false with
    | (.pa p, s1) => if s1.migrates b.status && !g.budgeted then s else done (s1.putAt b.status p (natLe 8 b.word))
    | (.fail cd, s1) =>
      if g.budgeted then done ((s1.log 1 g.launch).log 2 b.status)
      else s1.bindHeld g e i (if b.sink then .sink b.chan else .feed b.chan) b.status 8 cd true (BitVec.ofNat 512 b.word)

/-- The first binding of a launch that has still to write its status word. -/
def Region.nextWord (g : Region) : Option Nat := g.binds.findIdx? fun b => b.en && !b.worded

/-! ## Completion (R34, R193, R290) -/

/-- Work of a region stands at an engine or a collective engine: its writes are still to come (R290). -/
def State.engineWork (s : State) (g : Nat) : Bool :=
  (s.engines.any fun e => (e.2.queue ++ e.2.spilled ++ e.2.running.map (·.cmd) ++ e.2.pubs).any (·.region == g))
    || s.colls.any fun p => p.2.any fun q => !q.remote && q.cmd.region == g

/-- A region launch has run to its end (R193): its EBBs have been placed, and every tile that is still its own is clear. -/
def State.ranDry (s : State) (g : Region) : Bool :=
  !g.solo && g.live && g.injected && g.freeze.isNone && decide (g.boundaryAt + 1 < s.tick)
    && (g.tiles.all fun t => (s.tile t).shadowOf != some g.id && ((s.tile t).region != some g.id || s.tileClear t)) && !s.engineWork g.id

/-- A solo launch is DONE (R34): it has a sink that completion waits for, each such sink has stored a LAST or an EOS, and no fire is in flight. -/
def State.soloDone (s : State) (g : Region) : Bool :=
  let waits := g.binds.filter fun b => b.en && b.sink && decide (b.fin ≤ 1)
  g.solo && g.live && g.freeze.isNone && g.ending.isNone && !waits.isEmpty && waits.all (·.ended) && !s.flights.any (·.region == g.id)

/-- The launch of a region ends with a status (R193): its slots are written back (R338), its last stores perform where it ends well, its status
words and its block are written, its place and id are free, and NEXT falls. -/
def State.finish (s : State) (g : Region) (st : Nat × Nat × Nat) : State :=
  match s.launch? g.launch with
  | none => s
  | some l =>
    let s1 := s.writeBackSlots g.id
    let s2 := if g.solo && g.passed == 0 && [1, 2, 3].contains st.1 then s1.passBoundary g.id 0 else s1
    let g1 := (s2.region? g.id).getD g
    match g1.nextWord with
    | some i => s2.writeWord g1 i
    | none =>
      let s3 := s2.endLaunch l (some g1) st.1 st.2.1 st.2.2
      if l.handler.isSome then s3.endHandler l else s3

/-- What the output channels of a halted solo launch hold has been stored: they go on passing their tokens to the sinks (R111). -/
def State.sinksDrained (s : State) (g : Region) : Bool :=
  g.binds.all fun b => !b.en || !b.sink || (!b.waiting && (s.regionElems g.id).all fun p => (p.2.out b.chan).q.isEmpty)

/-- The page of a launch's completion block is under migration: the block, and what follows it, waits for its publication (R244, R245). -/
def State.blockMoves (s : State) (g : Region) : Bool := match s.launch? g.launch with | some l => s.migrates l.lrec.status | none => false

/-- A launch that ends well waits for its stores to reach their ports (R184), and one that has halted for its sinks (R111); a solo launch that a fault
has frozen while its last words are written waits for the disposition (R413). A block whose page migrates is waited for, but for BUDGET's (R200, R244). -/
def State.finishable (s : State) (g : Region) (st : Nat × Nat × Nat) : Bool :=
  (g.budgeted || !s.blockMoves g) && (!g.solo || !g.ownEnd || (g.freeze.isNone && (st.1 == 5 || s.storesIn g.id 0) && (st.1 != 2 || s.sinksDrained g)))

/-- LAUNCH_COMPLETE: a launch that has run dry is DONE, and one that has ended in any way completes (R34, R193). -/
def execLaunchComplete (gi : Nat) (s : State) : Host.Outcome State Fault Refusal :=
  match s.region? gi with
  | none => .next s
  | some g =>
    if s.dbg.stopped then .next s
    else match g.ending with
      | some st => guarded (s.finishable g st) s (s.finish g st)
      | none =>
        if s.ranDry g then guarded (!s.blockMoves g) s (s.finish g (1, 0, 0))
        else guarded (s.soloDone g) s (s.modRegion gi fun r => { r with ending := some (1, 0, 0) })

/-- SOLO_QUIET: a solo launch has had no fire for 4,096 cycles, its feeds have delivered every token, none is left in a channel, and no fire is in
flight (R34). -/
def execSoloQuiet (gi : Nat) (s : State) : Host.Outcome State Fault Refusal :=
  match s.region? gi with
  | none => .next s
  | some g =>
    let empty := (s.regionElems gi).all fun p => (p.2.ins.all fun c => c.q.isEmpty && c.arriving.isEmpty && c.record.isEmpty) && p.2.outs.all fun c => c.q.isEmpty
    let fed := g.binds.all fun b => !b.en || b.sink || decide (b.total ≤ b.next)
    guarded (g.solo && g.live && g.freeze.isNone && g.ending.isNone && decide (0 < g.started) && decide (g.lastFire + Config.quietCycles ≤ s.tick) && empty && fed
        && !s.flights.any (·.region == gi) && !s.dbg.stopped) s
      (s.modRegion gi fun r => { r with ending := some (3, 0, 0) })

/-! ## BUDGET (R200) -/

/-- BUDGET_EXPIRY: a timed launch has not completed BUDGET ticks after its first fire, and is ended, be it that its last words are still to come
(R200). -/
def execBudgetExpiry (gi : Nat) (s : State) : Host.Outcome State Fault Refusal :=
  match s.region? gi with
  | none => .next s
  | some g =>
    match s.launch? g.launch, g.first with
    | some l, some f =>
      guarded (l.lrec.timed && l.handler.isNone && (g.ending.isNone || g.ownEnd) && decide (f + l.lrec.budget ≤ s.tick) && !s.dbg.stopped) s
        ((s.discardOpen gi).modRegion gi fun r => { r with ending := some (6, 0, 0) })
    | _, _ => .next s

/-! ## The detectors (R203 to R205) -/

/-- A token remains in some channel or router buffer of a region. [DEDUCED: log 45] -/
def State.tokenRemains (s : State) (g : Region) : Bool :=
  ((s.regionElems g.id).any fun p =>
    (p.2.ins.any fun c => !c.q.isEmpty || !c.arriving.isEmpty || !c.record.isEmpty) || p.2.outs.any fun c => c.q.any fun k => match k with | .tok _ => true | _ => false)
    || g.tiles.any fun t => let x := s.tile t; x.region == some g.id && (x.narrow.ports ++ x.wide.ports).any fun p => !p.buf.isEmpty

/-- A request of a region is outstanding, or a fire of it in flight, or a context held by a YIELD (R203, R204, R213). [DEDUCED: log 45] -/
def State.busyRegion (s : State) (g : Region) : Bool :=
  (s.accesses.any fun a => a.region == g.id && a.core.isNone) || s.flights.any (·.region == g.id) || s.engineWork g.id
    || (g.claimed 1).any (fun n => let x := s.node n; !x.cmds.isEmpty || x.loading.isSome || !x.streams.isEmpty || x.drain.isSome)
    || (s.regionElems g.id).any fun p => (p.2.active.contexts.any fun k => decide (s.tick < (p.2.ctx k).yieldTo)) || !p.2.tags.isEmpty

/-- The first condition of R20 that fails for a slot in a context, with its channel (R204). -/
def State.blockedBy (s : State) (e k j : Nat) : Nat × Nat :=
  let x := s.elem e
  let sl := x.active.slot j
  let u := sl.upd.toNat
  let t := sl.trig.toNat
  let outs := match (s.slotInstr e j).bind (·.parts) with | some (opc, o) => opOuts o opc | none => []
  if bit u 10 && bits u 9 8 != k then (1, 0)
  else if !predsOk t (x.ctx k).preds then (2, 0)
  else match (List.range 4).find? fun n => bit t (12 + n) && ((x.in_ n).head s.tick).isNone with
    | some n => (3, n)
    | none => match (List.range 4).find? fun n => !x.headOk s.tick t n with
      | some n => (4, n)
      | none => match outs.find? fun n => !(x.out n).hasRoom with
        | some n => (5, n)
        | none => (0, 0)

/-- The wait-for report of a region (R204): at most 4,092 entries fit in its 64 KiB. -/
def State.waitReport (s : State) (g : Region) : List Byte :=
  let els := (s.regionElems g.id).filter fun p => p.2.occupancy s.tick != 0
  let es := els.flatMap fun p => p.2.active.contexts.flatMap fun k =>
    ((List.range 16).filter fun j => (p.2.active.slot j).upd.toNat.testBit 0).map fun j =>
      let (c, n) := s.blockedBy p.1 k j
      natLe 8 (p.2.occupancy s.tick) ++ natLe 8 (placeBits p.1 k j 0 / 2 ^ 23 * 2 ^ 23 + c * 2 ^ 20 + n * 2 ^ 18)
  let n := min es.length 4092
  natLe 8 s.tick ++ natLe 8 n ++ natLe 8 (es.length - n) ++ List.replicate 40 0 ++ (es.take n).flatten

/-- A report of a launch is written as the agent that read its record (R413). -/
def State.report (s : State) (g : Region) (b : List Byte) : State :=
  match s.launch? g.launch with
  | some l => if l.lrec.report = 0 then s else s.writeSpan (agentBy l.agent) l.id 64 l.lrec.report b
  | none => s

/-- A detector may watch a region: it runs, and nothing has frozen or ended it; a HALT that waits for its requests is watched too (R205). -/
def Region.watched (g : Region) : Bool := g.live && g.freeze.isNone && g.ending.isNone && decide (0 < g.started)

/-- QUIESCENT_INCOMPLETE: no element has fired for QWIN cycles, a token remains, and nothing is outstanding (R203). -/
def execQuiescentIncomplete (gi : Nat) (s : State) : Host.Outcome State Fault Refusal :=
  match s.region? gi with
  | none => .next s
  | some g =>
    guarded (!g.solo && g.watched && decide (g.lastFire + g.qwin ≤ s.tick) && s.tokenRemains g && !s.busyRegion g && !s.dbg.stopped) s
      ((s.report g (s.waitReport g)).takeFault gi { id := 0, code := cQuiescent, unit := 15 })

/-- The channel-occupancy map of a region (R205). [DEDUCED: log 45] -/
def State.hangMap (s : State) (g : Region) : List Byte :=
  let ports := fun (r : Router) (sh : Nat) => ((r.ports.mapIdx fun i p => min p.buf.length 7 * 2 ^ (sh + 3 * i))).foldl (· + ·) 0
  let tile := fun (t : Nat) =>
    let x := s.tile t
    let mine := x.region == some g.id
    ((List.range 6).flatMap fun e =>
      let y := s.elem (elemKey t e)
      natLe 4 (if y.region == some g.id && y.loaded then y.occupancy s.tick else 0))
      ++ natLe 8 (if mine then ports x.narrow 0 + ports x.wide 16 else 0)
  natLe 8 s.tick ++ List.replicate 56 0 ++ g.tiles.flatMap tile

/-- HANG: no element has fired for HANG microseconds while a token remains, in a channel or buffered at a weir (R205, R277). [DEDUCED: log 45] -/
def execHang (gi : Nat) (s : State) : Host.Outcome State Fault Refusal :=
  match s.region? gi with
  | none => .next s
  | some g =>
    let buffered := s.chains.any fun x => x.region == gi && !x.buffered.isEmpty
    guarded (g.watched && decide (g.lastFire + g.hangTicks ≤ s.tick) && (s.tokenRemains g || buffered) && !s.dbg.stopped) s
      ((s.report g (s.hangMap g)).takeFault gi { id := 0, code := cHang, unit := 15 })

/-! ## The release of a reservation (R199) -/

/-- A launch still runs, or waits to run, on a reservation. -/
def State.reservationBusy (s : State) (k : Nat) : Bool :=
  s.launches.any fun l => l.lrec.taskid == k && (l.lrec.timed || l.handler.isSome) && l.state != .ended

/-- PRELOAD_RELEASE: no launch runs on the reservation any more; its region, units and shares are free, its id is FREE with a counter of 0, and
records that waited for its handler go along its own edge (R199, R364). A release whose reservation has gone with the launch that ran on it has
nothing left to free. [DEDUCED: log 35] -/
def execPreloadRelease (li : Nat) (s : State) : Host.Outcome State Fault Refusal :=
  match s.launch? li with
  | none => .next s
  | some l =>
    let k := l.lrec.taskid
    let x := s.task k
    let s1 := s.bareBlock l.id l.agent l.lrec 10 0 0
    let held := x.state == .reserved
    let s2 := match if held then s.reservation k else none with
      | some g => let s2 := s1.leave_ g; { s2 with regions := s2.regions.filter (·.id != g.id) }
      | none => s1
    let s3 := { s2 with launches := s2.launches.filter fun y => y.id != l.id && !(held && y.id == x.launch) }
    let s4 := if held then
        x.pending.foldl (fun s r => s.deliver r 16 x.edge) (s3.modTask k fun t =>
          { t with state := .free, counter := 0, image := 0, launch := 0, loaded := false, pending := [] })
      else s3
    guarded (l.lrec.releases && l.state == .waiting && !s.reservationBusy k && !s.dbg.stopped) s
      (if l.lrec.nexten then s4.decrement l.lrec.next 1 else s4)

end Sys2Proof.Machine
end

