-- ==== Sys2Proof/Machine/Errors.lean ====
section
/-! DEFINITION. Soft errors and lasting faults (spec/21_faults.md R369, R370; spec/03_encoding.md R69), clock and power gates (R381), writes of the
control store (R382), and the release of a record's slot (R362). -/

namespace Sys2Proof.Machine

/-! ## Memory (R369) -/

/-- The tile and the index of the unit that keeps a physical address: its memory port, or its slice's tile. [DESIGN CHOICE: log 15] -/
def unitOfPa (pa : Nat) : Nat × Nat := if isHbm pa then (portTile (portOf pa), portOf pa) else (scratchTile pa, scratchTile pa)

/-- A transient soft error is logged: a KIND 6 record of a unit at its place with an address or 0, and a counter of those that concern a traced
region (R369, R401, R407). [DESIGN CHOICE: log 15; DEDUCED: log 16] -/
def State.transient (s : State) (unit place addr uidx : Nat) (gs : List Nat) : State :=
  let s1 := (s.log 6 addr).trace 6 unit place addr uidx
  if gs.any s.traced then s1.perf 7 1 else s1

/-- The place of a unit other than an element: its tile, with its index (R361). [DEDUCED: log 14; DESIGN CHOICE: log 15] -/
def unitPlace (tile uidx : Nat) : Nat := placeBits (elemKey tile 0) 0 0 0 + uidx

/-- The physical address to which an access is on its way, or at which it waits. -/
def Access.node (a : Access) : Option Nat :=
  match a.stage with
  | .toWeir p | .atWeir p | .toNode p | .migrating p | .queued p | .tested p | .hostWindow p | .answered p => some p
  | .toOwner | .withheld _ _ | .expired _ | .cut => none

/-- The regions that use a memory port or its weir: those that claim it, and those with an access under way there (R370). [DESIGN CHOICE: log 13] -/
def State.usesPort (s : State) (n : Nat) : List Nat :=
  (s.regions.filter fun g => (g.claimed 3).contains n || s.accesses.any fun a =>
    a.region == g.id && a.core.isNone && (match a.node with | some p => isHbm p && portOf p == n | none => false)).map (·.id)

/-- The regions that an error at a physical address concerns: those that use its port, or the one of its tile. -/
def State.usesPa (s : State) (pa : Nat) : List Nat := if isHbm pa then s.usesPort (portOf pa) else (s.tile (scratchTile pa)).region.toList

/-- ECC_RETRY: an uncorrectable error was met on a read of the block of pa, which is read again; where that fails the block is poisoned and
reported (R369). -/
def execEccRetry (pa : Nat) (ok : Bool) (s : State) : Host.Outcome State Fault Refusal :=
  let k := pa / 64
  let (t, u) := unitOfPa pa
  guarded ((isHbm pa || isScratch pa) && !s.dbg.stopped) s
    (if ok then s.transient (if isHbm pa then 9 else 15) (unitPlace t u) pa u (s.usesPa pa)
      else { (s.log 5 (64 * k)) with poison := if s.poison.contains k then s.poison else s.poison ++ [k] })

/-! ## Links (R369, R370) -/

/-- A tile's byte of the repair map with a bit cleared (R370). -/
def State.fenceTile (s : State) (t b : Nat) : State :=
  let v := s.repairByte t
  let n := if v.testBit b then v - 2 ^ b else v
  let at_ := tileY t % 32 * 32 + tileX t % 32
  { s with faults := { s.faults with repair := s.faults.repair.modify (tileDie t) fun r => { r with tiles := tput r.tiles at_ n } } }

/-- A router's program sends some token by output d. -/
def Router.uses (r : Router) (d : Nat) : Bool := r.ports.any fun p => p.prog.any fun st => st.any fun b => b.testBit d

/-- The regions that a mesh link is routed over. -/
def State.overLink (s : State) (t : Nat) (wide : Bool) (d : Nat) : List Nat :=
  let x := s.tile t
  if (if wide then x.wide else x.narrow).uses d then x.region.toList else []

/-- The regions that are routed over a Brezil link: those with a participant of a partition group, where the route table names the link for some
device (R394, R395). [DESIGN CHOICE: log 13] -/
def State.overBrezil (s : State) (j : Nat) : List Nat :=
  if (List.range 2048).any fun d => d != s.part.devid && s.routeTo d == some j then
    (s.colls.flatMap fun p => (p.2.filter fun q => !q.remote && decide (0x8000 ≤ q.group)).map (·.cmd.region)).eraseDups
  else []

/-- UNIT_LASTING of a unit in each region that is routed over it or uses it. [DESIGN CHOICE: log 13] -/
def State.unitLasting (s : State) (rs : List Nat) (unit t uidx : Nat) : State :=
  rs.foldl (fun s g => s.unitFault g cUnitLasting unit t uidx 0 0 0 0) s

/-- A Brezil link fails for good: it is fenced, and the regions routed over it fault (R369). -/
def State.fenceBrezil (s : State) (j : Nat) : State :=
  let s1 := { s with part := { s.part with links := s.part.links.modify j fun l => { l with fenced := true, up := false } } }
  (s1.log 7 j).unitLasting (s.overBrezil j) 8 hostTile j

/-- A link of this package is lost: it is fenced, and the recovery of R398 is to begin (R369, R398). [DEDUCED: log 31] -/
def State.loseBrezil (s : State) (j : Nat) : State :=
  let s1 := s.fenceBrezil j
  if s.part.fencedDevs.contains (2048 + j) then s1 else { s1 with part := { s1.part with fencedDevs := s1.part.fencedDevs ++ [2048 + j] } }

/-- The first number of LINK_CRC_RETRY that names no link: from it on 2 × port is a memory port's and the next its weir's way. -/
def portLink : Nat := 18 + 8 * 4096

/-- LINK_CRC_RETRY: a CRC error on a link, 0 to 17 the Brezil links, from 18 on 8 × tile + 4 × wide + direction; what was sent is sent once
more, and where that fails the link is fenced (R369). After them come the ways into the memory ports and weirs, which are not fenced: a lasting fault
is reported to each region that uses the unit (R370). [DESIGN CHOICE: log 13] -/
def execLinkCrcRetry (j : Nat) (ok : Bool) (s : State) : Host.Outcome State Fault Refusal :=
  let m := j - 18
  let t := m / 8
  let wide := m % 8 / 4 == 1
  let d := m % 4
  let n := (j - portLink) / 2
  let u := if j % 2 = portLink % 2 then 9 else 5
  guarded (!s.dbg.stopped && decide (j < portLink + 128)) s
    (if j < 18 then
      (if ok then { (s.transient 8 (unitPlace hostTile j) 0 j (s.overBrezil j)) with part := { s.part with links := s.part.links.modify j fun l => { l with resent := l.resent + 1 } } }
        else s.loseBrezil j)
    else if portLink ≤ j then
      (if ok then s.transient u (unitPlace (portTile n) n) 0 n (s.usesPort n) else s.unitLasting (s.usesPort n) u (portTile n) n)
    else if ok then s.transient 8 (unitPlace t (m % 8)) 0 (m % 8) (s.overLink t wide d)
    else (s.fenceTile t 7).unitLasting (s.overLink t wide d) 8 t (m % 8))

/-! ## Slot words (R69, R369) -/

/-- An element is fenced (R369, R370). -/
def State.fenceElem (s : State) (e : Nat) : State := (s.modElem e fun x => { x with fenced := true }).fenceTile (elemTile e) (elemIdx e)

/-- The lasting fault of an element. -/
def State.elemLasting (s : State) (e k cd detail : Nat) : State :=
  match (s.elem e).region with
  | none => s.fenceElem e
  | some g =>
    (s.fenceElem e).takeFault g { id := 0, code := cd, detail := detail, unit := 0, x := tileX (elemTile e), y := tileY (elemTile e)
                                  elem := elemIdx e, slot := k }

/-- The element record in memory that an element was loaded from, read as the loader reads it; none where a page or a block of it cannot be read. [DEDUCED: log 17] -/
def State.recordAgain (s : State) (e : Nat) : Option (List Byte) × State :=
  let p := (s.elem e).active
  match (s.regionOf e).bind fun g => (s.launch? g.launch).map fun l => (g, l) with
  | some (g, l) =>
    let a := agentBy l.agent
    let bad := (List.range (p.recLen / 64 + 2)).any fun i =>
      let va := (p.recAddr / 64 + i) * 64
      decide (va < p.recAddr + p.recLen) && (match s.peek a va with | some q => s.poisoned q 64 | none => false)
    if bad then (none, s) else s.readSpan a g.id (p.recLen / 4096 + 2) p.recAddr p.recLen
  | none => (none, s)

/-- The number of the first check of R68 that an element record fails in the image of its launch; 0 where it passes them. [DEDUCED: log 17] -/
def State.recordCheck (s : State) (e : Nat) (b : List Byte) : Nat :=
  match (s.regionOf e).bind fun g => s.launch? g.launch with
  | some l => ((elemFails (l.img.elemEnv (readElem b 0 0)) (readElem b 0 0)).min?).getD 0
  | none => 0

/-- A slot word fetched again is in its place; the element decides no fire until the fetch has ended, at most a microsecond on (R369). [DESIGN CHOICE: log 5; DEDUCED: log 17] -/
def State.refetched (s : State) (e k : Nat) (b : List Byte) : State :=
  let w := fun (o : Nat) => BitVec.ofNat 32 (leNat ((b.drop (12 * k + o)).take 4))
  let sl : Slot := { trig := w 8, op := w 12, upd := w 16 }
  let till := s.tick + min (Config.freeDelay s.free) Config.ticksPerMicro
  (s.modElem e fun x => { x with barred := max x.barred till, active := { x.active with slots := x.active.slots.set k sl } }).useFree

/-- SLOT_PARITY_REFETCH: a parity error in a word of slot k of an element; the word is fetched again from the image and checked, or the element
is fenced (R69, R369, R382). [DEDUCED: log 17] -/
def execSlotParityRefetch (e k : Nat) (ok : Bool) (s : State) : Host.Outcome State Fault Refusal :=
  let x := s.elem e
  if !x.loaded || x.patched || s.dbg.stopped || decide (16 ≤ k) then
    guarded (x.loaded && x.patched && !s.dbg.stopped && decide (k < 16)) s (s.elemLasting e k cUnitLasting 0)
  else match s.recordAgain e with
    | (none, s1) => .next (s1.elemLasting e k cUnitLasting 0)
    | (some b, s1) =>
      if !ok then .next (s1.elemLasting e k cUnitLasting 0)
      else if crc32c b != x.active.crc then .next (s1.elemLasting e k cImageChanged (s1.recordCheck e b))
      else .next ((s1.transient 0 (placeBits e 0 k 0) 0 (elemIdx e) x.region.toList).refetched e k b)

/-- DATA_LOST: a register, a channel entry or an accumulator has lost its value; no save of the region is possible. The index 6 of a tile stands
for its matrix node (R369). -/
def execDataLost (e : Nat) (s : State) : Host.Outcome State Fault Refusal :=
  let t := elemTile e
  let node := decide (elemIdx e = 6)
  match if node then (s.tile t).region else (s.elem e).region with
  | none => .next s
  | some g =>
    let s1 := s.modRegion g fun r => { r with savable := false }
    guarded (!s.dbg.stopped && (!node || (nodeOf t).isSome)) s
      (s1.takeFault g { id := 0, code := cDataLost, unit := if node then 1 else 0, x := tileX t, y := tileY t
                        elem := if node then 0 else elemIdx e, uidx := if node then (nodeOf t).getD 0 else 0 })

/-! ## Clock and power (R381) -/

/-- A tile holds no token, nor its matrix node a word at a result port. -/
def State.noToken (s : State) (t : Nat) : Bool :=
  let x := s.tile t
  ((tileElems t).all fun e =>
      let y := s.elem e
      (y.ins.all fun c => c.q.isEmpty && c.arriving.isEmpty && c.record.isEmpty) && y.outs.all fun c => c.q.isEmpty)
    && ((x.narrow.ports ++ x.wide.ports).all fun p => p.buf.isEmpty)
    && (match nodeOf t with | some n => (s.node n).outs.all (·.isEmpty) | none => true)

/-- Nothing of a tile's elements is in flight or outstanding. -/
def State.noWork (s : State) (t : Nat) : Bool :=
  !(s.flights.any fun f => elemTile f.elem == t) && (tileElems t).all (fun e => (s.elem e).tags.isEmpty)
    && !(s.accesses.any fun a => a.core.isNone && elemTile a.elem == t)

/-- Work waits in a tile that no arrival would start: a context that a YIELD holds, or a slot that is eligible. [DEDUCED: log 18] -/
def State.stirs (s : State) (t : Nat) : Bool :=
  let s1 := s.modTile t fun x => { x with gated := false, wakeAt := none }
  (tileElems t).any fun e =>
    (s.elem e).active.contexts.any fun k => decide (s.tick < (s.ctx e k).yieldTo) || !(s1.eligibleSlots e k).isEmpty

/-- CLOCK_GATE: a tile that holds no token and no work, and has decided no fire for 256 cycles, is gated (R381). [DEDUCED: log 18] -/
def execClockGate (t : Nat) (s : State) : Host.Outcome State Fault Refusal :=
  let x := s.tile t
  let last := (tileElems t).foldl (fun m e => max m (s.elem e).decided) (max x.idleFrom x.startAt)
  guarded (!x.gated && x.wakeAt.isNone && x.region.isSome && x.shadowOf.isNone && s.noToken t && !s.swageWaits t && s.noWork t && decide (last + 256 ≤ s.tick)
      && !s.stirs t && !s.dbg.stopped) s
    (s.modTile t fun x => { x with gated := true })

/-- A token waits for a tile at a neighbour, or at a swage node or an output channel of its own. [DEDUCED: log 18, 36] -/
def State.awaited (s : State) (t : Nat) : Bool :=
  s.swageWaits t || (List.range 4).any fun d =>
    match neighbour t d with
    | none => false
    | some (u, p) =>
      (List.range 2).any fun w =>
        let r := s.router (2 * u + w)
        (r.ports.mapIdx fun q (x : RPort) => x.buf.any fun k =>
          match r.outputs q k.rtag with | some o => decide (k.ready ≤ s.tick) && o.contains p | none => false).any id

/-- A command of the configuration network concerns a tile: a load, a cut, an end. [DEDUCED: log 18] -/
def State.commanded (s : State) (t : Nat) : Bool :=
  let x := s.tile t
  x.shadowOf.isSome || (match x.region.bind s.region? with | some g => g.freeze.isSome || g.ending.isSome || g.injected | none => false)

/-- TILE_WAKE: what comes for a gated tile wakes it within 8 cycles (R381). [DESIGN CHOICE: log 5; DEDUCED: log 18] -/
def execTileWake (t : Nat) (s : State) : Host.Outcome State Fault Refusal :=
  let x := s.tile t
  if s.dbg.stopped then .next s
  else match x.wakeAt with
    | some w => guarded (decide (w ≤ s.tick)) s (s.modTile t fun x => { x with gated := false, wakeAt := none, idleFrom := s.tick })
    | none =>
      guarded (x.gated && (s.awaited t || s.commanded t || s.stirs t || !s.noToken t)) s
        ((s.modTile t fun x => { x with wakeAt := some (s.tick + min (Config.freeDelay s.free) 8) }).useFree)

/-- POWER_GATE: the management core takes the power of a tile of no region away, or gives it back (R381). -/
def execPowerGate (t : Nat) (off : Bool) (s : State) : Host.Outcome State Fault Refusal :=
  let x := s.tile t
  let free := x.region.isNone && x.shadowOf.isNone && !s.regions.any (·.holds t)
  guarded (x.powerOff != off && (free || !off) && !s.dbg.stopped) s (s.modTile t fun x => { x with powerOff := off })

/-! ## Writes of the control store (R382) -/

/-- The number of the first check of R68, of checks 5 to 19 and 22, that an element's record fails with its active plane as p; a context that the
load has given no place for d8 to d15 has none now (R63, R248). -/
def State.storeCheck (s : State) (e : Nat) (p : Plane) : Option Nat :=
  match s.regionOf e with
  | none => none
  | some g =>
    match s.launch? g.launch with
    | none => none
    | some l =>
      let t := elemTile e
      let rec_ : ElemRec := { x := tileX t - g.ox, y := tileY t - g.oy, elem := elemIdx e, plane := p }
      let now : Image := { l.img with elems := l.img.elems.map fun q =>
        let k := elemKey (tileKey (g.ox + q.x) (g.oy + q.y)) q.elem
        if k = e then rec_ else if (s.elem k).region == some g.id && (s.elem k).loaded then { q with plane := (s.elem k).active } else q }
      let none_ := (List.range 4).filter fun k => bits (p.spmaps.getD k 0).toNat 15 14 == 0
      ((elemFails { now.elemEnv rec_ with unplaced := none_ } rec_).filter fun n => decide (n ≤ 19) || n == 22).min?

/-- CONTROL_STORE_WRITE: the management core or the debugger writes slot words and literals of a placed element; refused with CFG_BUSY where its
region is not frozen, or with the code of the check it fails; a save of the region that has been made already takes it too (R382). The answer goes to the management core's log. [DESIGN CHOICE: log 19] -/
def execControlStoreWrite (e : Nat) (w : StoreWrite) (s : State) : Host.Outcome State Fault Refusal :=
  match s.regionOf e with
  | none => .next s
  | some g =>
    let p := (s.elem e).active.written w
    if !(s.elem e).loaded then .next s
    else if !s.frozen g then .next (s.log 8 e)
    else match s.storeCheck e p with
      | some n => .next (s.log 9 n)
      | none =>
        let note := fun (r : Region) => { r with patches := r.patches ++ [(e, w)] }
        let s1 := (s.modElem e fun x => { x with active := p, patched := true }).modRegion g.id note
        .next { s1 with faults := { s1.faults with saves := s1.faults.saves.map fun (v : Save) =>
          if v.region.id == g.id && v.region.launch == g.launch then { v with region := note v.region } else v } }

/-! ## The record pool (R362) -/

/-- FRREL: the management core writes the address of a slot, which frees it (R362). -/
def execFrrel (v : Word) (s : State) : Host.Outcome State Fault Refusal :=
  .next { s with faults := { s.faults with used := s.faults.used.erase v.toNat } }

end Sys2Proof.Machine
end

