-- ==== Sys2Proof/Machine/Debug.lean ====
section
/-! DEFINITION. Breaks (spec/10_instr_control.md R215, spec/24_debug.md R406), the stop (R405), and the critical-path walk (R404). -/

namespace Sys2Proof.Machine

/-! ## Breaks (R215, R406) -/

/-- The trace record of a BRK (R401); bit 16 says that it trapped. -/
def Env.brkRecord (v : Env) (trapped : Bool) (s : State) : State :=
  if s.traced v.g.id then s.trace 1 0 (placeBits v.e v.k v.j 0) (v.a.n64 % 2 ^ 16 + if trapped then 2 ^ 16 else 0) 0 else s

/-- The record of a BREAK is written at once: the region is not cut, and the record goes to no edge (R406). -/
def State.breakWritten (s : State) (was : Nat) : State :=
  match s.dbg.breaks.getLast? with
  | some k => if was < s.dbg.breaks.length then s.writeRecord k else s
  | none => s

/-- BRK traps BREAK where the debugger takes breaks of its region, but for the one resumed by CONTINUE; otherwise it performs only
the atomic step and a trace record (R215, R406). -/
def execBrk (o : Op) (s : State) : Host.Outcome State Fault Refusal :=
  match s.env (.brk o) with
  | some v =>
    if v.ready && s.takesBreaks v.g.id && v.c.breakPass != some v.j then
      .next ((v.brkRecord true (v.trapped .brk (v.a.n64 % 2 ^ 16) 0 0)).breakWritten s.dbg.breaks.length)
    else fireWith (fun _ => .go {}) (fun v _ s => v.brkRecord false s) (.brk o) s
  | none => .next s

/-- A BREAK still holds its region, placed or saved (R406). [DEDUCED: log 22] -/
def State.brkHolds (s : State) (r : FaultRec) : Bool :=
  let by_ := fun (g : Region) => g.id == r.region && g.brk == some r.id
  s.regions.any by_ || s.faults.saves.any fun v => by_ v.region

/-- The record of the oldest region still frozen by BREAK. [DEDUCED: log 22] -/
def State.oldestBreak (s : State) : Option FaultRec := (s.dbg.breaks.filterMap s.record?).find? s.brkHolds

/-- What BRKREC reads (R399). [DEDUCED: log 22] -/
def State.brkrec (s : State) : Nat := match s.oldestBreak with | some r => r.slotAddr | none => 0

/-- A break holds its region no more, where it is placed and where it is saved: its record leaves, and its slot is free (R406). -/
def State.endBreak (s : State) (r : FaultRec) : State :=
  let s1 := (s.forget r.id).modRegion r.region fun g => { g with brk := none }
  { s1 with
    dbg := { s1.dbg with breaks := s1.dbg.breaks.filter (· != r.id) }
    faults := { s1.faults with
      used := s1.faults.used.erase r.slotAddr
      saves := s1.faults.saves.map fun (v : Save) => if v.region.id == r.region then { v with region := { v.region with brk := none } } else v } }

/-- The BRK that trapped passes once: it is decided again at the first decision of its context, which stands in its element, or in the save of its
region (R406). A save has its elements at the place of its cut, and the record names the place that the region has had last. [DEDUCED: log 22] -/
def State.passBreak (s : State) (r : FaultRec) : State :=
  let e := elemKey (tileKey r.x r.y) r.elem
  let pass := fun (c : Ctx) => { c with breakPass := some r.slot }
  let s1 := if (s.elem e).region == some r.region then s.modCtx e r.ctx pass else s
  { s1 with faults := { s1.faults with saves := s1.faults.saves.map fun (v : Save) =>
      if v.region.id == r.region then { v with elems := v.elems.map fun p => if p.1 == e then (p.1, p.2.modCtx r.ctx pass) else p } else v } }

/-- BRKRES_CONTINUE: the host writes action 1 to BRKRES: the region thaws, unless a fault has frozen it too, and the BRK that trapped passes once (R406). [DEDUCED: log 22] -/
def execBrkresContinue (s : State) : Host.Outcome State Fault Refusal :=
  match s.oldestBreak with
  | none => .next s
  | some r =>
    let s0 := s.endBreak r
    let s1 := (match s.region? r.region with
      | some g => if g.freeze = some (Freeze.brk r.id) then s0.thaw g else s0
      | none => s0).passBreak r
    s.hosted { s1 with dbg := { s1.dbg with brkres := 1 } }

/-- BRKRES_ABORT: the host writes action 2 to BRKRES: the launch completes with STATUS 4, its record named in FREC (R365, R406). [DEDUCED: log 22] -/
def execBrkresAbort (s : State) : Host.Outcome State Fault Refusal :=
  match s.oldestBreak with
  | none => .next s
  | some r => s.hosted (let s1 := (s.endBreak r).abort r; { s1 with dbg := { s1.dbg with brkres := 2 } })

/-! ## The stop (R405) -/

/-- STOP_ARM: the host writes ARM of STOPCTL (R399). -/
def execStopArm (v : Word) (s : State) : Host.Outcome State Fault Refusal :=
  s.hosted { s with dbg := { s.dbg with arm := v.getLsbD 0 } }

/-- The management core scans out every element, router, slice and unit into a dump (R405). [DESIGN CHOICE: log 20] -/
def State.takeDump (s : State) : State :=
  let d : Dump :=
    { id := s.ids, tick := s.tick, elems := s.elems, tiles := s.tiles, slices := s.mem.filter fun c => isScratch c.1, flights := s.flights
      accesses := s.accesses, chains := s.chains, nodes := s.nodes, engines := s.engines, colls := s.colls, seq := s.seq }
  { s.newId with dbg := { s.dbg with dump := some d } }

/-- The blocks of a dump (R374, R405): the elements and the routers and slice of each tile, in row-major order, then the nodes, engines, weirs,
collective engines, sequence units and translation slices. [DESIGN CHOICE: log 20, 40] -/
def dumpBlocks : List (Nat × Nat × Nat × Nat × Nat × Nat) :=
  let unit := fun (u n t : Nat) => (List.range n).map fun j => (u, tileY t, tileX t, 0, n, j)
  let tile := fun (t : Nat) => (List.range 6).map (fun e => (0, tileY t, tileX t, e, 1, 0)) ++ unit 15 68 t
  let some_ := Config.saveBlocksUnit
  (List.range 64).flatMap (fun y => (List.range 64).flatMap fun x => tile (tileKey x y))
    ++ (List.range 64).flatMap (fun n => unit 1 Config.saveBlocksNode (nodeTile n)) ++ (List.range 32).flatMap (fun n => unit 3 some_ (engineTile n))
    ++ (List.range 64).flatMap (fun n => unit 5 some_ (portTile n)) ++ (List.range 4).flatMap (fun d => unit 4 some_ (collTile d))
    ++ (List.range 4).flatMap (fun d => unit 10 some_ (seqTile d)) ++ (List.range 256).flatMap fun n => unit 6 some_ (sliceTile (n / 64) (n % 64))

/-- Block j of a dump, as it is scanned out (R374, R405). -/
def Dump.block (d : Dump) (key : List Byte) (j : Nat) : List Byte := stateBlock key d.id 0 0 d.tick j (dumpBlocks.getD j (0, 0, 0, 0, 0, 0))

/-- STOP: at the start of the cycle of STOPTICK every clock stops, a KIND 5 record is written, and the state is scanned out (R401, R405). [DESIGN CHOICE: log 20] -/
def execStop (s : State) : Host.Outcome State Fault Refusal :=
  guarded (s.dbg.arm && !s.dbg.stopped && s.now == s.dbg.stoptick && s.phase == 0) s
    (let s1 := s.takeDump.trace 5 15 0 s.dbg.stoptick.toNat 0; { s1 with dbg := { s1.dbg with stopped := true } })

/-- STOP_RESUME: the host writes RESUME of STOPCTL: every clock runs on from the same tick, ARM and STOPPED clear, and the gap windows of all
chains start afresh (R277, R405). -/
def execStopResume (s : State) : Host.Outcome State Fault Refusal :=
  let s1 := s.regions.foldl (fun s g => s.thawChains g.id) s
  s.hosted (if s.dbg.stopped then { s1 with dbg := { s1.dbg with arm := false, stopped := false } } else s)

/-! ## The walk (R403, R404) -/

/-- Bytes written to a path buffer at an offset: by physical address for the debugger, by the agent of its region for a PROBE. -/
def State.walkWrite (s : State) (w : Walk) (o : Nat) (b : List Byte) : State :=
  if w.virt then s.writeAs (s.agentOf w.region) (w.buf + o) b else s.putBytes (w.buf + o) b

/-- An entry of a path buffer. The field of four bits for the register of cause 2 has the low bits of a special register's number. [DEDUCED: log 16] -/
def walkEntry (e : Nat) (n : Note) : List Byte :=
  natLe 8 n.tick ++ natLe 8 (placeBits e n.ctx n.slot 0 + n.cause * 2 ^ 56 + n.idx % 16 * 2 ^ 52) ++ natLe 8 n.met ++ natLe 8 0

/-- The end of a walk at a note without a note before it: 1 a source, as is a feed or an unwired channel, 2 the note was evicted, 4 a unit (R403,
R404). -/
def walkEnd (n : Note) : Nat :=
  if n.cause = 0 then 1
  else if n.cause = 5 then 4
  else if n.cause = 1 then (match n.org with | .none => 1 | .reply | .unit _ _ => 4 | .chan _ _ => 2)
  else 2

/-- The entries of a walk, newest first, and its end reason, from a note of an element. -/
def State.walkFrom' (s : State) : Nat → Nat → Note → List (List Byte) × Nat
  | 0, _, _ => ([], 3)
  | k + 1, e, n =>
    match s.stepBack e n with
    | some (u, m) => let r := s.walkFrom' k u m; (walkEntry e n :: r.1, r.2)
    | none => ([walkEntry e n], walkEnd n)

/-- The walk that an element runs ends, and the next that waits runs: GO of DBGPROBE clears where it was the debugger's (R214, R404). -/
def State.endWalk (s : State) (e : Nat) (w : Walk) : State :=
  let s1 := s.modElem e fun x => { x with walks := x.walks.drop 1 }
  if w.virt then s1 else { s1 with dbg := { s1.dbg with dbgprobe := s1.dbg.dbgprobe &&& ~~~(0x1000000000000 : Word) } }

/-- The path buffer of a walk: its header and entries, and the KIND 7 record (R401, R404). [DESIGN CHOICE: log 21] -/
def State.walkOut (s : State) (e : Nat) (w : Walk) (l : List (List Byte)) (why : Nat) : State :=
  let h := natLe 8 w.probe ++ natLe 8 l.length ++ natLe 8 why ++ List.replicate 40 0
  ((s.walkWrite w 0 (h ++ l.flatten)).trace 7 0 (placeBits e w.note.ctx w.note.slot 0) w.buf l.length).endWalk e w

/-- CRITICAL_PATH_WALK: the first walk that an element has begun runs, and its path buffer is written (R403, R404). [DESIGN CHOICE: log 21] -/
def execCriticalPathWalk (e : Nat) (s : State) : Host.Outcome State Fault Refusal :=
  match (s.elem e).walks with
  | [] => .next s
  | w :: _ =>
    let r := s.walkFrom' 126 w.elem w.note
    .next (s.walkOut e w r.1 r.2)

/-- The element that DBGPROBE names (R399). -/
def probedElem (v : Nat) : Nat := elemKey (tileKey (bits v 39 32) (bits v 47 40)) (bits v 31 29)

/-- DBGPROBE_GO: the host writes DBGPROBE with GO: a walk begins at the latest note of the element named (R404). Where the element walks
already, the buffer's first double is written with ones, as for a PROBE (R214); where it has no note, the walk ends at once. [DESIGN CHOICE: log 21] -/
def execDbgprobeGo (v : Word) (s : State) : Host.Outcome State Fault Refusal :=
  let e := probedElem v.toNat
  let s1 := { s with dbg := { s.dbg with dbgprobe := v &&& 0x1FFFFFFFFFFFF } }
  let w : Walk := { buf := s.dbg.dbgpbuf.toNat, elem := e }
  s.hosted
    (if !v.getLsbD 48 then s
      else if !(s.elem e).walks.isEmpty then
        let s2 := s1.perform w.buf (List.replicate 8 0xFF)
        { s2 with dbg := { s2.dbg with dbgprobe := v &&& 0xFFFFFFFFFFFF } }
      else match (s.elem e).notes.getLast? with
        | some n => s1.modElem e fun x => { x with walks := [{ w with note := n }] }
        | none => s1.walkOut e w [] 2)

end Sys2Proof.Machine
end

