-- ==== Sys2Proof/Machine/Register.lean ====
section
/-! DEFINITION. The registers of BAR 0 that take a value as it is written, the ring registers, and what a host read returns (spec/12_memory.md
R243, R412; spec/09_scheduler.md R187; spec/13_instr_memory.md R277; spec/17_engines.md R306, R312; spec/19_sequences.md R339;
spec/21_faults.md R362, R370, R375, R376; spec/23_scale.md R394; spec/24_debug.md R399; spec/25_bringup.md R409). -/

namespace Sys2Proof.Machine

/-! ## Where a register lies -/

/-- A launch runs: it is loading or running (the guard of "host write while no launch runs"). [DEDUCED: log 23] -/
def State.launchRuns (s : State) : Bool := s.launches.any fun l => match l.state with | .loading _ | .running => true | _ => false

/-- The block of registers at an offset of BAR 0, by bits 23:16. -/
def barBlock (off : Nat) : Nat := bits off 23 16
/-- The offset within its block. -/
def barOff (off : Nat) : Nat := bits off 15 0

/-- A register word with its reserved bits ignored (R8). -/
def masked (v : Word) (n : Nat) : Word := BitVec.ofNat 64 (v.toNat % 2 ^ n)

/-- The state with f's result where the guard of a register holds. -/
@[inline] def State.when_ (s : State) (p : Bool) (t : State) : State := if p then t else s

/-! ## Plain registers -/

/-- The translation registers that take their value (R243). -/
def State.writeXlate (s : State) (o : Nat) (v : Word) : State :=
  let idle := !s.launchRuns
  let x := s.xl
  match o with
  | 0x00 => s.when_ idle { s with xl := { x with ptroot := v } }
  | 0x08 => s.when_ idle { s with xl := { x with spanmap := v } }
  | 0x10 => s.when_ idle { s with xl := { x with fq := { x.fq with base := v } } }
  | 0x40 => { s with xl := { x with xmigva := v } }
  | 0x58 => s.when_ idle { s with xl := { x with mq := { x.mq with base := v } } }
  | 0x78 => { s with xl := { x with xcntth := masked v 16 } }
  | 0x80 => s.when_ (v == 0) { s with xl := { x with xovf := 0 } }
  | _ => s

/-- The bases of the spill rings, frame pools and retired-frame rings (R306, R312). -/
def State.writeRings (s : State) (o : Nat) (v : Word) : State :=
  if o < 0x800 then
    let n := o / 0x40
    if o % 0x40 = 0 then s.when_ (!(s.engine n).sp.en) (s.modEngine n fun e => { e with sp := { e.sp with base := v } }) else s
  else if 0x1000 ≤ o ∧ o < 0x1100 then
    let d := (o - 0x1000) / 0x40
    match o % 0x40 with
    | 0x00 => s.when_ (!s.launchRuns) (s.modFrame d fun f => { f with fp := { f.fp with base := v } })
    | 0x20 => s.when_ (!s.launchRuns) (s.modFrame d fun f => { f with rf := { f.rf with base := v } })
    | _ => s
  else s

/-- The sequence registers (R339). -/
def State.writeSeqReg (s : State) (o : Nat) (v : Word) : State :=
  match o with
  | 0x00 => s.when_ (!s.launchRuns) { s with seq := { s.seq with seqbase := v } }
  | 0x08 => s.when_ (!s.launchRuns) { s with seq := { s.seq with kvbase := v } }
  | 0x10 => { s with seq := { s.seq with kvcfg := masked v 6 } }
  | _ => s

/-- A repair map after the management core writes 8 bytes at an offset of it (R370). [DEDUCED: log 24] -/
def Repair.write (r : Repair) (o : Nat) (v : Word) : Repair :=
  if o < 0x400 then { r with tiles := (List.range 8).foldl (fun t k => tput t (o + k) (bits v.toNat (8 * k + 7) (8 * k))) r.tiles }
  else if o = 0x400 then { r with mx := bits v.toNat 15 0, ce := bits v.toNat 23 16, coll := v.getLsbD 32 }
  else if o = 0x408 then { r with xs := v.toNat }
  else r

/-- The fault registers and the repair maps (R362, R370, R375, R376). [DEDUCED: log 24] -/
def State.writeFaultReg (s : State) (o : Nat) (v : Word) : State :=
  let f := s.faults
  match o with
  | 0x00 => s.when_ (!s.launchRuns) { s with faults := { f with frbase := v } }
  | 0x08 => { s with faults := { f with frcfg := masked v 6 } }
  | 0x20 => s.when_ (!s.launchRuns) { s with faults := { f with svbase := v } }
  | 0x28 => { s with faults := { f with svcfg := masked v 6 } }
  | 0x30 => { s with faults := { f with prewin := masked v 32 } }
  | _ =>
    if 0x1000 ≤ o ∧ o < 0x3000 ∧ o % 8 = 0 then
      { s with faults := { f with repair := f.repair.modify ((o - 0x1000) / 0x800) fun r => r.write ((o - 0x1000) % 0x800) v } }
    else s

/-- The partition registers (R394): LINKST takes only the clearing of its count. -/
def State.writePart (s : State) (o : Nat) (v : Word) : State :=
  let p := s.part
  let idle := !s.launchRuns
  match o with
  | 0x00 => s.when_ idle { s with part := { p with devid := v.toNat % 2 ^ 11 } }
  | 0x08 => s.when_ idle { s with part := { p with rtbase := v } }
  | 0x10 => s.when_ idle { s with part := { p with cwhome := masked v 8 } }
  | _ =>
    if 0x100 ≤ o ∧ o < 0x190 ∧ o % 8 = 0 then
      s.when_ (bits v.toNat 63 32 == 0) { s with part := { p with links := p.links.modify ((o - 0x100) / 8) fun l => { l with resent := 0 } } }
    else s

/-- The debug registers that take their value (R399); actions 0 and 3 of BRKRES are ignored, as are reads-only registers. -/
def State.writeDebug (s : State) (o : Nat) (v : Word) : State :=
  let d := s.dbg
  match o with
  | 0x00 => s.when_ (!d.trcfg.getLsbD 0) { s with dbg := { d with trbase := v } }
  | 0x08 => { s with dbg := { d with trcfg := masked v 7 } }
  | 0x18 => s.when_ (v == 0) { s with dbg := { d with trlost := 0 } }
  | 0x20 => s.when_ (!d.arm) { s with dbg := { d with stoptick := v } }
  | 0x30 => { s with dbg := { d with brkctl := masked v 14 } }
  | 0x38 => { s with dbg := { d with sample := masked v 32 } }
  | 0x40 => { s with dbg := { d with dbgpbuf := v } }
  | 0x48 => s.when_ (!v.getLsbD 48 && !d.dbgprobe.getLsbD 48) { s with dbg := { d with dbgprobe := masked v 48 } }
  | _ =>
    if 0x100 ≤ o ∧ o < 0x140 ∧ o % 8 = 0 then
      s.when_ (v == 0) { s with dbg := { d with perf := d.perf.set ((o - 0x100) / 8) 0 } }
    else s

/-- The management registers that take their value (R409); GO of ATTCTL asks for a report, and sets ERR while one is in progress (R411). [DEDUCED: log 23] -/
def State.writeMgmt (s : State) (o : Nat) (v : Word) : State :=
  let m := s.mgmt
  match o with
  | 0x08 => { s with mgmt := { m with fwstage := v } }
  | 0x18 => { s with mgmt := { m with attaddr := v } }
  | 0x20 =>
    if m.attGo then s.when_ (v.getLsbD 0) { s with mgmt := { m with attErr := true } }
    else if v.getLsbD 0 then { s with mgmt := { m with attGo := true, attErr := false, attTaken := m.attnonce } }
    else { s with mgmt := { m with attErr := v.getLsbD 1 } }
  | _ =>
    if 0x40 ≤ o ∧ o < 0x80 ∧ o % 8 = 0 then
      { s with mgmt := { m with attnonce := m.attnonce.take (o - 0x40) ++ wordLe 8 v ++ m.attnonce.drop (o - 0x40 + 8) } }
    else s

/-- A write of a plain register of BAR 0. Registers whose write is a step of its own are written by that step. [DEDUCED: log 23] -/
def State.writeReg (s : State) (off : Nat) (v : Word) : State :=
  let o := barOff off
  match barBlock off with
  | 1 =>
    if o < 0x1000 ∧ o % 0x40 = 0 then s.when_ (!(s.queue (o / 0x40)).en) (s.modQueue (o / 0x40) fun q => { q with base := v }) else s
  | 2 => s.writeXlate o v
  | 3 => if o = 0 then { s with gapwin := masked v 32 } else s
  | 4 => s.writeRings o v
  | 5 => s.writeSeqReg o v
  | 6 => s.writeFaultReg o v
  | 7 => s.writePart o v
  | 8 => s.writeDebug o v
  | 9 => s.writeMgmt o v
  | _ => s

/-- REGISTER_WRITE: a double is written to a plain register of BAR 0, under the guard of its table (R243, R339, R394, R399); before READY it is
ignored (R409). A repair map is written by the management core, at any time (R370). -/
def execRegisterWrite (off : Nat) (v : Word) (s : State) : Host.Outcome State Fault Refusal :=
  let map := barBlock off == 6 && decide (0x1000 ≤ barOff off)
  guarded (s.mgmt.ready || map) s (s.writeReg off v)

/-! ## Ring registers (R412) -/

/-- A ring with its configuration written: EN from 0 to 1 sets both counts to 0. -/
def Ring.configure (r : Ring) (v : Word) : Ring :=
  let y := { r with cfg := masked v 6 }
  if v.getLsbD 0 && !r.en then { y with tail := 0, head := 0 } else y

/-- RING_EN_SET: the host writes the configuration word of a ring: FQCFG, MQCFG, SPCFG, FPCFG or RFCFG (R243, R306, R312, R412). -/
def State.setRing (s : State) (off : Nat) (v : Word) : State :=
  let o := barOff off
  match barBlock off with
  | 2 =>
    if o = 0x18 then
      let s1 := { s with xl := { s.xl with fq := s.xl.fq.configure v } }
      s1.flushFq s1.xl.fqWait.length
    else if o = 0x60 then { s with xl := { s.xl with mq := s.xl.mq.configure v } }
    else s
  | 4 =>
    if o < 0x800 then (if o % 0x40 = 0x08 then s.modEngine (o / 0x40) fun e => { e with sp := e.sp.configure v } else s)
    else if 0x1000 ≤ o ∧ o < 0x1100 then
      (match o % 0x40 with
        | 0x08 => s.modFrame ((o - 0x1000) / 0x40) fun f => { f with fp := f.fp.configure v }
        | 0x28 => s.modFrame ((o - 0x1000) / 0x40) fun f => { f with rf := f.rf.configure v }
        | _ => s)
    else s
  | _ => s

/-- RING_EN_SET: setting a ring's EN from 0 to 1 sets both of its counts to 0 (R412). -/
def execRingEnSet (off : Nat) (v : Word) (s : State) : Host.Outcome State Fault Refusal := s.hosted (s.setRing off v)

/-- A ring with its head written: ignored where the ring would hold more than 2^LOGSZ entries, or the head would pass the tail. -/
def Ring.setHead (r : Ring) (n : Word32) : Ring := if ringCount r.tail n ≤ 2 ^ r.logsz then { r with head := n } else r
/-- A ring with its tail written, under the same condition. -/
def Ring.setTail (r : Ring) (n : Word32) : Ring := if ringCount n r.head ≤ 2 ^ r.logsz then { r with tail := n } else r

/-- The host writes FQHEAD, MQHEAD, FPTAIL or RFHEAD (R243, R312, R412). -/
def State.setCount (s : State) (off : Nat) (v : Word) : State :=
  let o := barOff off
  let n := v.setWidth 32
  match barBlock off with
  | 2 =>
    if o = 0x28 then
      let s1 := { s with xl := { s.xl with fq := s.xl.fq.setHead n } }
      s1.flushFq s1.xl.fqWait.length
    else if o = 0x70 then { s with xl := { s.xl with mq := s.xl.mq.setHead n } }
    else s
  | 4 =>
    if 0x1000 ≤ o ∧ o < 0x1100 then
      (match o % 0x40 with
        | 0x10 => s.modFrame ((o - 0x1000) / 0x40) fun f => { f with fp := f.fp.setTail n }
        | 0x38 => s.modFrame ((o - 0x1000) / 0x40) fun f => { f with rf := f.rf.setHead n }
        | _ => s)
    else s
  | _ => s

/-- RING_COUNT_WRITE: the host writes a count of a ring (R412). -/
def execRingCountWrite (off : Nat) (v : Word) (s : State) : Host.Outcome State Fault Refusal := s.hosted (s.setCount off v)

/-! ## What a read returns -/

/-- MSTAT (R409). -/
def State.mstat (s : State) : Nat :=
  let m := s.mgmt
  m.fwsvn % 2 ^ 32 * 2 ^ 32 + m.fail % 256 * 256 + (if m.fwstaged then 2 else 0) + (if m.ready then 1 else 0)

/-- The registers of a ring at word w of its block: base, configuration, tail, head. -/
def Ring.word (r : Ring) (w : Nat) : Nat := match w with | 0 => r.base.toNat | 1 => r.cfg.toNat | 2 => r.tail.toNat | _ => r.head.toNat

/-- What the launch-queue, translation and weir registers read as (R187, R243, R277). -/
def State.readLow (s : State) (blk o : Nat) : Nat :=
  let f := fun (b : Bool) (k : Nat) => if b then 2 ^ k else 0
  match blk with
  | 1 =>
    let q := s.queue (o / 0x40)
    if 0x1000 ≤ o then 0
    else match o % 0x40 with
      | 0x00 => q.base.toNat
      | 0x08 => q.cfg.toNat
      | 0x10 => q.tail.toNat
      | 0x18 => q.head.toNat
      | 0x20 => f q.nomap 2 + f q.ovf 1 + f q.badcfg 0
      | _ => 0
  | 2 =>
    let x := s.xl
    match o with
    | 0x00 => x.ptroot.toNat
    | 0x08 => x.spanmap.toNat
    | 0x10 => x.fq.base.toNat
    | 0x18 => x.fq.cfg.toNat
    | 0x20 => x.fq.tail.toNat
    | 0x28 => x.fq.head.toNat
    | 0x38 => f x.xinvDone 0
    | 0x50 => f x.migErr 2 + f x.migDone 1 + f x.mig.isSome 0
    | 0x58 => x.mq.base.toNat
    | 0x60 => x.mq.cfg.toNat
    | 0x68 => x.mq.tail.toNat
    | 0x70 => x.mq.head.toNat
    | 0x78 => x.xcntth.toNat
    | 0x80 => x.xovf.toNat
    | _ => 0
  | 3 => if o = 0 then s.gapwin.toNat else 0
  | _ => 0

/-- What the registers of the engines, the sequences, the faults and the repair maps read as (R306, R312, R339, R362, R370, R375, R376). -/
def State.readMid (s : State) (blk o : Nat) : Nat :=
  match blk with
  | 4 =>
    if o < 0x800 then
      let r := (s.engine (o / 0x40)).sp
      (match o % 0x40 with | 0x00 => r.base.toNat | 0x08 => r.cfg.toNat | 0x10 => r.head.toNat | 0x18 => r.tail.toNat | _ => 0)
    else if 0x1000 ≤ o ∧ o < 0x1100 then
      let x := s.frame ((o - 0x1000) / 0x40)
      let w := o % 0x40 / 8
      if o % 8 ≠ 0 then 0
      else if w < 4 then x.fp.word w
      else x.rf.word (w - 4)
    else 0
  | 5 => (match o with
      | 0x00 => s.seq.seqbase.toNat | 0x08 => s.seq.kvbase.toNat | 0x10 => s.seq.kvcfg.toNat | 0x18 => s.kvCount | _ => 0)
  | 6 =>
    let x := s.faults
    if 0x1000 ≤ o ∧ o < 0x3000 then
      let r := x.repair.getD ((o - 0x1000) / 0x800) {}
      let k := (o - 0x1000) % 0x800
      if k < 0x400 then leNat ((List.range 8).map fun j => BitVec.ofNat 8 (tget r.tiles (k + j) 0xFF))
      else if k = 0x400 then r.mx + r.ce * 2 ^ 16 + if r.coll then 2 ^ 32 else 0
      else if k = 0x408 then r.xs
      else 0
    else (match o with
      | 0x00 => x.frbase.toNat | 0x08 => x.frcfg.toNat | 0x18 => x.used.length | 0x20 => x.svbase.toNat | 0x28 => x.svcfg.toNat
      | 0x30 => x.prewin.toNat | _ => 0)
  | _ => 0

/-- What the partition, debug and management registers read as (R394, R399, R409). -/
def State.readHigh (s : State) (blk o : Nat) : Nat :=
  let f := fun (b : Bool) (k : Nat) => if b then 2 ^ k else 0
  match blk with
  | 7 =>
    if 0x100 ≤ o ∧ o < 0x190 ∧ o % 8 = 0 then
      let l := s.part.links.getD ((o - 0x100) / 8) {}
      f l.up 0 + f l.fenced 1 + l.resent % 2 ^ 32 * 2 ^ 32
    else (match o with | 0x00 => s.part.devid | 0x08 => s.part.rtbase.toNat | 0x10 => s.part.cwhome.toNat | _ => 0)
  | 8 =>
    let d := s.dbg
    if 0x100 ≤ o ∧ o < 0x140 ∧ o % 8 = 0 then (d.perf.getD ((o - 0x100) / 8) 0).toNat
    else (match o with
      | 0x00 => d.trbase.toNat | 0x08 => d.trcfg.toNat | 0x10 => d.trtail | 0x18 => d.trlost.toNat | 0x20 => d.stoptick.toNat
      | 0x28 => f d.stopped 1 + f d.arm 0 | 0x30 => d.brkctl.toNat | 0x38 => d.sample.toNat | 0x48 => d.dbgprobe.toNat
      | 0x50 => s.brkrec | _ => 0)
  | 9 =>
    let m := s.mgmt
    (match o with | 0x00 => s.mstat | 0x20 => f m.attErr 1 + f m.attGo 0 | _ => 0)
  | _ => 0

/-- What the host reads at an offset of BAR 0: before READY only MSTAT reads as other than zero (R409). [DESIGN CHOICE: log 9; DEDUCED: log 23] -/
def State.barRead (s : State) (off : Nat) : Word :=
  let b := barBlock off
  let o := barOff off
  if !s.mgmt.ready && off != 0x90000 then 0
  else BitVec.ofNat 64 (if b ≤ 3 then s.readLow b o else if b ≤ 6 then s.readMid b o else s.readHigh b o)

end Sys2Proof.Machine
end

