-- ==== Sys2Proof/Machine/Host.lean ====
section
/-! DEFINITION. The host's accesses to device memory and the host window (spec/23_scale.md R386 to R388), and the application cores (R389 to R392). -/

namespace Sys2Proof.Machine

/-! ## The host (R386, R387) -/

/-- n bytes from pa lie in one of the two HDM ranges (R386). [DEDUCED: log 25] -/
def hdmMapped (pa n : Nat) : Bool :=
  decide (pa + n ≤ Config.hbmSize) || (decide (Config.scratchBase ≤ pa) && decide (pa + n ≤ Config.scratchBase + Config.scratchSize))

/-- HOST_MEM_WRITE: the host writes device memory by physical address; the write performs at once and is never held (R387). [DEDUCED: log 25] -/
def execHostMemWrite (pa : Nat) (b : List Byte) (s : State) : Host.Outcome State Fault Refusal :=
  if hdmMapped pa b.length then .next (s.putBytes pa b) else .fault (.hostUnmapped pa)

/-- A byte as the host reads it: that of the stores performed, an open value in a poisoned block (R369, R387). [DEDUCED: log 25] -/
def State.hostByte (s : State) (pa i : Nat) : Byte :=
  if s.poison.contains ((pa + i) / 64) then (Config.freeValue (s.free + i)).setWidth 8 else memGet s.mem (pa + i)

/-- HOST_MEM_READ: the host reads device memory by physical address; held stores are invisible to it (R387). [DEDUCED: log 25] -/
def execHostMemRead (pa n : Nat) (s : State) : Host.Outcome State Fault Refusal :=
  if hdmMapped pa n then
    let s1 := { s with hostReads := s.hostReads ++ [(pa, (List.range n).map (s.hostByte pa))] }
    .next (if s.poisoned pa n then { s1 with free := s1.free + n } else s1)
  else .fault (.hostUnmapped pa)

/-- HOST_WINDOW_ACCESS: an access to the host memory window has reached the host attachment, and the host grants it; it performs there, and is
never held (R388). [DEDUCED: log 28] -/
def execHostWindowAccess (ai : Nat) (s : State) : Host.Outcome State Fault Refusal :=
  match s.access? ai with
  | none => .next s
  | some a =>
    match a.stage with
    | .hostWindow p =>
      guarded (decide (a.due ≤ s.tick) && !s.dbg.stopped) s ((s.modAccess ai fun x => { x with stage := .toNode p, due := s.later + 1 }).useFree)
    | _ => .next s

/-! ## Application cores (R389 to R392) -/

/-- The die of a core: eight on each. [DEDUCED: log 26] -/
def coreDie (c : Nat) : Nat := c / 8

/-- Where a core's physical address leads (R390). -/
inductive CoreTarget where
  | device (va : Nat)
  | wake (w : Nat)
  | reserved
deriving DecidableEq, Repr

/-- The target of a core's physical address (R390). [DEDUCED: log 26] -/
def State.coreTarget (s : State) (c pa : Nat) : CoreTarget :=
  let p := pa % 2 ^ 56
  if p.testBit 55 then .device (bits s.part.cwhome.toNat (2 * coreDie c + 1) (2 * coreDie c) * 2 ^ 55 + p % 2 ^ 55)
  else if 0x100000 ≤ p ∧ p < 0x108000 then .wake ((p - 0x100000) / 8)
  else .reserved

/-- The load, store or AMO access fault of a core (R390). -/
def State.coreFault (s : State) (c : Nat) (o : CoreOp) (stval : Nat) : State := { s with coreDone := s.coreDone ++ [⟨c, 0, true, stval, o⟩] }

/-- A core issues nothing more: an access of it is withheld, an AMO of it with aq is under way, or the package is stopped (R390, R392). [DEDUCED: log 26] -/
def State.coreWaits (s : State) (c : Nat) : Bool :=
  s.dbg.stopped || s.accesses.any fun a => a.core == some c && ((match a.stage with | .withheld _ _ => true | _ => false) || a.released)

/-- The core whose step an input is. -/
def coreOf (i : Instr) : Option Nat :=
  match i with
  | .coreAccess c _ | .coreWakeStore c _ _ | .coreAmo c _ => some c
  | _ => none

/-- A core's step is put off by a cycle, and with it every step of the core that has come after it. [DEDUCED: log 26] -/
def State.putOff (s : State) (i : Instr) : State :=
  { s with inputs := (s.tick + 1, i) :: s.inputs.map fun x => if coreOf x.2 == coreOf i then (max x.1 (s.tick + 1), x.2) else x }

/-- An access of a core sets out for its owner; `released` marks an AMO with aq, which later accesses of the core wait for (R392). -/
def State.coreIssue (s : State) (c va : Nat) (q : CoreReq) (kind : AccKind) (aq : Bool) : State :=
  (s.issue { id := s.ids, fire := 0, elem := 0, ctx := 0, slot := 0, region := 0, core := some c, kind := kind, wide := false, va := va
             size := q.size, wr := (match kind with | .coreLoad => false | _ => true), data := q.val.setWidth 512, inv := 0, opw := 0, reqTag := 0
             link := none, stage := .toOwner, due := s.later + 1, reply := 0, poison := false, released := aq }).useFree

/-- A size that an access of a core may have. [DEDUCED: log 26] -/
def coreSize (n : Nat) : Bool := n == 1 || n == 2 || n == 4 || n == 8

/-- A store of a core is still to perform. -/
def State.coreStores (s : State) (c : Nat) : Bool := s.accesses.any fun a => a.core == some c && a.kind == .coreStore

/-- An AMO of a core is still to perform. -/
def State.coreAmos (s : State) (c : Nat) : Bool := s.accesses.any fun a => a.core == some c && a.coreOp == .amo && (match a.stage with | .answered _ => false | _ => true)

/-- An access of a core has not passed its owner, and may still fault (R390). [DEDUCED: log 26] -/
def State.coreUnsure (s : State) (c : Nat) : Bool := s.accesses.any fun a => a.core == some c && (match a.stage with | .toOwner | .withheld _ _ => true | _ => false)

/-- Some write of a core is still to perform: a release of the core waits for it (R391, R392). [DEDUCED: log 26] -/
def State.coreWrites (s : State) (c : Nat) : Bool := s.coreAmos c || s.coreStores c

/-- A core's NOTIFY of v to wake register w: every write of the core before it performs first, and no access before it may still fault; step i waits for
them (R390, R391). [DEDUCED: log 26] -/
def State.coreNotify (s : State) (c w : Nat) (v : Word) (i : Instr) : State :=
  if s.coreWrites c || s.coreUnsure c then s.putOff i else (s.notify w v).coreEnd c .store 0

/-- A device access of a core, as one access, or as one on either side where it would cross from one 4 KiB of its address space into the next. [DEDUCED: log 26] -/
def State.coreDevice (s : State) (c va : Nat) (q : CoreReq) : State :=
  let kind := if q.wr then AccKind.coreStore else AccKind.coreLoad
  let n := 4096 - va % 4096
  if q.size ≤ n then s.coreIssue c va q kind false
  else (s.coreIssue c va { q with size := n } kind false).coreIssue c (va + n) { q with size := q.size - n, val := q.val >>> (8 * n) } kind false

/-- CORE_ACCESS: an application core loads or stores (R390, R391). A store of a double to a wake register is a NOTIFY. [DEDUCED: log 26] -/
def execCoreAccess (c : Nat) (q : CoreReq) (s : State) : Host.Outcome State Fault Refusal :=
  let op := if q.wr then CoreOp.store else CoreOp.load
  if 32 ≤ c then .next s
  else if s.coreWaits c then .next (s.putOff (.coreAccess c q))
  else match s.coreTarget c q.pa with
    | .device va => if coreSize q.size then .next (s.coreDevice c va q) else .next (s.coreFault c op (q.pa % 2 ^ 56))
    | .wake w =>
      if !q.wr then .next (s.coreEnd c .load 0)
      else if q.size = 8 ∧ q.pa % 8 = 0 then .next (s.coreNotify c w q.val (.coreAccess c q))
      else .next (s.coreFault c op (q.pa % 2 ^ 56))
    | .reserved => .next (s.coreFault c op (q.pa % 2 ^ 56))

/-- CORE_ACCESS_TIMEOUT: no XRESOLVE has come for 50 µs for the page of a core's withheld access, or its failure is of an unresolvable kind: it raises the
access fault, once no earlier access of the core may still raise its own (R241, R390). [DEDUCED: log 26] -/
def execCoreAccessTimeout (c : Nat) (s : State) : Host.Outcome State Fault Refusal :=
  match s.accesses.find? fun a => a.core == some c && (match a.stage with
    | .withheld cd since => decide (since + s.holdTicks 0 cd ≤ s.tick) && s.precise a
    | _ => false) with
  | none => .next s
  | some a => guarded (!s.dbg.stopped) s (s.coreFaultAt a c)

/-- CORE_WAKE_STORE: a core stores a double to wake register w: every store of the core before it performs, then the register takes the value as
by a NOTIFY (R222, R391). [DEDUCED: log 26] -/
def execCoreWakeStore (c w : Nat) (v : Word) (s : State) : Host.Outcome State Fault Refusal :=
  if 32 ≤ c ∨ 4096 ≤ w then .next s
  else if s.coreWaits c then .next (s.putOff (.coreWakeStore c w v))
  else .next (s.coreNotify c w v (.coreWakeStore c w v))

/-- The operation of a core's AMO as the home performs it. -/
def coreAmoOp (n : Nat) : Nat := if n = 7 then 9 else if n = 8 then 10 else n

/-- CORE_AMO: a core's AMO to device memory sets out to be performed at the word's home; with rl, after every earlier write of the core (R392). [DEDUCED: log 26] -/
def execCoreAmo (c : Nat) (q : CoreReq) (s : State) : Host.Outcome State Fault Refusal :=
  if 32 ≤ c then .next s
  else if s.coreWaits c then .next (s.putOff (.coreAmo c q))
  else match s.coreTarget c q.pa with
    | .device va =>
      if !(q.size == 4 || q.size == 8) || va % q.size != 0 || 9 ≤ q.amo then .next (s.coreFault c .amo (q.pa % 2 ^ 56))
      else
        if q.rl && s.coreWrites c then .next (s.putOff (.coreAmo c q))
        else .next (s.coreIssue c va q (.coreAmo (coreAmoOp q.amo)) q.aq)
    | _ => .next (s.coreFault c .amo (q.pa % 2 ^ 56))

end Sys2Proof.Machine
end

