-- ==== Sys2Proof/Machine/Brezil.lean ====
section
/-! DEFINITION. Brezil links between packages (spec/23_scale.md R393 to R398): receiving flits, the tick of a partition, and recovery. -/

namespace Sys2Proof.Machine

/-! ## Receiving (R393) -/

/-- Flits that the far end has acknowledged leave the retry buffer. -/
def BrezilLink.acked_ (l : BrezilLink) (a : BitVec 16) : BrezilLink :=
  { l with acked := a, retry := l.retry.filter fun x => decide ((flitSeq x - a).toNat < 2 ^ 15) }

/-- What waits takes the room that the retry buffer has, behind what is sent again. -/
def BrezilLink.drained (l : BrezilLink) : BrezilLink := l.drain l.waiting.length

/-- The SEQ by which a flit that fails its CRC is named: its own where it may be one that is due, else the one that is expected. [DEDUCED: log 29] -/
def BrezilLink.nakSeq (l : BrezilLink) (x : Flit) : BitVec 16 := if (flitSeq x - l.rxSeq).toNat < 512 then flitSeq x else l.rxSeq

/-- A flit fails its CRC: the first time it is answered with a NAK that names it, the second time the link is fenced (R369, R393). [DEDUCED: log 29] -/
def State.flitFailed (s : State) (j : Nat) (x : Flit) : State :=
  let n := (s.link j).nakSeq x
  if (s.link j).failed.contains n then s.loseBrezil j
  else (s.modLink j fun l => { l with failed := l.failed ++ [n] }).sendFlit j 4 0 s.part.devid (natLe 2 n.toNat)

/-- A flit that concerns only the two ends of its link, whatever its DST: an idle flit or a NAK (R393). [DEDUCED: log 29] -/
def linkLocal (kind : Nat) : Bool := kind == 0 || kind == 4

/-- A flit of a kind arrives on a link: `use` is what is done with one that is taken and addressed here; one for another device goes on by its
route (R393). A duplicate is dropped, and so is one that comes before its turn. One that had failed before has been a transient error (R369). [DEDUCED: log 29] -/
def State.receive (s : State) (j kind : Nat) (x : Flit) (use : State → State) : Host.Outcome State Fault Refusal :=
  if !s.linkRuns j || s.dbg.stopped then .next s
  else if (flitCrc (x.toNat % 2 ^ 1984)).toNat ≠ flitBits x 2047 1984 then .next (s.flitFailed j x)
  else if flitKind x ≠ kind then .next s
  else
    let s1 := s.modLink j fun l => l.acked_ (flitAck x)
    let out := fun (t : State) => Host.Outcome.next (t.modLink j BrezilLink.drained)
    if flitSeq x ≠ (s.link j).rxSeq then out s1
    else
      let again := (s.link j).failed.contains (s.link j).rxSeq
      let s2 := if again then s1.transient 8 (unitPlace hostTile j) 0 j (s1.overBrezil j) else s1
      let s3 := s2.modLink j fun l => { l with rxSeq := l.rxSeq + 1, failed := l.failed.filter (· != l.rxSeq) }
      if linkLocal kind ∨ flitDst x = s.part.devid then out (use s3)
      else match s.routeTo (flitDst x) with
        | some k => out (s3.sendFlit k kind (flitDst x) (flitSrc x) (flitPayload x))
        | none => out (s3.log 11 (flitDst x))

/-- A participant of another package joins its round of a partition group, in the place of what the same device has told of that rank before; one of a
round that has ended here, and one of a group below 0x8000, is nobody's (R395). [DEDUCED: log 60] -/
def State.joinRemote (s : State) (dev : Nat) (f : List Nat) (data : List Byte) : State :=
  let n := fun (i : Nat) => f.getD i 0
  let c : Cmd := { opc := if n 0 = 1 then 0xD8 else 0xD7, a := 0, b := 0, fire := s.ids, elem := 0, ctx := 0, slot := 0, region := 0, cls := 3, inv := 0 }
  let p : Participant := { cmd := c, arg := n 0 == 1, sound := n 1 == 1, root := n 2, bcast := n 3 == 1, rop := n 4, nm1 := n 5, rank := n 6, group := n 7
                           src := 0, dst := 0, len := n 8, cwaddr := 0, cwval := 0, cwen := false, cnten := false, task := 0, remote := true, data := data
                           told := true, pos := 0, shadows := [], dev := dev, round := n 9 }
  let others := (tget s.colls 0 []).filter fun q => !(q.remote && q.dev == dev && q.group == p.group && q.round == p.round && q.rank == p.rank)
  if p.group < 0x8000 ∨ p.round < s.round p.group then s else { s.newId with colls := tput s.colls 0 (others ++ [p]) }

/-- Collective data from a device (R316, R395): the payloads it has sent may end in a participant. -/
def State.takeData (s : State) (src : Nat) (b : List Byte) : State :=
  let l := ((s.part.inbox.filter (·.1 == src)).map (·.2)) ++ [b]
  match Config.participantOf l with
  | some (f, data) => ({ s with part := { s.part with inbox := s.part.inbox.filter (·.1 != src) } }).joinRemote src f data
  | none => { s with part := { s.part with inbox := s.part.inbox ++ [(src, b)] } }

/-- FLIT_COLLECTIVE_DATA: a collective data flit is taken in order, checked, and delivered once, or forwarded (R393, R395). -/
def execFlitCollectiveData (j : Nat) (x : Flit) (s : State) : Host.Outcome State Fault Refusal :=
  s.receive j 1 x fun s => s.takeData (flitSrc x) (flitPayload x)

/-- FLIT_TICK: a tick flit of the master arrives. The package's tick is locked to the master's and goes on by one a cycle: what the flit corrects
lies below the cycle, and a path to the master is there (R397). [DEDUCED: log 30] -/
def execFlitTick (j : Nat) (x : Flit) (s : State) : Host.Outcome State Fault Refusal :=
  s.receive j 2 x fun s => { s with part := { s.part with tickLost := false } }

/-- The cut that a recovery has begun is under way (R398). [DEDUCED: log 31] -/
def State.recoveryRuns (s : State) : Bool := s.regions.any fun g => g.live && g.freeze == some .preempt

/-- A loss that a package of the partition brings word of: a device, or a link of its own, which is named from 4,096 on (R398). [DEDUCED: log 31] -/
def heardLoss (src d : Nat) : Nat := if d < 2048 then d else 4096 + 32 * src + d % 32

/-- FLIT_CONTROL: a control flit brings word of a fenced device or link, and the recovery of R398 is to begin here. [DEDUCED: log 31] -/
def execFlitControl (j : Nat) (x : Flit) (s : State) : Host.Outcome State Fault Refusal :=
  s.receive j 3 x fun s =>
    match Config.controlNotice (flitPayload x) with
    | some d =>
      let k := heardLoss (flitSrc x) d
      if s.part.fencedDevs.contains k || (s.part.recovering == some k && s.recoveryRuns) then s
      else { (s.log 12 k) with part := { s.part with fencedDevs := s.part.fencedDevs ++ [k] } }
    | none => s

/-- The flit of a SEQ and the ones after it are sent again from the retry buffer (R393). -/
def BrezilLink.resend (l : BrezilLink) (n : BitVec 16) : BrezilLink :=
  let again := l.retry.filter fun y => decide ((flitSeq y - n).toNat < 2 ^ 15)
  { l with out := l.out ++ again, resent := l.resent + again.length }

/-- FLIT_NAK: the far end names a flit that failed; it and the ones after it are sent again from the retry buffer, before anything that waits (R393). [DEDUCED: log 29] -/
def execFlitNak (j : Nat) (x : Flit) (s : State) : Host.Outcome State Fault Refusal :=
  s.receive j 4 x fun s => s.modLink j fun l => l.resend (BitVec.ofNat 16 (leNat ((flitPayload x).take 2)))

/-- FLIT_IDLE: an idle flit carries only its ACK (R393). -/
def execFlitIdle (j : Nat) (x : Flit) (s : State) : Host.Outcome State Fault Refusal := s.receive j 0 x id

/-! ## The partition's tick (R397) -/

/-- TICK_FLIT_SEND: every 65,536 ticks the tick master sends tick flits to the other packages of its partition (R397). [DEDUCED: log 30] -/
def execTickFlitSend (s : State) : Host.Outcome State Fault Refusal :=
  guarded (s.mgmt.ready && s.part.devid == 0 && s.tick % 65536 == 0 && decide (0 < s.tick) && s.part.tickSent != s.tick + 1 && !s.dbg.stopped) s
    (({ s with part := { s.part with tickSent := s.tick + 1 } }).sendAll 2 (natLe 8 s.tick))

/-- TICK_MASTER_LOSS: a package has lost every path to the tick master: the management core notes it, and the package keeps counting (R397). [DEDUCED: log 30] -/
def execTickMasterLoss (s : State) : Host.Outcome State Fault Refusal :=
  let path := match s.routeTo 0 with | some j => s.linkRuns j | none => false
  guarded (s.mgmt.ready && s.part.devid != 0 && !path && !s.part.tickLost && !s.dbg.stopped) s
    (let s1 := s.log 10 s.tick; { s1 with part := { s1.part with tickLost := true } })

/-! ## Recovery (R398) -/

/-- The links that a loss takes away here: a link of this package, or those whose far end is the lost device. -/
def lostLinks (d : Nat) : List Nat := if d < 2048 then (List.range 18).filter fun j => Config.farEnd j == d else if d < 2048 + 18 then [d - 2048] else []

/-- The lost links are fenced, and the management core rewrites the route table: no route leads to a lost device, and a device that was reached by a lost
link has the new route that the core gives it, over a link that runs, or none (R398). [DEDUCED: log 31] -/
def State.reroute (s : State) (d : Nat) : State :=
  let lost := lostLinks d
  let s1 := lost.foldl (fun s j => if (s.link j).fenced then s else s.fenceBrezil j) s
  (List.range 2048).foldl (fun t e =>
    let was := (memGet s.mem (s.part.rtbase.toNat + e)).toNat
    let n := Config.reroute d e
    if e = d then t.putBytes (s.part.rtbase.toNat + e) [0xFF]
    else if lost.contains was then t.putBytes (s.part.rtbase.toNat + e) [if s1.linkRuns n.toNat then n else 0xFF]
    else t) s1

/-- A round of a partition group has begun here: it has all its data, and runs to its end (R373, R395). [DEDUCED: log 31] -/
def State.begunGroup (s : State) (grp : Nat) : Bool :=
  s.colls.any fun p => p.2.any fun q => q.group == grp && !q.remote && (q.pos != 0 || !q.shadows.isEmpty)

/-- A participant after a loss: a record of a group of this package stays as it is; one of a begun round goes on under a number that no record can
name, `fresh` above its group's; one that waits is told anew, in the rounds as they begin afresh; what others have told is forgotten. [DEDUCED: log 31] -/
def State.afresh (s : State) (fresh : Nat) (q : Participant) : Option Participant :=
  let r := s.round q.group
  let begun := s.begunGroup q.group
  if q.group < 0x8000 ∨ 2 ^ 16 ≤ q.group then some q
  else if begun && q.round == r then some { q with group := q.group + fresh, round := 0 }
  else if q.remote then none
  else some { q with told := false, data := [], round := q.round - r - if begun then 1 else 0 }

/-- Collectives over the partition begin afresh after a loss: no package waits for what another has told before (R395, R398). [DEDUCED: log 31] -/
def State.forgetRounds (s : State) : State :=
  { s.newId with part := { s.part with rounds := s.part.rounds.filter fun p => decide (p.1 < 0x8000) || decide (2 ^ 16 ≤ p.1), inbox := [] }
                 colls := s.colls.map fun (p : Nat × List Participant) => (p.1, p.2.filterMap (s.afresh (2 ^ 16 * s.ids))) }

/-- PARTITION_RECOVERY: device d of the partition is lost, or from 2,048 on link d - 2,048 of this package, or one of another's: links are fenced and
routes rewritten, every package hears of it by control flits along the routes as they then are, but for a loss of which one has brought word, and the
launches that go on are cut and saved. The machine begins it for each loss that it has met with or heard of. The spare's load and the relaunch are
system software's (R398). [DEDUCED: log 31] -/
def execPartitionRecovery (d : Nat) (s : State) : Host.Outcome State Fault Refusal :=
  let cutAll := fun (s : State) => { s with regions := s.regions.map fun (g : Region) =>
    if g.live && g.freeze.isNone && g.ending.isNone && g.halt.isNone then g.stop .preempt s.tick else g }
  let heard := s.part.fencedDevs.contains d && (decide (d < 2048) || decide (2048 + 18 ≤ d))
  guarded (s.mgmt.ready && (decide (d < 2048 + 18) || heard) && !(s.part.recovering == some d && s.recoveryRuns) && !s.dbg.stopped) s
    (let s0 := s.reroute d
     let s1 := (if heard then s0 else s0.sendAll 3 (Config.controlPayload d)).forgetRounds
     let s2 := cutAll (s1.log 13 d)
     { s2 with part := { s2.part with recovering := some d, fencedDevs := s2.part.fencedDevs.filter (· != d) } })

end Sys2Proof.Machine
end

