-- ==== Sys2Proof/Machine/Boot.lean ====
section
/-! DEFINITION. Power-up, firmware, attestation and reset (spec/25_bringup.md R408 to R411). -/

namespace Sys2Proof.Machine

/-! ## Power-up (R408, R409) -/

/-- SHA3-512: blocks of 72 bytes, and 64 bytes of the state. -/
def absorb512 (a : List Word) : Nat → List Byte → List Word
  | 0, _ => a
  | n + 1, b =>
    absorb512 (keccakF (a.mapIdx fun i w => if i < 9 then w ^^^ BitVec.ofNat 64 (leNat ((b.drop (8 * i)).take 8)) else w)) n (b.drop 72)
def sha3_512 (m : List Byte) : List Byte :=
  let n := m.length / 72 + 1
  let pad := n * 72 - m.length
  let p : List Byte := if pad = 1 then [0x86] else 0x06 :: List.replicate (pad - 2) 0 ++ [0x80]
  ((absorb512 (List.replicate 25 0) n (m ++ p)).take 8).flatMap fun w => natLe 8 w.toNat

/-- The digest that an image's signature covers: header bytes 0 to 63 and the body (R410). -/
def firmwareDigest (img : List Byte) : List Byte := sha3_512 (img.take 64 ++ img.drop 4096)

/-- Why an image may not run: 1 its signature, 2 its version; 0 where it may (R409, R410). -/
def firmwareRefusal (img : List Byte) : Nat :=
  if !Config.firmwareVerifies (firmwareDigest img) (Config.firmwareSignature img) then 1
  else if Config.firmwareVersion (img.take 4096) < Config.firmwareFloor then 2 else 0

/-- The image that the boot ROM finds: a staged one that has passed, else the one that has run, else what the part was made with (R409). [DESIGN CHOICE: log 32] -/
def Mgmt.image (m : Mgmt) (n : Nat) : List Byte := if !m.staged.isEmpty then m.staged else if m.running.isEmpty then Config.firmwareImage n else m.running

/-- Phase 1: the firmware image runs (R408). -/
def State.bootFirmware (s : State) (n : Nat) (img : List Byte) : State :=
  { s with mgmt := { s.mgmt with running := img, staged := [], fwstaged := false, fwsvn := Config.firmwareVersion (img.take 4096) % 2 ^ 32, boots := n + 1 } }

/-- Phases 2 and 3: the links are trained, and the tick is 0 (R408). -/
def State.bootLinks (s : State) : State :=
  { s with tick := 0, part := { s.part with links := s.part.links.map fun (x : BrezilLink) => { x with up := true } } }

/-- The repair map of die d as the n-th boot's test finds it (R370, R408). -/
def testedRepair (n d : Nat) : Repair :=
  { tiles := (List.range 1024).map fun k => (k, Config.testedTile n d k % 256), mx := Config.testedUnits n d 0 % 2 ^ 16
    ce := Config.testedUnits n d 1 % 2 ^ 8, coll := (Config.testedUnits n d 2).testBit 0, xs := Config.testedUnits n d 3 % 2 ^ 64 }

/-- Memory that is the host's own, and not the device's (R226). -/
def State.hostCells (s : State) : List Host.Cell := s.mem.filter fun c => isHostWin c.1

/-- Phase 4: HBM and the scratchpad are zero, and the repair maps stand as the test has found them (R408). [DESIGN CHOICE: log 32] -/
def State.bootMemory (s : State) (n : Nat) : State :=
  { s with mem := s.hostCells, poison := s.poison.filter fun k => isHostWin (64 * k), faults := { s.faults with repair := (List.range 4).map (testedRepair n) } }

/-- Phase 5: the save key is drawn, and READY is set (R374, R408). -/
def State.bootReady (s : State) (n : Nat) : State :=
  { s with mgmt := { s.mgmt with ready := true, ksave := (List.range 32).map fun i => (Config.saveKey n).getD i 0 } }

/-- A phase fails: FAIL holds why, and READY stays clear until the next reset (R409). -/
def State.bootFailed (s : State) (n c : Nat) : State := { s with mgmt := { s.mgmt with fail := c, boots := n + 1 } }

/-- The n-th power-up has passed all its phases. [DEDUCED: log 24; DESIGN CHOICE: log 32] -/
def State.booted (s : State) (n : Nat) : State := (((s.bootFirmware n (s.mgmt.image n)).bootLinks).bootMemory n).bootReady n

/-- POWER_UP: the management core runs the boot phases in order; what a phase has done stands where a later one fails (R408, R409). [DESIGN CHOICE: log 32] -/
def execPowerUp (s : State) : Host.Outcome State Fault Refusal :=
  let n := s.mgmt.boots
  let img := s.mgmt.image n
  let c := firmwareRefusal img
  let s1 := s.bootFirmware n img
  guarded (!s.mgmt.ready && s.mgmt.fail == 0) s
    (if c ≠ 0 then s.bootFailed n c
      else if Config.bootFail n % 3 = 1 then s1.bootFailed n 3
      else if Config.bootFail n % 3 = 2 then s1.bootLinks.bootFailed n 4
      else s.booted n)

/-! ## Firmware (R410) -/

/-- FIRMWARE_STAGE: the host writes GO of FWCTL: the image at FWSTAGE is verified as the boot ROM would, and FWSTAGED is set only where it passes;
FAIL records why it does not (R410). [DEDUCED: log 33] -/
def execFirmwareStage (s : State) : Host.Outcome State Fault Refusal :=
  let a := s.mgmt.fwstage.toNat
  let h := memRead s.mem a 4096
  let img := h ++ memRead s.mem (a + 4096) (Config.firmwareLength h)
  s.hosted
    (if firmwareRefusal img ≠ 0 then { s with mgmt := { s.mgmt with fail := firmwareRefusal img } }
      else { s with mgmt := { s.mgmt with fwstaged := true, staged := img } })

/-! ## Attestation (R411) -/

/-- The bytes of a die's repair map, as its registers lay them out up to the end of XS (R370). [DEDUCED: log 34] -/
def Repair.bytes (r : Repair) : List Byte :=
  ((List.range 1024).map fun k => BitVec.ofNat 8 (tget r.tiles k 0xFF)) ++ natLe 2 r.mx ++ natLe 2 r.ce ++ natLe 4 (if r.coll then 1 else 0) ++ natLe 8 r.xs

/-- The 8 KiB of an attestation report. [DEDUCED: log 34] -/
def State.attReport (s : State) : List Byte :=
  let head := natLe 8 0x74726F7065723957 ++ natLe 8 (s.mgmt.fwsvn * 2 ^ 32 + s.part.devid) ++ natLe 8 s.tick ++ List.replicate 40 0
    ++ (s.mgmt.attTaken.take 64) ++ sha3_512 s.mgmt.running
    ++ sha3_512 (s.faults.repair.flatMap Repair.bytes)
  let sig := Config.attestationSignature (sha3_512 head)
  head ++ ((List.range 4627).map fun i => sig.getD i 0) ++ List.replicate 3309 0

/-- ATTESTATION: the management core writes the report that GO has asked for at ATTADDR, and GO clears once its last byte has performed (R411). [DEDUCED: log 34] -/
def execAttestation (s : State) : Host.Outcome State Fault Refusal :=
  guarded s.mgmt.attGo s
    (let s1 := s.putBytes s.mgmt.attaddr.toNat s.attReport; { s1 with mgmt := { s1.mgmt with attGo := false, attTaken := [] } })

/-! ## Reset (R409, R410) -/

/-- RESET: everything returns to its reset value, FWSTAGED with it, and the boot phases follow; a staged image that has passed runs from then on
(R409, R410). [DEDUCED: log 24; DESIGN CHOICE: log 32] -/
def execReset (s : State) : Host.Outcome State Fault Refusal :=
  let m := s.mgmt
  .next { State.reset with inputs := s.inputs, free := s.free, mem := s.hostCells, poison := s.poison.filter fun k => isHostWin (64 * k)
                           mgmt := { ({} : Mgmt) with boots := m.boots, running := m.running, staged := m.staged } }

end Sys2Proof.Machine
end

