-- ==== Sys2Proof/Machine/Stream.lean ====
section
/-! DEFINITION. The stream and token instructions (spec/05_instr_integer_stream.md R103 to R112). -/

namespace Sys2Proof.Machine

/-- NOP: the atomic step of R24 only (R104). -/
def execNop (o : Op) (s : State) : Host.Outcome State Fault Refusal :=
  fire (fun _ => .go {}) (.nop o) s

/-- PASS writes A to DST1 (R104). -/
def execPass (o : Op) (s : State) : Host.Outcome State Fault Refusal :=
  fire (fun v => .go { d1 := some v.moved }) (.pass o) s

/-- DUP writes A to DST1 and DST2 (R104). -/
def execDup (o : Op) (s : State) : Host.Outcome State Fault Refusal :=
  fire (fun v => .go (.both 1 v.moved)) (.dup o) s

/-- SWAP writes B to DST1 and A to DST2 (R104). -/
def execSwap (o : Op) (s : State) : Host.Outcome State Fault Refusal :=
  fire (fun v => .go { d1 := some v.movedB, d2 := some v.moved }) (.swap o) s

/-- The test of GATE and STEER: some bit of B is 1 (R105). [DESIGN CHOICE: log 90] -/
def nonzero (b : Val) : Bool := b.bits != 0

/-- GATE writes A to DST1 when B is nonzero, else nothing (R105). -/
def execGate (o : Op) (s : State) : Host.Outcome State Fault Refusal :=
  fire (fun v => .go { d1 := if nonzero v.b then some v.moved else none, pred := nonzero v.b }) (.gate o) s

/-- STEER writes A to DST1 when B is nonzero, else to DST2 (R105). -/
def execSteer (o : Op) (s : State) : Host.Outcome State Fault Refusal :=
  fire (fun v => .go { d1 := if nonzero v.b then some v.moved else none, d2 := if nonzero v.b then none else some v.moved
                       pred := nonzero v.b }) (.steer o) s

/-- TAGOF writes the tag of A's head as I64 (R106). -/
def execTagof (o : Op) (s : State) : Host.Outcome State Fault Refusal :=
  fire (fun v =>
    let t := v.aTag.getD 0
    .go { Go.both 1 (scalarVal v.wide 5 t) with pred := t == 1 || t == 2 }) (.tagof o) s

/-- RETAG emits A under the tag B[2:0]; MARK traps BAD_TAG (R107). -/
def execRetag (o : Op) (s : State) : Host.Outcome State Fault Refusal :=
  fire (fun v =>
    let t := v.b.n64 % 8
    if t = 4 then .trap .badTag 0 0 0 else .go { Go.both 1 v.moved with tag := some t }) (.retag o) s

/-- A loop step of ITER or ITERS: next counter, present value, bound reached; tag action 11 follows the bound (R58, R108). -/
def iterGo (v : Env) (next cur : Nat) (reached : Bool) : Go :=
  { d1 := some (scalarVal v.wide 5 (if reached then 0 else next)), d2 := some (scalarVal v.wide 5 cur), pred := reached
    tag := if v.o.tact.val = 11 then some (if reached then 1 else 0) else none }

/-- ITER counts up to an unsigned bound (R108). -/
def execIter (o : Op) (s : State) : Host.Outcome State Fault Refusal :=
  fire (fun v => .go (iterGo v (v.a.n64 + 1) v.a.n64 (decide (v.b.n64 ≤ v.a.n64 + 1)))) (.iter o) s

/-- ITERS counts by a signed step to a signed bound (R108). -/
def execIters (o : Op) (s : State) : Host.Outcome State Fault Refusal :=
  fire (fun v =>
    let step := sextN (bits v.b.n64 63 32) 32
    let lim := sextN v.b.n64 32
    let next := sextN v.a.n64 64 + step
    let reached := decide (step = 0) || (decide (0 < step) && decide (lim ≤ next)) || (decide (step < 0) && decide (next ≤ lim))
    .go (iterGo v (wrapN next 64) v.a.n64 reached)) (.iters o) s

/-- WAVE writes A + B to WV, and to DST1 (R109). -/
def execWave (o : Op) (s : State) : Host.Outcome State Fault Refusal :=
  fire (fun v =>
    let w := (v.a.n64 + v.b.n64) % 2 ^ 16
    .go { d1 := some (scalarVal v.wide (intFmt v.a.fmt 64) w), wv := some (BitVec.ofNat 16 w) }) (.wave o) s

/-- EBB sends a drain token of value zero to each destination (R110). -/
def execEbb (o : Op) (s : State) : Host.Outcome State Fault Refusal :=
  fire (fun _ => .go { Go.both 1 {} with tag := some 3 }) (.ebb o) s

/-- HALT: from its decision the element decides no fire; it completes when every earlier fire of the element has (R111). In a
region launch the region halts: the elements may still decide in that same cycle, and the HALT first in row-major order of
elements is the one that ends the launch (R186). -/
def execHalt (o : Op) (s : State) : Host.Outcome State Fault Refusal :=
  fireWith (fun v => .go { wait := .halt (v.a.n64 % 2 ^ 16) })
    (fun v _ s =>
      let s1 := s.modElem v.e fun x => { x with halted := true }
      if v.g.solo then s1
      else s1.modRegion v.g.id fun r =>
        match r.halt with
        | some _ => r
        | none => { r with halt := some (v.s.tick, v.a.n64 % 2 ^ 16, v.e) }) (.halt o) s

/-- OCC writes the occupancy of the channels at the start of the decision cycle (R112). -/
def execOcc (o : Op) (s : State) : Host.Outcome State Fault Refusal :=
  fire (fun v =>
    let n := v.x.occupancy v.s.tick
    .go { Go.both 1 (scalarVal v.wide 6 n) with pred := n % 2 ^ 12 != 0 }) (.occ o) s

end Sys2Proof.Machine
end

