-- ==== Sys2Proof/Machine/Dispatch.lean ====
section
/-! DEFINITION. The dispatch: one arm for each instruction and each step of spec/opcode_table.json. -/

namespace Sys2Proof.Machine

/-- What an instruction or a step does to the machine. -/
def exec (i : Instr) (s : State) : Host.Outcome State Fault Refusal :=
  match i with
  | .nop o => Sys2Proof.Machine.execNop o s
  | .pass o => Sys2Proof.Machine.execPass o s
  | .dup o => Sys2Proof.Machine.execDup o s
  | .swap o => Sys2Proof.Machine.execSwap o s
  | .gate o => Sys2Proof.Machine.execGate o s
  | .steer o => Sys2Proof.Machine.execSteer o s
  | .tagof o => Sys2Proof.Machine.execTagof o s
  | .retag o => Sys2Proof.Machine.execRetag o s
  | .iter o => Sys2Proof.Machine.execIter o s
  | .iters o => Sys2Proof.Machine.execIters o s
  | .wave o => Sys2Proof.Machine.execWave o s
  | .ebb o => Sys2Proof.Machine.execEbb o s
  | .halt o => Sys2Proof.Machine.execHalt o s
  | .occ o => Sys2Proof.Machine.execOcc o s
  | .add o => Sys2Proof.Machine.execAdd o s
  | .sub o => Sys2Proof.Machine.execSub o s
  | .neg o => Sys2Proof.Machine.execNeg o s
  | .mul o => Sys2Proof.Machine.execMul o s
  | .mulh o => Sys2Proof.Machine.execMulh o s
  | .mulhu o => Sys2Proof.Machine.execMulhu o s
  | .mad o => Sys2Proof.Machine.execMad o s
  | .divu o => Sys2Proof.Machine.execDivu o s
  | .remu o => Sys2Proof.Machine.execRemu o s
  | .div o => Sys2Proof.Machine.execDiv o s
  | .rem o => Sys2Proof.Machine.execRem o s
  | .addsat o => Sys2Proof.Machine.execAddsat o s
  | .subsat o => Sys2Proof.Machine.execSubsat o s
  | .abs o => Sys2Proof.Machine.execAbs o s
  | .min o => Sys2Proof.Machine.execMin o s
  | .max o => Sys2Proof.Machine.execMax o s
  | .minu o => Sys2Proof.Machine.execMinu o s
  | .maxu o => Sys2Proof.Machine.execMaxu o s
  | .and o => Sys2Proof.Machine.execAnd o s
  | .or o => Sys2Proof.Machine.execOr o s
  | .xor o => Sys2Proof.Machine.execXor o s
  | .andn o => Sys2Proof.Machine.execAndn o s
  | .orn o => Sys2Proof.Machine.execOrn o s
  | .not o => Sys2Proof.Machine.execNot o s
  | .addw o => Sys2Proof.Machine.execAddw o s
  | .subw o => Sys2Proof.Machine.execSubw o s
  | .mulw o => Sys2Proof.Machine.execMulw o s
  | .sextb o => Sys2Proof.Machine.execSextb o s
  | .sexth o => Sys2Proof.Machine.execSexth o s
  | .sextw o => Sys2Proof.Machine.execSextw o s
  | .zextb o => Sys2Proof.Machine.execZextb o s
  | .zexth o => Sys2Proof.Machine.execZexth o s
  | .zextw o => Sys2Proof.Machine.execZextw o s
  | .ceq o => Sys2Proof.Machine.execCeq o s
  | .cne o => Sys2Proof.Machine.execCne o s
  | .clt o => Sys2Proof.Machine.execClt o s
  | .cle o => Sys2Proof.Machine.execCle o s
  | .cltu o => Sys2Proof.Machine.execCltu o s
  | .cleu o => Sys2Proof.Machine.execCleu o s
  | .ctst o => Sys2Proof.Machine.execCtst o s
  | .cmovnz o => Sys2Proof.Machine.execCmovnz o s
  | .cmovz o => Sys2Proof.Machine.execCmovz o s
  | .shl o => Sys2Proof.Machine.execShl o s
  | .shr o => Sys2Proof.Machine.execShr o s
  | .sar o => Sys2Proof.Machine.execSar o s
  | .rol o => Sys2Proof.Machine.execRol o s
  | .ror o => Sys2Proof.Machine.execRor o s
  | .clz o => Sys2Proof.Machine.execClz o s
  | .ctz o => Sys2Proof.Machine.execCtz o s
  | .popc o => Sys2Proof.Machine.execPopc o s
  | .brev o => Sys2Proof.Machine.execBrev o s
  | .bswap o => Sys2Proof.Machine.execBswap o s
  | .bfx o => Sys2Proof.Machine.execBfx o s
  | .bfi o => Sys2Proof.Machine.execBfi o s
  | .lea o => Sys2Proof.Machine.execLea o s
  | .hash o => Sys2Proof.Machine.execHash o s
  | .draw o => Sys2Proof.Machine.execDraw o s
  | .fadd o => Sys2Proof.Machine.execFadd o s
  | .fsub o => Sys2Proof.Machine.execFsub o s
  | .fmul o => Sys2Proof.Machine.execFmul o s
  | .fma o => Sys2Proof.Machine.execFma o s
  | .fms o => Sys2Proof.Machine.execFms o s
  | .fnma o => Sys2Proof.Machine.execFnma o s
  | .fmin o => Sys2Proof.Machine.execFmin o s
  | .fmax o => Sys2Proof.Machine.execFmax o s
  | .fabs o => Sys2Proof.Machine.execFabs o s
  | .fneg o => Sys2Proof.Machine.execFneg o s
  | .fcopysign o => Sys2Proof.Machine.execFcopysign o s
  | .fceq o => Sys2Proof.Machine.execFceq o s
  | .fclt o => Sys2Proof.Machine.execFclt o s
  | .fcle o => Sys2Proof.Machine.execFcle o s
  | .fcun o => Sys2Proof.Machine.execFcun o s
  | .fclass o => Sys2Proof.Machine.execFclass o s
  | .frint o => Sys2Proof.Machine.execFrint o s
  | .ffloor o => Sys2Proof.Machine.execFfloor o s
  | .fceil o => Sys2Proof.Machine.execFceil o s
  | .ftrunc o => Sys2Proof.Machine.execFtrunc o s
  | .fexp2f o => Sys2Proof.Machine.execFexp2f o s
  | .fldexp o => Sys2Proof.Machine.execFldexp o s
  | .fgetexp o => Sys2Proof.Machine.execFgetexp o s
  | .fgetmant o => Sys2Proof.Machine.execFgetmant o s
  | .frcp o => Sys2Proof.Machine.execFrcp o s
  | .frsq o => Sys2Proof.Machine.execFrsq o s
  | .flog2f o => Sys2Proof.Machine.execFlog2f o s
  | .cvt o => Sys2Proof.Machine.execCvt o s
  | .cvts o => Sys2Proof.Machine.execCvts o s
  | .cvti o => Sys2Proof.Machine.execCvti o s
  | .cvtit o => Sys2Proof.Machine.execCvtit o s
  | .cvtf o => Sys2Proof.Machine.execCvtf o s
  | .cvtfu o => Sys2Proof.Machine.execCvtfu o s
  | .pack o => Sys2Proof.Machine.execPack o s
  | .unpack o => Sys2Proof.Machine.execUnpack o s
  | .scale o => Sys2Proof.Machine.execScale o s
  | .fmtof o => Sys2Proof.Machine.execFmtof o s
  | .vbcast o => Sys2Proof.Machine.execVbcast o s
  | .vredadd o => Sys2Proof.Machine.execVredadd o s
  | .vredmax o => Sys2Proof.Machine.execVredmax o s
  | .vredmin o => Sys2Proof.Machine.execVredmin o s
  | .vargmax o => Sys2Proof.Machine.execVargmax o s
  | .vscan o => Sys2Proof.Machine.execVscan o s
  | .vperm o => Sys2Proof.Machine.execVperm o s
  | .vslide o => Sys2Proof.Machine.execVslide o s
  | .vextr o => Sys2Proof.Machine.execVextr o s
  | .vins o => Sys2Proof.Machine.execVins o s
  | .vdot o => Sys2Proof.Machine.execVdot o s
  | .vmask o => Sys2Proof.Machine.execVmask o s
  | .vcompress o => Sys2Proof.Machine.execVcompress o s
  | .vlaneid o => Sys2Proof.Machine.execVlaneid o s
  | .ld o => Sys2Proof.Machine.execLd o s
  | .st o => Sys2Proof.Machine.execSt o s
  | .ldc o => Sys2Proof.Machine.execLdc o s
  | .stc o => Sys2Proof.Machine.execStc o s
  | .cnop o => Sys2Proof.Machine.execCnop o s
  | .lds o => Sys2Proof.Machine.execLds o s
  | .sts o => Sys2Proof.Machine.execSts o s
  | .aadd o => Sys2Proof.Machine.execAadd o s
  | .amin o => Sys2Proof.Machine.execAmin o s
  | .amax o => Sys2Proof.Machine.execAmax o s
  | .aand o => Sys2Proof.Machine.execAand o s
  | .aor o => Sys2Proof.Machine.execAor o s
  | .axor o => Sys2Proof.Machine.execAxor o s
  | .axchg o => Sys2Proof.Machine.execAxchg o s
  | .acas o => Sys2Proof.Machine.execAcas o s
  | .afadd o => Sys2Proof.Machine.execAfadd o s
  | .pref o => Sys2Proof.Machine.execPref o s
  | .bounds o => Sys2Proof.Machine.execBounds o s
  | .achn o => Sys2Proof.Machine.execAchn o s
  | .acq o => Sys2Proof.Machine.execAcq o s
  | .acqs o => Sys2Proof.Machine.execAcqs o s
  | .rel o => Sys2Proof.Machine.execRel o s
  | .fence o => Sys2Proof.Machine.execFence o s
  | .waitv o => Sys2Proof.Machine.execWaitv o s
  | .notify o => Sys2Proof.Machine.execNotify o s
  | .park o => Sys2Proof.Machine.execPark o s
  | .bar o => Sys2Proof.Machine.execBar o s
  | .arrive o => Sys2Proof.Machine.execArrive o s
  | .taskdone o => Sys2Proof.Machine.execTaskdone o s
  | .launch o => Sys2Proof.Machine.execLaunch o s
  | .mload o => Sys2Proof.Machine.execMload o s
  | .mswap o => Sys2Proof.Machine.execMswap o s
  | .mstream o => Sys2Proof.Machine.execMstream o s
  | .mmode o => Sys2Proof.Machine.execMmode o s
  | .mdrain o => Sys2Proof.Machine.execMdrain o s
  | .mclr o => Sys2Proof.Machine.execMclr o s
  | .rptset o => Sys2Proof.Machine.execRptset o s
  | .rptend o => Sys2Proof.Machine.execRptend o s
  | .cpy o => Sys2Proof.Machine.execCpy o s
  | .cpyr o => Sys2Proof.Machine.execCpyr o s
  | .cpyg o => Sys2Proof.Machine.execCpyg o s
  | .cpys o => Sys2Proof.Machine.execCpys o s
  | .cpym o => Sys2Proof.Machine.execCpym o s
  | .publish o => Sys2Proof.Machine.execPublish o s
  | .freed o => Sys2Proof.Machine.execFreed o s
  | .coll o => Sys2Proof.Machine.execColl o s
  | .collarg o => Sys2Proof.Machine.execCollarg o s
  | .cpyq o => Sys2Proof.Machine.execCpyq o s
  | .sth o => Sys2Proof.Machine.execSth o s
  | .stm o => Sys2Proof.Machine.execStm o s
  | .stt o => Sys2Proof.Machine.execStt o s
  | .stfeed o => Sys2Proof.Machine.execStfeed o s
  | .collapse o => Sys2Proof.Machine.execCollapse o s
  | .accept o => Sys2Proof.Machine.execAccept o s
  | .gmask o => Sys2Proof.Machine.execGmask o s
  | .topn o => Sys2Proof.Machine.execTopn o s
  | .tokrec o => Sys2Proof.Machine.execTokrec o s
  | .hallmark o => Sys2Proof.Machine.execHallmark o s
  | .kvfind o => Sys2Proof.Machine.execKvfind o s
  | .kvins o => Sys2Proof.Machine.execKvins o s
  | .posadv o => Sys2Proof.Machine.execPosadv o s
  | .logrec o => Sys2Proof.Machine.execLogrec o s
  | .pqexp o => Sys2Proof.Machine.execPqexp o s
  | .trap o => Sys2Proof.Machine.execTrap o s
  | .brk o => Sys2Proof.Machine.execBrk o s
  | .rdsr o => Sys2Proof.Machine.execRdsr o s
  | .wrsr o => Sys2Proof.Machine.execWrsr o s
  | .probe o => Sys2Proof.Machine.execProbe o s
  | .tick o => Sys2Proof.Machine.execTick o s
  | .fret o => Sys2Proof.Machine.execFret o s
  | .yield o => Sys2Proof.Machine.execYield o s
  | .fireComplete f => Sys2Proof.Machine.execFireComplete f s
  | .tokenArrival e c => Sys2Proof.Machine.execTokenArrival e c s
  | .routeToken r p => Sys2Proof.Machine.execRouteToken r p s
  | .advanceWord r p => Sys2Proof.Machine.execAdvanceWord r p s
  | .swageRepack r p => Sys2Proof.Machine.execSwageRepack r p s
  | .feedDeliver e c => Sys2Proof.Machine.execFeedDeliver e c s
  | .sinkStore e c => Sys2Proof.Machine.execSinkStore e c s
  | .soloQuiet g => Sys2Proof.Machine.execSoloQuiet g s
  | .ebbDrain e c => Sys2Proof.Machine.execEbbDrain e c s
  | .elementDrained e => Sys2Proof.Machine.execElementDrained e s
  | .tileSwap t => Sys2Proof.Machine.execTileSwap t s
  | .haltComplete g => Sys2Proof.Machine.execHaltComplete g s
  | .qtailWrite q v => Sys2Proof.Machine.execQtailWrite q v s
  | .queueEnable q v => Sys2Proof.Machine.execQueueEnable q v s
  | .queueDisable q v => Sys2Proof.Machine.execQueueDisable q v s
  | .qstatClear q v => Sys2Proof.Machine.execQstatClear q v s
  | .launchDecode => Sys2Proof.Machine.execLaunchDecode s
  | .preloadRelease l => Sys2Proof.Machine.execPreloadRelease l s
  | .launchPlace l => Sys2Proof.Machine.execLaunchPlace l s
  | .coldLoadEnd l => Sys2Proof.Machine.execColdLoadEnd l s
  | .followOnLoad l => Sys2Proof.Machine.execFollowOnLoad l s
  | .invocationBoundary g => Sys2Proof.Machine.execInvocationBoundary g s
  | .launchComplete g => Sys2Proof.Machine.execLaunchComplete g s
  | .budgetExpiry g => Sys2Proof.Machine.execBudgetExpiry g s
  | .quiescentIncomplete g => Sys2Proof.Machine.execQuiescentIncomplete g s
  | .hang g => Sys2Proof.Machine.execHang g s
  | .addressTranslate a => Sys2Proof.Machine.execAddressTranslate a s
  | .faultHoldExpiry a => Sys2Proof.Machine.execFaultHoldExpiry a s
  | .xresolve v => Sys2Proof.Machine.execXresolve v s
  | .xinv v => Sys2Proof.Machine.execXinv v s
  | .xinvDone => Sys2Proof.Machine.execXinvDone s
  | .migrationStart v => Sys2Proof.Machine.execMigrationStart v s
  | .migrationCopy => Sys2Proof.Machine.execMigrationCopy s
  | .migrationDone => Sys2Proof.Machine.execMigrationDone s
  | .xmigstClear v => Sys2Proof.Machine.execXmigstClear v s
  | .xack v => Sys2Proof.Machine.execXack v s
  | .ringCountWrite off v => Sys2Proof.Machine.execRingCountWrite off v s
  | .registerWrite off v => Sys2Proof.Machine.execRegisterWrite off v s
  | .storeArrival a => Sys2Proof.Machine.execStoreArrival a s
  | .atomicPerform a => Sys2Proof.Machine.execAtomicPerform a s
  | .memoryReply a => Sys2Proof.Machine.execMemoryReply a s
  | .boundsLoaded a => Sys2Proof.Machine.execBoundsLoaded a s
  | .syncRequest a => Sys2Proof.Machine.execSyncRequest a s
  | .relUpdate a => Sys2Proof.Machine.execRelUpdate a s
  | .waitvTest a => Sys2Proof.Machine.execWaitvTest a s
  | .waitvRetry a => Sys2Proof.Machine.execWaitvRetry a s
  | .barrierOpen g l f => Sys2Proof.Machine.execBarrierOpen g l f s
  | .chainArrival a => Sys2Proof.Machine.execChainArrival a s
  | .chainRelease g c => Sys2Proof.Machine.execChainRelease g c s
  | .gapStall g c => Sys2Proof.Machine.execGapStall g c s
  | .eccRetry pa ok => Sys2Proof.Machine.execEccRetry pa ok s
  | .linkCrcRetry j ok => Sys2Proof.Machine.execLinkCrcRetry j ok s
  | .slotParityRefetch e k ok => Sys2Proof.Machine.execSlotParityRefetch e k ok s
  | .dataLost e => Sys2Proof.Machine.execDataLost e s
  | .unitCommandAccept f => Sys2Proof.Machine.execUnitCommandAccept f s
  | .weightLoadEnd n => Sys2Proof.Machine.execWeightLoadEnd n s
  | .planeSwap n => Sys2Proof.Machine.execPlaneSwap n s
  | .vectorStart n => Sys2Proof.Machine.execVectorStart n s
  | .rowWrite n => Sys2Proof.Machine.execRowWrite n s
  | .mdrainEmit n => Sys2Proof.Machine.execMdrainEmit n s
  | .repeatCapture n p => Sys2Proof.Machine.execRepeatCapture n p s
  | .spillReturn n => Sys2Proof.Machine.execSpillReturn n s
  | .copyCommandStart n => Sys2Proof.Machine.execCopyCommandStart n s
  | .copyTile n => Sys2Proof.Machine.execCopyTile n s
  | .copyComplete n => Sys2Proof.Machine.execCopyComplete n s
  | .retiredFramePost d => Sys2Proof.Machine.execRetiredFramePost d s
  | .collectiveRun d grp => Sys2Proof.Machine.execCollectiveRun d grp s
  | .collapseMaskGrant f => Sys2Proof.Machine.execCollapseMaskGrant f s
  | .collapseDeadline f => Sys2Proof.Machine.execCollapseDeadline f s
  | .cutStart g => Sys2Proof.Machine.execCutStart g s
  | .elementSnapshot e => Sys2Proof.Machine.execElementSnapshot e s
  | .inputClose e c => Sys2Proof.Machine.execInputClose e c s
  | .cutComplete g => Sys2Proof.Machine.execCutComplete g s
  | .faultDisposition rec disp => Sys2Proof.Machine.execFaultDisposition rec disp s
  | .preempt l => Sys2Proof.Machine.execPreempt l s
  | .restore l => Sys2Proof.Machine.execRestore l s
  | .clockGate t => Sys2Proof.Machine.execClockGate t s
  | .tileWake t => Sys2Proof.Machine.execTileWake t s
  | .controlStoreWrite e w => Sys2Proof.Machine.execControlStoreWrite e w s
  | .frrel v => Sys2Proof.Machine.execFrrel v s
  | .stopArm v => Sys2Proof.Machine.execStopArm v s
  | .stop => Sys2Proof.Machine.execStop s
  | .stopResume => Sys2Proof.Machine.execStopResume s
  | .dbgprobeGo v => Sys2Proof.Machine.execDbgprobeGo v s
  | .criticalPathWalk e => Sys2Proof.Machine.execCriticalPathWalk e s
  | .brkresContinue => Sys2Proof.Machine.execBrkresContinue s
  | .brkresAbort => Sys2Proof.Machine.execBrkresAbort s
  | .hostMemWrite pa bytes => Sys2Proof.Machine.execHostMemWrite pa bytes s
  | .hostMemRead pa n => Sys2Proof.Machine.execHostMemRead pa n s
  | .hostWindowAccess a => Sys2Proof.Machine.execHostWindowAccess a s
  | .coreAccess core c => Sys2Proof.Machine.execCoreAccess core c s
  | .coreAccessTimeout core => Sys2Proof.Machine.execCoreAccessTimeout core s
  | .coreWakeStore core w v => Sys2Proof.Machine.execCoreWakeStore core w v s
  | .coreAmo core c => Sys2Proof.Machine.execCoreAmo core c s
  | .flitCollectiveData j x => Sys2Proof.Machine.execFlitCollectiveData j x s
  | .flitTick j x => Sys2Proof.Machine.execFlitTick j x s
  | .flitControl j x => Sys2Proof.Machine.execFlitControl j x s
  | .flitNak j x => Sys2Proof.Machine.execFlitNak j x s
  | .tickMasterLoss => Sys2Proof.Machine.execTickMasterLoss s
  | .partitionRecovery d => Sys2Proof.Machine.execPartitionRecovery d s
  | .powerUp => Sys2Proof.Machine.execPowerUp s
  | .firmwareStage => Sys2Proof.Machine.execFirmwareStage s
  | .attestation => Sys2Proof.Machine.execAttestation s
  | .ringEnSet off v => Sys2Proof.Machine.execRingEnSet off v s
  | .powerGate t off => Sys2Proof.Machine.execPowerGate t off s
  | .flitIdle j x => Sys2Proof.Machine.execFlitIdle j x s
  | .reset => Sys2Proof.Machine.execReset s
  | .tickFlitSend => Sys2Proof.Machine.execTickFlitSend s

end Sys2Proof.Machine
end

