-- ==== Sys2Proof/Machine/Select.lean ====
section
/-! DEFINITION. Which step the machine takes next. A cycle has three parts (State.phase): what precedes the decisions (completions, arrivals,
accesses, units, the scheduler), the decision of each element, and the moves that follow them (routers, boundaries, detectors). Within a part
the first step in the order below that does something is taken; the manual gives no order within a cycle beyond the one its rules state. -/

namespace Sys2Proof.Machine

/-- A step of the machine's own. -/
abbrev Act := State → Host.Outcome State Fault Refusal

/-- The first act that changes the state or ends the run. [DESIGN CHOICE: log 8] -/
def firstAct (s : State) : List Act → Option (Host.Outcome State Fault Refusal)
  | [] => none
  | f :: r =>
    match f s with
    | .next t => if t = s then firstAct s r else some (.next t)
    | o => some o

/-! ## What comes from outside -/

/-- The steps that an input may hold. [DESIGN CHOICE: log 9] -/
def isInput (i : Instr) : Bool :=
  match i with
  | .qtailWrite _ _ | .queueEnable _ _ | .queueDisable _ _ | .qstatClear _ _ | .xresolve _ | .xinv _ | .migrationStart _ | .xmigstClear _ | .xack _
  | .ringCountWrite _ _ | .registerWrite _ _ | .eccRetry _ _ | .linkCrcRetry _ _ | .slotParityRefetch _ _ _ | .dataLost _ | .controlStoreWrite _ _
  | .frrel _ | .stopArm _ | .stopResume | .dbgprobeGo _ | .brkresContinue | .brkresAbort | .hostMemWrite _ _ | .hostMemRead _ _ | .coreAccess _ _
  | .coreWakeStore _ _ _ | .coreAmo _ _ | .flitCollectiveData _ _ | .flitTick _ _ | .flitControl _ _ | .flitNak _ _ | .flitIdle _ _
  | .partitionRecovery _ | .firmwareStage | .ringEnSet _ _ | .powerGate _ _ | .reset => true
  | _ => false

/-- The inputs that the host link and the management core bring while the package is stopped (R405). [DESIGN CHOICE: log 20] -/
def whileStopped (i : Instr) : Bool :=
  match i with
  | .qtailWrite _ _ | .queueEnable _ _ | .queueDisable _ _ | .qstatClear _ _ | .xresolve _ | .xinv _ | .migrationStart _ | .xmigstClear _ | .xack _
  | .ringCountWrite _ _ | .registerWrite _ _ | .controlStoreWrite _ _ | .frrel _ | .stopArm _ | .stopResume | .dbgprobeGo _ | .brkresContinue
  | .brkresAbort | .hostMemWrite _ _ | .hostMemRead _ _ | .firmwareStage | .ringEnSet _ _ | .reset => true
  | _ => false

/-- The inputs that may be taken now: those whose tick has come, or while the package is stopped those that still reach it. [DESIGN CHOICE: log 9, 20; DEDUCED: log 67] -/
def State.takes (s : State) (x : Nat × Instr) : Bool := if s.dbg.stopped then whileStopped x.2 else decide (x.1 ≤ s.tick)

/-- The first input that may be taken is taken. An input that holds no step from outside is dropped. [DESIGN CHOICE: log 9] -/
def State.input (s : State) : Option (Host.Outcome State Fault Refusal) :=
  match s.inputs.findIdx? s.takes with
  | none => none
  | some n =>
    let s1 := { s with inputs := s.inputs.eraseIdx n }
    match s.inputs[n]? with
    | some x => some (if isInput x.2 then exec x.2 s1 else .next s1)
    | none => none

/-! ## The machine's own steps by kind -/

/-- Fires that complete in this cycle: writes of FFLAGS by WRSR first, so that the flags of the other completions are not lost (R89). -/
def State.completions (s : State) : List Act :=
  let flagged := fun (f : Flight) => match f.instr with | .wrsr _ => f.a == 2 | _ => false
  ((s.flights.filter flagged) ++ s.flights.filter fun f => !flagged f).map fun f => execFireComplete f.id

/-- Channels: arrivals, feeds and sinks, and tokens that leave an output channel or a result port for their tile's router. -/
def State.channels (s : State) : List Act :=
  (s.elems.flatMap fun p => (List.range 4).map fun c => execTokenArrival p.1 c)
    ++ (s.elems.flatMap fun p => (List.range 4).flatMap fun c => [execFeedDeliver p.1 c, execSinkStore p.1 c])
    ++ s.tiles.flatMap fun p =>
      ((List.range 16).map fun i => execRouteToken (2 * p.1) (8 + i)) ++ ((List.range 8).map fun i => execRouteToken (2 * p.1 + 1) (24 + i))
        ++ [execRouteToken (2 * p.1 + 1) 48, execRouteToken (2 * p.1 + 1) 49]

/-- The next step of an access, by where it stands. -/
def Access.acts (a : Access) : List Act :=
  match a.stage with
  | .toOwner => [execAddressTranslate a.id]
  | .withheld _ _ => (match a.core with | some c => [execCoreAccessTimeout c] | none => [execFaultHoldExpiry a.id])
  | .toWeir _ | .atWeir _ => [execChainArrival a.id]
  | .toNode _ => [execStoreArrival a.id, execAtomicPerform a.id, execMemoryReply a.id, execBoundsLoaded a.id, execSyncRequest a.id, execRelUpdate a.id,
                  execWaitvTest a.id]
  | .queued _ => [execSyncRequest a.id, execRelUpdate a.id, execWaitvTest a.id]
  | .tested _ => [execWaitvRetry a.id]
  | .hostWindow _ => [execHostWindowAccess a.id]
  | .answered _ => [execMemoryReply a.id]
  | .migrating _ | .expired _ | .cut => []

/-- The share that bounds a request of a timed launch at a port it claims: its key, and the bytes that BWSHARE × 8 GB/s come to in 1 µs (R198). [DESIGN CHOICE: log 6] -/
def State.shareOf (s : State) (a : Access) : Option (Nat × Nat) :=
  match a.stage, a.core, s.region? a.region with
  | .toNode p, none, some g =>
    (match s.launch? g.launch with
      | some l => if l.lrec.timed && l.handler.isNone && isHbm p && (g.claimed 3).contains (portOf p) then some (64 * l.id + portOf p, 8000 * l.lrec.bwshare) else none
      | none => none)
  | _, _, _ => none

/-- The bytes of a share that have been served in the present window of 1 µs of the global tick (R198). [DESIGN CHOICE: log 6] -/
def State.shareUsed (s : State) (k : Nat) : Nat :=
  match tget? s.shares k with | some (w, n) => if w = s.tick / Config.ticksPerMicro then n else 0 | none => 0

/-- A request is within the share that its launch has of its port, or none bounds it (R198). [DESIGN CHOICE: log 6] -/
def State.inShare (s : State) (a : Access) : Bool := match s.shareOf a with | some (k, n) => decide (s.shareUsed k + a.size ≤ n) | none => true

/-- The class of the launch that owns the region of an access, 2 beyond its share of a port (R198); a core's, which has none, counts as class 3 (R195). [DESIGN CHOICE: log 8] -/
def State.accessClass (s : State) (a : Access) : Nat :=
  if a.core.isSome then 3 else match s.region? a.region with | some g => if s.inShare a then min g.cls 3 else 2 | none => 3

/-- The shares after a request has been served: one within its launch's share counts in the present window (R198). [DESIGN CHOICE: log 6] -/
def State.shared (s : State) (a : Access) : Table (Nat × Nat) :=
  let w := s.tick / Config.ticksPerMicro
  match s.shareOf a with
  | some (k, _) => if s.inShare a then tput (s.shares.filter fun x => x.2.1 == w) k (w, s.shareUsed k + a.size) else s.shares
  | none => s.shares

/-- What an access asks to serve it: the slice that owns its page, or the port or slice of memory at its node (R195). -/
def State.server (s : State) (a : Access) : Option Nat :=
  match a.stage with
  | .toOwner => let o := s.owner a.va; some (2 ^ 40 + 64 * o.1 + o.2)
  | .toNode p => some (if isHbm p then portOf p else 2 ^ 20 + paTile p)
  | _ => none

/-- Who makes a request: an element, or a core. -/
def Access.requester (a : Access) : Nat := match a.core with | some c => 2 ^ 24 + c | none => a.elem

/-- How far an access's requester stands behind the one that its server has served last (R195). [DESIGN CHOICE: log 8] -/
def State.turnOf (s : State) (a : Access) : Nat :=
  match s.server a with
  | some k => (a.requester + 2 ^ 25 - tget s.turns k (2 ^ 25 - 1) - 1) % 2 ^ 25
  | none => 0

/-- A request among others in rotating order, behind those that share its turn. -/
def insertTurn {α : Type} (x : Nat × α) : List (Nat × α) → List (Nat × α)
  | [] => [x]
  | y :: r => if x.1 < y.1 then x :: y :: r else y :: insertTurn x r

/-- The accesses in the order in which owners, ports and slices serve them: the lowest class number first, within a class the requesters in rotating
order, each one's as they were issued (R195). [DESIGN CHOICE: log 8] -/
def State.served (s : State) : List Access :=
  (List.range 4).flatMap fun c =>
    (((s.accesses.filter fun a => s.accessClass a == c).foldl (fun l a => insertTurn (s.turnOf a, a) l) []).map (·.2))

/-- The steps of an access; one that is served has had its requester's turn, and counts in its launch's share (R195, R198). [DESIGN CHOICE: log 8] -/
def State.serveAccess (s : State) (a : Access) : List Act :=
  match s.server a with
  | none => a.acts
  | some k => a.acts.map fun f => fun t => match f t with
    | .next u => if u = t then .next t else .next { u with turns := tput u.turns k a.requester, shares := t.shared a }
    | o => o

/-- Memory: accesses, chains, barriers, invalidation and migration. -/
def State.memorySteps (s : State) : List Act :=
  (s.served.flatMap s.serveAccess) ++ (s.chains.flatMap fun x => [execChainRelease x.region x.id, execGapStall x.region x.id])
    ++ (s.flights.filterMap fun f => match f.wait with | .bar l _ => some (execBarrierOpen f.region l f.id) | _ => none)
    ++ [execXinvDone, execMigrationCopy, execMigrationDone]

/-- What may ask a die's frame pool for a frame (R312): a copy engine or a collective, with its class, its die, the number under which it takes its turns,
and its step. -/
structure PoolUser where
  cls : Nat
  die : Nat
  num : Nat
  act : Act

/-- The copy engines and collectives, an engine at the class of the command whose tile it moves next, a collective at the lowest of its participants'
(R195, R305). -/
def State.poolUsers (s : State) : List PoolUser :=
  (s.engines.map fun p =>
      { cls := ((p.2.ordered.find? fun r => r.open && !s.holdsUnit r.cmd.fire).map fun r => min r.cmd.cls 3).getD 3, die := p.1 / 8, num := p.1, act := execCopyTile p.1 })
    ++ s.colls.flatMap fun p => ((p.2.map (·.group)).eraseDups).map fun g =>
      { cls := ((p.2.filter fun q => q.group == g && !q.remote).map (·.cmd.cls)).foldl min 3, die := p.1, num := 32 + g, act := execCollectiveRun p.1 g }

/-- The key of a die's frame pool among those that serve in turn. [DESIGN CHOICE: log 8] -/
def poolKey (d : Nat) : Nat := 2 ^ 41 + d

/-- A step that may take a frame; where it has, its unit has had its turn at the pool (R195). [DESIGN CHOICE: log 8] -/
def PoolUser.step (x : PoolUser) : Act := fun t => match x.act t with
  | .next u => if (u.frame x.die).fp.head = (t.frame x.die).fp.head then .next u else .next { u with turns := tput u.turns (poolKey x.die) x.num }
  | o => o

/-- The tiles of the copy engines and the steps of the collectives, in the order in which the frame pools serve them: the lowest class number first, within
a class in rotating order (R195). [DESIGN CHOICE: log 8] -/
def State.poolSteps (s : State) : List Act :=
  let l := s.poolUsers
  let turn := fun (x : PoolUser) => (x.num + 2 ^ 64 - tget s.turns (poolKey x.die) (2 ^ 64 - 1) - 1) % 2 ^ 64
  (List.range 4).flatMap fun c => (((l.filter fun x => x.cls == c).foldl (fun acc x => insertTurn (turn x, x) acc) []).map fun y => y.2.step)

/-- Units: commands, matrix nodes, copy engines, collectives, sequences. -/
def State.unitSteps (s : State) : List Act :=
  (s.flights.filterMap fun f => match f.wait with | .unitSend _ => some (execUnitCommandAccept f.id) | _ => none)
    ++ (s.nodes.flatMap fun p => [execRowWrite p.1, execVectorStart p.1, execMdrainEmit p.1, execWeightLoadEnd p.1, execPlaneSwap p.1]
          ++ (List.range 4).map fun q => execRepeatCapture p.1 q)
    ++ (s.engines.flatMap fun p => [execSpillReturn p.1, execCopyCommandStart p.1]) ++ s.poolSteps ++ (s.engines.map fun p => execCopyComplete p.1)
    ++ (s.frames.map fun p => execRetiredFramePost p.1)
    ++ s.flights.flatMap fun f => match f.wait with | .mask _ _ _ _ => [execCollapseMaskGrant f.id, execCollapseDeadline f.id] | _ => []

/-- The walks of the debugger and of PROBE: an element's first goes before its tile swaps. -/
def State.walkSteps (s : State) : List Act := s.elems.filterMap fun p => if !p.2.walks.isEmpty then some (execCriticalPathWalk p.1) else none

/-- Loads, walks, the ebb and the swap. A load ends before the tiles it serves swap. -/
def State.swapSteps (s : State) : List Act :=
  (s.launches.map fun l => execColdLoadEnd l.id)
    ++ s.walkSteps ++ (s.elems.flatMap fun p => ((List.range 4).map fun c => execEbbDrain p.1 c) ++ [execElementDrained p.1])
    ++ (s.tiles.map fun p => execTileSwap p.1) ++ (s.launches.map fun l => execFollowOnLoad l.id)
    ++ (s.regions.filter s.injectReady).map fun g => execInvocationBoundary g.id

/-- Cuts and dispositions. -/
def State.faultSteps (s : State) : List Act :=
  (s.regions.map fun g => execCutStart g.id)
    ++ (s.elems.flatMap fun p => [execElementSnapshot p.1] ++ (List.range 4).map fun c => execInputClose p.1 c)
    ++ (s.nodes.map fun p => execElementSnapshot (elemKey (nodeTile p.1) 6)) ++ (s.regions.map fun g => execCutComplete g.id)
    ++ s.faults.records.flatMap fun r => (List.range 3).map fun d => execFaultDisposition r.id d

/-- The place of a READY launch in the scheduler's order: lowest class number first, a PRELOAD as class 1, then the tick since which it is READY
(R196, R201). -/
def Launch.rank (l : Launch) : Nat × Nat :=
  (if l.lrec.preload || l.handler.isSome then 1 else l.lrec.cls, match l.state with | .ready t => t | _ => 0)

/-- Launches in the scheduler's order, those of equal rank in the order in which they were accepted. -/
def insertLaunch (l : Launch) : List Launch → List Launch
  | [] => [l]
  | m :: r =>
    if l.rank.1 < m.rank.1 || (l.rank.1 == m.rank.1 && decide (l.rank.2 < m.rank.2)) then l :: m :: r else m :: insertLaunch l r
def State.inOrder_ (s : State) : List Launch := s.launches.foldl (fun acc l => insertLaunch l acc) []

/-- The scheduler: HALT and BUDGET, the decoder, placements and restores, pre-emption. -/
def State.schedulerSteps (s : State) : List Act :=
  (s.regions.flatMap fun g => [execHaltComplete g.id, execBudgetExpiry g.id])
    ++ [execLaunchDecode] ++ (s.launches.map fun l => execPreloadRelease l.id)
    ++ (s.inOrder_.flatMap fun l => [execLaunchPlace l.id, execRestore l.id]) ++ s.launches.map fun l => execPreempt l.id

/-- The debugger's walks, clock gates, the partition's tick and its recoveries. -/
def State.sideSteps (s : State) : List Act :=
  s.walkSteps ++ (s.tiles.map fun p => execTileWake p.1) ++ [execTickMasterLoss, execTickFlitSend] ++ (s.part.fencedDevs.take 1).map execPartitionRecovery

/-- The homes test the words of the WAITVs they keep before anything else happens, so that each write of a step is seen (R266). [DEDUCED: log 74] -/
def State.waitTests (s : State) : List Act :=
  s.accesses.filterMap fun a => match a.stage, a.kind with | .queued _, .waitv => some (execWaitvTest a.id) | _, _ => none

/-- What precedes the decisions of a cycle. [DESIGN CHOICE: log 8] -/
def State.early (s : State) : List Act :=
  s.waitTests ++ s.completions ++ s.channels ++ s.memorySteps ++ s.unitSteps ++ s.swapSteps ++ s.faultSteps ++ s.schedulerSteps ++ s.sideSteps

/-- What follows the decisions of a cycle. [DESIGN CHOICE: log 8] -/
def State.late (s : State) : List Act :=
  s.waitTests ++ (s.tiles.flatMap fun p => [0, 1].flatMap fun w => (List.range 5).flatMap fun q => [execAdvanceWord (2 * p.1 + w) q, execRouteToken (2 * p.1 + w) q])
    ++ (s.swages.map fun k => execSwageRepack (2 * (k.1 / 64 / 8) + 1) (k.1 / 64 % 8))
    ++ (s.regions.flatMap fun g => [execInvocationBoundary g.id, execLaunchComplete g.id, execSoloQuiet g.id, execQuiescentIncomplete g.id, execHang g.id])
    ++ (s.tiles.map fun p => execClockGate p.1) ++ [execAttestation]

/-! ## Decisions (R21) -/

/-- The element that decides next in this cycle, with its context and slot: the lowest that has an eligible fire. -/
def State.decider (s : State) : Option Cursor :=
  s.elems.findSome? fun p => (s.choose p.1).map fun q => { elem := p.1, ctx := q.1, slot := q.2 }

/-- A context after a cycle in which its element has decided no fire: the fairness counter of a slot that was not eligible is 0 (R22). -/
def Ctx.rest (c : Ctx) (met : Nat → Bool) : Ctx :=
  let keep := fun (j : Nat) => c.fair.getD j 0 != 0 && met j
  { c with fair := (List.range 16).map fun j => if keep j then c.fair.getD j 0 else 0, aged := c.aged.filter keep }

/-- An element has decided a fire in cycle t that has not trapped: its last note says so (R403). -/
def Elem.firedAt (x : Elem) (t : Nat) : Bool := x.notes.getLast?.any fun n => n.tick == t

/-- The decisions of the cycle are over. An element that has decided none, be it that its decision trapped, that a slot word is fetched again or that
its region stands frozen, keeps the fairness counters of the slots that meet the conditions of R20 (R22). [DEDUCED: log 75] -/
def State.rest (s : State) : State :=
  { s with phase := 2
           elems := s.elems.map fun (p : Nat × Elem) =>
             (p.1, if !p.2.firedAt s.tick then { p.2 with ctxs := p.2.ctxs.mapIdx fun k (c : Ctx) => c.rest (s.slotMet p.1 k) } else p.2) }

/-- The fire of an element, context and slot. -/
def State.decideAt (s : State) (c : Cursor) : Host.Outcome State Fault Refusal :=
  match s.slotInstr c.elem c.slot with
  | some i => exec i { s with cursor := c }
  | none => .next s.rest

/-! ## The end of a cycle -/

/-- Element-cycles with an enabled context and no fire, over traced regions (R407). -/
def State.idleElems (s : State) : Nat :=
  (s.elems.filter fun p => p.2.loaded && p.2.active.ctxen != 0 && p.2.decided != s.tick + 1
    && (match p.2.region with | some g => s.traced g | none => false)).length

/-- Output o of router r, by which nothing has left in this cycle, has no room for token k (R160). -/
def State.noRoom (s : State) (r : Nat) (k : RToken) (o : Nat) : Bool :=
  let t := r / 2
  tget (s.router r).sent o 0 != s.tick + 1 &&
  (if o < 4 then
    match neighbour t o with
    | some (u, p) =>
      if s.boundary t u then decide (4 ≤ (tget s.swages (swageKey u p k.rtag) {}).inq.length) else decide (4 ≤ s.portLoad (2 * u + r % 2) p)
    | none => false
  else if o < 40 then !((s.elem (elemKey t ((o - 8) / 4))).in_ ((o - 8) % 4)).roomNext
  else !s.unitRoom t (o - 40))

/-- The tokens of a router that a link holds in this cycle for lack of room at its far end: those in its ports, and those in output channels and result
ports that wait for its local port, and those in swage nodes beyond it that wait for a far port (R160, R169, R407). -/
def State.linkHeld (s : State) (r : Nat) : Nat :=
  let ports := (List.range 5).flatMap fun q => ((s.router r).port q).buf.filter fun k =>
    decide (k.ready ≤ s.tick) && (match (s.router r).outputs q k.rtag with | some os => os.any (s.noRoom r k) | none => false)
  let outs := (List.range 16).map (8 + ·) ++ (List.range 8).map (24 + ·) ++ [48, 49]
  let sources := outs.filter fun p => (40 ≤ p || (isWide (elemKey (r / 2) ((p - 8) / 4))) == (r % 2 == 1)) && (s.sourceTag r p).isSome
    && (s.sourceToken r p).isSome && decide (4 ≤ s.portLoad r 4) && tget (s.router r).sent (100 + p) 0 != s.tick + 1
  let swaged := (List.range 4).flatMap fun o => match neighbour (r / 2) o with
    | some (u, p) => if r % 2 = 1 && s.boundary (r / 2) u && decide (4 ≤ s.portLoad (2 * u + 1) p) then
        (List.range 64).flatMap fun g => let w := tget s.swages (swageKey u p g) {}; (w.outq ++ w.inq).filter fun k => decide (k.ready ≤ s.tick)
      else []
    | none => []
  ports.length + sources.length + swaged.length

/-- Tokens held at a link in this cycle for lack of room, over traced regions (R407). -/
def State.heldTokens (s : State) : Nat :=
  ((s.tiles.filter fun p => match p.2.region with | some g => s.traced g | none => false).map fun p => s.linkHeld (2 * p.1) + s.linkHeld (2 * p.1 + 1)).foldl (· + ·) 0

/-- The next cycle begins: entries that have left channels in this one are free. [DEDUCED: log 16] -/
def State.tickOver (s : State) : State :=
  let s1 := if s.dbg.trcfg.getLsbD 0 then (s.perf 1 s.idleElems).perf 2 s.heldTokens else s
  { s1 with tick := s.tick + 1, phase := 0
            elems := s1.elems.map fun (p : Nat × Elem) => (p.1, { p.2 with ins := p.2.ins.map InCh.turn, outs := p.2.outs.map OutCh.turn }) }

/-! ## One word, ready to be decided -/

/-- A plane that holds one operation word, valid in slot 0 of context c0. [DEDUCED: log 7] -/
def onePlane (w : Word32) : Plane := { slots := { op := w, upd := 1 } :: List.replicate 15 {}, ctxen := 1, repl := tableWide w }

/-- The machine with one operation word where its next step decides it: in the first element of its kind of tile (0, 0), alone on the tile, in
a region that runs. [DEDUCED: log 7] -/
def State.holding (s : State) (w : Word32) : State :=
  let e := elemKey 0 (if tableWide w then 4 else 0)
  let g := s.ids
  { s.newId with
    phase := 1
    dbg := { s.dbg with stopped := false }
    regions := s.regions ++ [{ id := g, hdr := {}, live := true, started := 1, ext := [] }]
    tiles := tput s.tiles 0 { region := some g }
    flights := s.flights.filter fun f => decide (8 ≤ f.elem)
    elems := (e, { active := onePlane w, loaded := true, region := some g }) :: s.elems.filter fun p => decide (8 ≤ p.1) }

/-! ## The three parts of a cycle -/

/-- The first part: power-up, the stop, what comes from outside, then the machine's own steps. [DESIGN CHOICE: log 8; DEDUCED: log 67] -/
def State.stepEarly (s : State) : Host.Outcome State Fault Refusal :=
  match firstAct s [execPowerUp, execStop] with
  | some o => o
  | none =>
    match s.input with
    | some o => o
    | none =>
      if s.dbg.stopped then (firstAct s (s.sideSteps ++ [execAttestation])).getD (.next s)
      else (firstAct s s.early).getD (.next { s with phase := 1 })

/-- The second part: one element decides its fire. -/
def State.stepDecide (s : State) : Host.Outcome State Fault Refusal :=
  match s.decider with
  | some c => s.decideAt c
  | none => .next s.rest

/-- The third part: moves, boundaries, detectors; then the cycle ends. -/
def State.stepLate (s : State) : Host.Outcome State Fault Refusal := (firstAct s s.late).getD (.next s.tickOver)

end Sys2Proof.Machine
end

