-- ==== Sys2Proof/Machine/Step.lean ====
section
/-! DEFINITION. The step of the machine, and the placing of one operation word where the next step decides it. -/

namespace Sys2Proof.Machine

/-- One step of the machine: the next step of the part of the cycle it is in. -/
def step (s : State) : Host.Outcome State Fault Refusal :=
  match s.phase with
  | 0 => s.stepEarly
  | 1 => s.stepDecide
  | _ => s.stepLate

/-- The state in which the next step decides an operation word: element n0 of tile (0, 0), or w0 where the opcode stands in wide elements only,
holds it in slot 0 of its active plane, valid, with a trigger word of zero and context c0 enabled, in a region of one tile that runs; it is the
turn of the decisions. This stands for the load of a configuration image that holds the word (R66, R181). [DEDUCED: log 7] -/
def State.withFetchWord (s : State) (_nbits w : Nat) : State := s.holding (BitVec.ofNat 32 w)

end Sys2Proof.Machine
end

