-- ==== Sys2Proof/Safety.lean ====
section
/-! DEFINITION. What counts as a safe run, and the words in which claims are stated: what a step answers, which fire is decided, what a value
holds lane by lane. -/

namespace Sys2Proof.Safety

open Sys2Proof.Machine

/-! ## Runs -/

/-- A step keeps a property: from a state that has it, a next state has it. -/
def Kept (p : State → Prop) : Prop := ∀ s t : State, p s → step s = .next t → p t

/-- A state is safe for a fault reason: its step does not end with it. -/
def Avoids (r : Fault) (s : State) : Prop := step s ≠ .fault r

/-- Memory is in its canonical form. -/
def MemoryCanonical (s : State) : Prop := memWf s.mem

/-! ## What an instruction does -/

/-- Instruction i answers a next state with property p. -/
def Answers (i : Instr) (s : State) (p : State → Prop) : Prop := ∃ t, exec i s = .next t ∧ p t

/-- Instruction i stands at the cursor of s in the surroundings v, and its element decides it now: it is eligible (R20), and the element has
decided no fire in this cycle (R21). -/
def Decides (i : Instr) (s : State) (v : Env) : Prop := s.env i = some v ∧ v.ready = true

/-- Instruction i at the cursor is decided and goes with the effect g: the next state is the one of the atomic step of R24. -/
def Goes (i : Instr) (s : State) (v : Env) (g : Go) : Prop := exec i s = .next (v.commit g)

/-- Instruction i at the cursor is decided and traps (R27), with the detail, lane and address of its record. -/
def Traps (i : Instr) (s : State) (v : Env) (t : Trap) (detail lane addr : Nat) : Prop :=
  exec i s = .next (v.trapped t detail lane addr)

/-- The bytes of the trace-ring slot that one trace record would take (R400). -/
def traceSlot (s : State) (a : Nat) : Prop :=
  s.dbg.trcfg.toNat.testBit 0 = true ∧
    let b := s.dbg.trbase.toNat + 32 * (s.dbg.trtail % 2 ^ bits s.dbg.trcfg.toNat 5 1)
    b ≤ a ∧ a < b + 32

/-- Every byte of memory outside a set reads the same in two states. -/
def SameMemory (s t : State) (but : Nat → Prop) : Prop := ∀ a, ¬ but a → memGet t.mem a = memGet s.mem a

/-- A byte of memory that belongs to a sync object whose queue holds a waiter: a write of it may be answered by further writes (R263). -/
def Served (s : State) (a : Nat) : Prop := ∃ q ∈ s.sync, q.waiters ≠ [] ∧ q.pa ≤ a ∧ a < q.pa + 8

/-- No WAITV waits at a home, and no sync object has a waiter: no write is answered (R263, R266). -/
def NoWaiters (s : State) : Prop := s.waitv = [] ∧ ∀ q ∈ s.sync, q.waiters = []

/-- The held stores of two states are the same but for the bytes that a write has superseded (R281, R284). -/
def SameHeld (s t : State) : Prop := (t.held.map fun h => { h with dead := [] }) = s.held.map fun h => { h with dead := [] }

/-! ## What a value holds -/

/-- Lane l of width n of a value. -/
def lane (x : Val) (n l : Nat) : BitVec n := x.bits.extractLsb' (n * l) n

/-- Value r holds k lanes of width n, lane l being f l, zero above them, under a format code, with the count of R72. -/
def IsLanes (wide : Bool) (n fmt k : Nat) (f : Nat → BitVec n) (r : Val) : Prop :=
  (∀ l < k, lane r n l = f l) ∧ r.bits.toNat < 2 ^ (n * k) ∧ r.fmt = fmt ∧ r.vl = (if wide = true ∧ k < laneCount n then k else 0)

/-- Value r is value x as a fire that moves it writes it: its code and count, and its bits up to the end of its lane, or in a wide element of its
valid lanes, zero above them (R71, R72, R97, R104). -/
def IsMoved (wide : Bool) (x r : Val) : Prop :=
  r.fmt = x.fmt ∧ r.vl = x.vl ∧ r.bits.toNat = x.bits.toNat %
    2 ^ (if wide = true then
      (let all := if laneBits x.fmt = 6 then 504 else 512
       if x.vl = 0 then all else min all (x.vl * laneBits x.fmt))
    else laneBits x.fmt)

/-- Value r is a 64-bit result x under a format code: in a wide element it stands in lane 0 with a count of 1 (R108, R112, R208). -/
def IsScalar (wide : Bool) (fmt : Nat) (x : Word) (r : Val) : Prop :=
  r.bits.toNat = x.toNat ∧ r.fmt = fmt ∧ r.vl = (if wide = true then 1 else 0)

/-- An integer instruction with its latency by lane width writes `f` of its lanes to DST1 and DST2 and has the predicate result that some
valid lane meets `c` (R96 to R100); `two` says that B is a source. -/
def IntResult (mk : Op → Instr) (two : Bool) (lat : Nat → Nat) (f : (n : Nat) → BitVec n → BitVec n → BitVec n → BitVec n)
    (c : (n : Nat) → BitVec n → BitVec n → Prop) : Prop :=
  ∀ (o : Op) (s : State) (v : Env), Decides (mk o) s v →
    let n := intWidth o.mode.val
    let k := validOf v.wide n (if two then [v.a, v.b] else [v.a])
    ∃ r p, Goes (mk o) s v { lat := lat n, d1 := some r, d2 := some r, pred := p } ∧
      IsLanes v.wide n (intFmt v.a.fmt n) k (fun l => f n (lane v.a n l) (lane v.b n l) (lane v.old n l)) r ∧
      (p = true ↔ ∃ l < k, c n (lane v.a n l) (lane v.b n l))

/-- The latency of a division in cycles by lane width (R114). -/
def divisionLatency (n : Nat) : Nat := if n = 64 then 24 else if n = 32 then 16 else if n = 16 then 10 else 8

/-- An instruction on 64-bit lanes with its own format code (R115, R122). -/
def FixedResult (mk : Op → Instr) (two : Bool) (lat fmt : Nat) (f : Word → Word → Word) : Prop :=
  ∀ (o : Op) (s : State) (v : Env), Decides (mk o) s v →
    ∃ r, Goes (mk o) s v { lat := lat, d1 := some r, d2 := some r } ∧
      IsLanes v.wide 64 fmt (validOf v.wide 64 (if two then [v.a, v.b] else [v.a])) (fun l => f (lane v.a 64 l) (lane v.b 64 l)) r

/-- Value r is one lane x of width n in lane 0 with a count of 1 (R148 to R152). -/
def IsLane0 (n fmt : Nat) (x : BitVec n) (r : Val) : Prop := r.bits.toNat = x.toNat ∧ r.fmt = fmt ∧ r.vl = 1

/-- The flags of the lanes below k, ORed together (R89). -/
def flagsOver (k : Nat) (f : Nat → Flags) : Flags := (List.range k).foldr (fun l acc => f l ||| acc) 0

/-- Source x carries the operation format or RAW (R124). -/
def Carries (fmt : Nat) (x : Val) : Prop := x.fmt = fmt ∨ x.fmt = 0

/-- A float lane instruction: where the operation format is FP32, BF16 or FP16 and each source carries it or RAW, it writes `f` of its lanes with
the flags of its valid lanes and, as predicate result, whether some valid lane meets `c`; elsewhere it traps BAD_FORMAT (R124, R125). `two`
and `three` say that B and the old value of DST1 are sources, `out` gives the code of the result. -/
def FloatResult (mk : Op → Instr) (two three : Bool) (lat : Nat) (out : Nat → Nat) (f : Rm → Nat → Nat → Nat → Nat → Nat × Flags)
    (c : Nat → Nat → Nat → Prop) : Prop :=
  ∀ (o : Op) (s : State) (v : Env), Decides (mk o) s v →
    let fmt := opFormat o.mode.val v.a.fmt
    let w := laneBits fmt
    let k := validOf v.wide w (if two then [v.a, v.b] else [v.a])
    let at_ := fun (l : Nat) => f v.rm fmt (lane v.a w l).toNat (lane v.b w l).toNat (lane v.old w l).toNat
    let good := fmt ∈ [7, 8, 9] ∧ Carries fmt v.a ∧ (two = true → Carries fmt v.b) ∧ (three = true → Carries fmt v.old)
    (good → ∃ r p, Goes (mk o) s v { lat := lat, d1 := some r, d2 := some r, pred := p, flags := flagsOver k fun l => (at_ l).2 } ∧
      IsLanes v.wide w (out fmt) k (fun l => BitVec.ofNat w (at_ l).1) r ∧
      (p = true ↔ ∃ l < k, c fmt (lane v.a w l).toNat (lane v.b w l).toNat)) ∧
    (¬ good → Traps (mk o) s v .badFormat 0 0 0)

/-- A conversion of A's lanes into the target code (R138, R139): where the source code is accepted, lane l of the result is `f` of lane l. -/
def ConvResult (mk : Op → Instr) (lat : Nat) (ok : Nat → Prop) (f : Env → Nat → Nat → Nat → Nat × Flags) : Prop :=
  ∀ (o : Op) (s : State) (v : Env), Decides (mk o) s v →
    let t := o.tact.val
    let w := laneBits v.a.fmt
    let k := min (convValid v.wide v.a) (convLanes v.wide t)
    let at_ := fun (l : Nat) => f v v.a.fmt (lane v.a w l).toNat l
    (ok v.a.fmt → ∃ r, Goes (mk o) s v { lat := lat, d1 := some r, d2 := some r, flags := flagsOver k fun l => (at_ l).2 } ∧
      IsLanes v.wide (laneBits t) t k (fun l => BitVec.ofNat (laneBits t) (at_ l).1) r) ∧
    (¬ ok v.a.fmt → Traps (mk o) s v .badFormat 0 0 0)

/-! ## Accesses -/

/-- Instruction i at the cursor is decided with effect g and sends one access, of a kind, address, size and data, with a chain link or none, on
its way to the owner of its page; nothing else changes beyond the decision (R234, R252, R267). -/
def Issues (i : Instr) (s : State) (v : Env) (g : Go) (kind : AccKind) (va size : Nat) (wr : Bool) (data : LinkWord) (link : Option Link) : Prop :=
  Answers i s fun t =>
    (∃ a : Access, t.accesses = s.accesses ++ [a] ∧ a.kind = kind ∧ a.va = va ∧ a.size = size ∧ a.wr = wr ∧ a.data = data ∧ a.link = link ∧
      a.stage = .toOwner ∧ a.fire = s.ids ∧ a.elem = v.e ∧ a.ctx = v.k ∧ a.slot = v.j ∧ a.region = v.g.id ∧ a.inv = v.c.inv ∧ a.core = none ∧
      s.tick < a.due) ∧
    t.flights = (v.commit g).flights ∧ t.elems = (v.commit g).elems ∧ t.mem = (v.commit g).mem ∧ t.held = (v.commit g).held ∧ t.regions = (v.commit g).regions

/-- The address operand of a translated access is sound: below 2^57, a multiple of its size, and admitted by the bounds records (R251, R260). -/
def Sound (v : Env) (size : Nat) (need : Need) : Prop :=
  v.a.n64 < 2 ^ 57 ∧ v.a.n64 % size = 0 ∧ v.boundsTrap v.a.n64 size need = none

/-- An element has its four input channels, four output channels and four contexts of sixteen registers (R12). -/
def Shaped (x : Elem) : Prop := x.ins.length = 4 ∧ x.outs.length = 4 ∧ x.ctxs.length = 4 ∧ ∀ c ∈ x.ctxs, c.regs.length = 16

/-- Every element has its shape. -/
def ElementsShaped (s : State) : Prop := ∀ p ∈ s.elems, Shaped p.2

/-- The special registers (R209, R211): what each number reads as. -/
def specialRegister (s : State) (e k n : Nat) : Option Word :=
  let c := s.ctx e k
  if n = 0 then some (c.wv.setWidth 64) else if n = 1 then some c.frm else if n = 2 then some c.fflags else if n = 3 then some (s.ctxid e k)
  else if n = 4 then some (s.elemid e) else if n = 5 then some (BitVec.ofNat 64 s.tick) else if n = 6 then some c.seqid else if n = 7 then some c.rngseed
  else if n = 8 then some c.rngpos else if n = 9 then some c.spmap else if n = 10 then some c.faultinfo
  else if 16 ≤ n ∧ n < 24 then some (BitVec.ofNat 64 (c.ivec.getD (n - 16) 0 % 2 ^ 16)) else none

/-- A command of a fire is sent to a unit, named by 256 × kind + index (R322). -/
def SendsTo (i : Instr) (s : State) (v : Env) (u : Nat) : Prop := Goes i s v { pred := true, wait := .unitSend u }

/-- A number with its sign set. -/
def withSign (n : Bool) : Machine.Num → Machine.Num
  | .inf _ => .inf n
  | .fin _ m e => .fin n m e
  | .nan s => .nan s

/-- The rational value of an exact number that is finite. -/
def ratOf : Machine.Num → ℚ
  | .fin neg m e => (if neg then -1 else 1) * (m : ℚ) * (2 : ℚ) ^ e
  | _ => 0

end Sys2Proof.Safety
end

