-- ==== Sys2Proof/Certificates/Slice0/Obligations.lean ====
section
/-! DEFINITION. The statements for the provers. -/

open Sys2Proof Sys2Proof.Machine Sys2Proof.Safety

/-! ## The words and the decoder -/

/-- A step of a decision runs the decoded instruction: when the element whose turn it is holds in the chosen slot an operation word that decodes
to instruction i, the step of the machine is exec of i, the cursor naming that element, context and slot; when no element has an eligible
fire left, the decisions of the cycle end: nothing changes then but the part of the cycle and, in elements that have fired none in it, the
fairness counters and ages of slots that do not meet the conditions of R20, which become 0, while those of the others stay (R20, R21, R22, R53; that an
element whose decision trapped counts as one that has fired none is log 75). -/
def Obligations.StepRunsDecodedWord : Prop :=
  (∀ (s : State) (c : Cursor) (i : Instr), s.phase = 1 → s.decider = some c →
    let sl := (s.elem c.elem).active.slot c.slot
    sl.upd.toNat.testBit 0 = true →
    decode (isWide c.elem) (s.elem c.elem).active.repl (sl.upd.toNat.testBit 4) (sl.upd.toNat.testBit 3) sl.op = .ok i →
    step s = exec i { s with cursor := c }) ∧
  (∀ s : State, s.phase = 1 → s.decider = none →
    step s = .next s.rest ∧ s.rest = { s with phase := 2, elems := s.rest.elems } ∧
      ∀ e : Nat, ∃ l : List Ctx, s.rest.elem e = { s.elem e with ctxs := l } ∧
        ((∃ n : Note, (s.elem e).notes.getLast? = some n ∧ n.tick = s.tick) → l = (s.elem e).ctxs) ∧
        ((∀ n : Note, (s.elem e).notes.getLast? = some n → n.tick ≠ s.tick) → ∀ k : Nat, l[k]? = ((s.elem e).ctxs[k]?).map fun c =>
          let keep := fun (j : Nat) => c.fair.getD j 0 != 0 && s.slotMet e k j
          { c with fair := (List.range 16).map fun j => if keep j then c.fair.getD j 0 else 0, aged := c.aged.filter keep }))

/-- Words written out from the field table R53 and the opcode map R62 decode to the instructions they stand for; the XD1 bit adds 8 to a register
destination and is refused beside a channel. -/
def Obligations.DecodesWords : Prop :=
  decode false false false false 0x10020300 = .ok (.add ⟨.d 0, .head 0, .d 0, .none, 0, 0⟩) ∧
  decode false false true false 0x10020300 = .ok (.add ⟨.d 0, .head 0, .d 8, .none, 0, 0⟩) ∧
  decode true true false false 0x81452301 = .ok (.vredadd ⟨.head 0, .zero, .chan 0, .none, 0, 1⟩) ∧
  decode false false false false 0x902D2B01 = .ok (.ld ⟨.d 5, .zero, .chan 2, .none, 0, 1⟩) ∧
  decode false false true false 0x902D2B01 = .error .badUpd ∧
  decode false false false false 0xE4634F00 = .ok (.collapse ⟨.lit 0, .lit 1, .d 3, .none, 0, 0⟩) ∧
  decode true true false false 0xE4634F00 = .error .badKind

/-- Decoding an encoded instruction gives it back, every operand at every value the encoding admits (R53 to R62). -/
def Obligations.DecodeOfEncode : Prop :=
  ∀ (wide repl : Bool) (i : Instr) (w : Word32) (x1 x2 : Bool),
    i.wellFormed wide repl = true → encode i = some (w, x1, x2) → decode wide repl x1 x2 w = .ok i

/-- A word that decodes is the encoding of what it decodes to, which is well formed: no two words decode to one instruction, and no bit is
ignored (R53 to R62, R68). -/
def Obligations.EncodeOfDecode : Prop :=
  ∀ (wide repl x1 x2 : Bool) (w : Word32) (i : Instr),
    decode wide repl x1 x2 w = .ok i → i.wellFormed wide repl = true ∧ encode i = some (w, x1, x2)

/-- A word whose opcode no instruction has is refused as BAD_OP, whatever its other bits (R62, R68 check 6). -/
def Obligations.UnassignedOpcodeRefused : Prop :=
  ∀ (wide repl x1 x2 : Bool) (w : Word32),
    (∀ (i : Instr) (o : Op), i.parts ≠ some (bits w.toNat 31 24, o)) → decode wide repl x1 x2 w = .error .badOp

/-! ## Invariants and reset -/

/-- Every step of the machine keeps memory in its canonical form (log 3: the form is the model's own). -/
def Obligations.MemoryStaysCanonical : Prop := Kept MemoryCanonical

/-- What reset leaves (R408, R409): memory in its canonical form and every byte zero, READY and FAIL clear, no element loaded, no region, no
access, no fire in flight, the queues disabled. -/
def Obligations.ResetState : Prop :=
  MemoryCanonical State.reset ∧ (∀ a, memGet State.reset.mem a = 0) ∧ State.reset.tick = 0 ∧
    State.reset.mgmt.ready = false ∧ State.reset.mgmt.fail = 0 ∧ State.reset.elems = [] ∧ State.reset.regions = [] ∧
    State.reset.accesses = [] ∧ State.reset.flights = [] ∧ (∀ q, (State.reset.queue q).cfg = 0) ∧
    ∀ e k : Nat, (State.reset.ctx e k).fflags = 0 ∧ (State.reset.ctx e k).frm = 0

/-- What a store puts into memory is what is read back, byte by byte, and every other byte reads as before (R7, R254). Where a WAITV or a sync
object's queue waits on what is written, the homes answer it: memory keeps its form, and no byte outside the store and the served objects
changes (R263, R266). -/
def Obligations.StoredBytesReadBack : Prop :=
  ∀ (s : State) (pa : Nat) (b : List Byte), MemoryCanonical s →
    MemoryCanonical (s.perform pa b) ∧ (∀ n < b.length, memGet (s.perform pa b).mem (pa + n) = b.getD n 0) ∧
      SameMemory s (s.perform pa b) (fun a => pa ≤ a ∧ a < pa + b.length) ∧
    MemoryCanonical (s.putBytes pa b) ∧ SameMemory s (s.putBytes pa b) (fun a => (pa ≤ a ∧ a < pa + b.length) ∨ Served s a) ∧
    (NoWaiters s → s.putBytes pa b = s.perform pa b)

/-! ## The decision of a fire -/

/-- The atomic step of a fire that is decided and does not trap (R24), whatever its instruction's own effect g: the channels in DEQ lose their
heads and no other channel loses one; CLEAR and then SET apply to the predicates of its context; one entry is reserved in each destination
channel; the fire is in flight with its results, its destination registers await their writes, and no register has changed. -/
def Obligations.AtomicStep : Prop :=
  ∀ (i : Instr) (s : State) (v : Env) (g : Go), Decides i s v →
    let t := v.commit g
    let x := t.elem v.e
    (∀ n : Nat, ((x.ins[n]?).map (·.q)) = (v.x.ins[n]?).map fun c => if v.trig.testBit (1 + n) then c.q.tail else c.q) ∧
    (∀ n : Nat, ((x.outs[n]?).map (·.q)) = (v.x.outs[n]?).map fun c => if (opOuts v.o v.opc).contains n then c.q ++ [.rsv s.ids] else c.q) ∧
    (∀ n < 4, (x.ctx n).preds =
      if n = v.k then ((s.ctx v.e n).preds &&& ~~~(BitVec.ofNat 8 (bits v.upd 23 16))) ||| BitVec.ofNat 8 (bits v.upd 31 24)
      else (s.ctx v.e n).preds) ∧
    (∀ n < 4, (x.ctx n).regs = (s.ctx v.e n).regs) ∧
    (∃ f : Flight, t.flights = s.flights ++ [f] ∧ f.id = s.ids ∧ f.elem = v.e ∧ f.ctx = v.k ∧ f.instr = i ∧ f.decided = s.tick ∧
      f.res.d1 = g.d1 ∧ f.res.d2 = g.d2 ∧ f.res.pred = g.pred ∧ f.res.flags = g.flags ∧
      (g.wait = .lat → f.due = some (s.tick + (g.lat + v.extraLat)))) ∧
    (∀ n ∈ opWrites v.o, n ∈ t.awaiting v.e v.k) ∧ x.decided = s.tick + 1

/-- The frame of a decision: nothing beyond the element, the fires in flight, the progress of its region and the trace changes. Every byte of
memory outside a trace record reads as before; no other element, tile, access, chain, task, wake register, queue, unit, sequence slot or fault
register changes, and a held store only in the bytes that a trace record has superseded.

A fire that is not eligible, or whose element has decided already, is not decided: nothing changes (R20, R21). That FFLAGS is unchanged also where a draw
meets the last index is log 10. -/
def Obligations.DecisionFrame : Prop :=
  (
    ∀ (i : Instr) (s : State) (v : Env) (g : Go), Decides i s v → MemoryCanonical s →
      let t := v.commit g
      SameMemory s t (traceSlot s) ∧ (∀ e, e ≠ v.e → t.elem e = s.elem e) ∧ t.tiles = s.tiles ∧ t.accesses = s.accesses ∧ SameHeld s t ∧
        (s.dbg.trcfg.toNat.testBit 0 = false → t.held = s.held ∧ t.mem = s.mem) ∧
        t.undo = s.undo ∧ t.chains = s.chains ∧ t.tasks = s.tasks ∧ t.wakes = s.wakes ∧ t.queues = s.queues ∧ t.launches = s.launches ∧
        t.nodes = s.nodes ∧ t.engines = s.engines ∧ t.frames = s.frames ∧ t.colls = s.colls ∧ t.seq = s.seq ∧ t.xl = s.xl ∧
        t.faults = s.faults ∧ t.part = s.part ∧ t.mgmt = s.mgmt ∧ t.sync = s.sync ∧ t.swages = s.swages ∧ t.tick = s.tick ∧
        (∀ r ∈ t.regions, ∃ q ∈ s.regions, r = { q with first := r.first, lastFire := r.lastFire }) ∧
        (∀ k < 4, let c := (t.elem v.e).ctx k
          c.wv = (s.ctx v.e k).wv ∧ c.frm = (s.ctx v.e k).frm ∧ c.fflags = (s.ctx v.e k).fflags ∧ c.seqid = (s.ctx v.e k).seqid ∧
          c.rngseed = (s.ctx v.e k).rngseed ∧ c.spmap = (s.ctx v.e k).spmap ∧ c.faultinfo = (s.ctx v.e k).faultinfo ∧
          c.ivec = (s.ctx v.e k).ivec ∧ c.holds = (s.ctx v.e k).holds ∧ c.bars = (s.ctx v.e k).bars ∧
          (g.draw = false → c.rngpos = (s.ctx v.e k).rngpos))) ∧
  (
    ∀ (i : Instr) (s : State) (v : Env), s.env i = some v → v.ready = false → exec i s = .next s)

/-- A trap of a fire (R27, R359, R361): no channel is dequeued, no predicate, register, special register or channel changes, nothing is in
flight that was not, every byte of memory outside a trace record reads as before; a record is made that names the code, the place and the heads, and
the region, if it has not ended, is frozen from the next cycle under it. That a region which a fault has frozen already takes a record of its own and
stays frozen under the first is log 37 (R359 does not say it). -/
def Obligations.TrapTaken : Prop :=
  ∀ (i : Instr) (s : State) (v : Env) (tr : Trap) (d l a : Nat), Decides i s v → v.g.faultable = true → tr ≠ .brk → MemoryCanonical s →
    let t := v.trapped tr d l a
    SameMemory s t (traceSlot s) ∧ SameHeld s t ∧ (s.dbg.trcfg.toNat.testBit 0 = false → t.mem = s.mem ∧ t.held = s.held) ∧ t.flights = s.flights ∧ (∀ e, e ≠ v.e → t.elem e = s.elem e) ∧
      t.elem v.e = { s.elem v.e with decided := s.tick + 1 } ∧
      (∃ r : FaultRec, t.faults.records = s.faults.records ++ [r] ∧ r.code = tr.code ∧ r.detail = d ∧ r.lane = l ∧ r.addr = a ∧ r.ctx = v.k ∧
        r.slot = v.j ∧ r.elem = elemIdx v.e ∧ r.x = tileX (elemTile v.e) ∧ r.y = tileY (elemTile v.e) ∧ r.heads = v.heads ∧ r.tick = s.tick) ∧
      (∃ r : Region, t.region? v.g.id = some r ∧ r.freeze = (if v.g.faulted then v.g.freeze else some (.fault s.ids)) ∧ r.freezeAt = (if v.g.freeze.isSome then v.g.freezeAt else s.tick + 1))

/-! ## Stream instructions -/

/-- NOP, PASS, DUP and SWAP move values with their codes and counts, zero above their lanes (R71, R72, R104). GATE, STEER and RETAG (R105, R107): the test is that some bit
of B is 1; a destination not chosen is given nothing; RETAG traps BAD_TAG on the tag MARK. -/
def Obligations.StreamMoves : Prop :=
  ∀ (o : Op) (s : State) (v : Env),
    (Decides (.nop o) s v → Goes (.nop o) s v {}) ∧
    ∃ a b, IsMoved v.wide v.a a ∧ IsMoved v.wide v.b b ∧
    (Decides (.pass o) s v → Goes (.pass o) s v { d1 := some a }) ∧
    (Decides (.dup o) s v → Goes (.dup o) s v { d1 := some a, d2 := some a }) ∧
    (Decides (.swap o) s v → Goes (.swap o) s v { d1 := some b, d2 := some a }) ∧
    (Decides (.gate o) s v → v.b.bits ≠ 0 → Goes (.gate o) s v { d1 := some a, pred := true }) ∧
    (Decides (.gate o) s v → v.b.bits = 0 → Goes (.gate o) s v {}) ∧
    (Decides (.steer o) s v → v.b.bits ≠ 0 → Goes (.steer o) s v { d1 := some a, pred := true }) ∧
    (Decides (.steer o) s v → v.b.bits = 0 → Goes (.steer o) s v { d2 := some a }) ∧
    (Decides (.retag o) s v → v.b.bits.toNat % 8 ≠ 4 → Goes (.retag o) s v { d1 := some a, d2 := some a, tag := some (v.b.bits.toNat % 8) }) ∧
    (Decides (.retag o) s v → v.b.bits.toNat % 8 = 4 → Traps (.retag o) s v .badTag 0 0 0)

/-- The loop counters ITER and ITERS (R108): the next counter, or 0 at the bound, to DST1, the present one to DST2, the predicate result that
the bound is reached, and under tag action 11 the tag LAST (1) there and DATA (0) elsewhere. -/
def Obligations.CountsLoops : Prop :=
  ∀ (o : Op) (s : State) (v : Env),
    let a : Word := lane v.a 64 0
    let b : Word := lane v.b 64 0
    let tag := fun (r : Bool) => if o.tact = 11 then some (if r then 1 else 0) else none
    (Decides (.iter o) s v →
      let reached := decide (b.toNat ≤ a.toNat + 1)
      ∃ n c, IsScalar v.wide 5 (if reached then 0 else a + 1) n ∧ IsScalar v.wide 5 a c ∧
        Goes (.iter o) s v { d1 := some n, d2 := some c, pred := reached, tag := tag reached }) ∧
    (Decides (.iters o) s v →
      let step := (b.extractLsb' 32 32).toInt
      let lim := (b.extractLsb' 0 32).toInt
      let reached := decide (step = 0 ∨ (0 < step ∧ lim ≤ a.toInt + step) ∨ (step < 0 ∧ a.toInt + step ≤ lim))
      ∃ n c, IsScalar v.wide 5 (if reached then 0 else a + (b.extractLsb' 32 32).signExtend 64) n ∧ IsScalar v.wide 5 a c ∧
        Goes (.iters o) s v { d1 := some n, d2 := some c, pred := reached, tag := tag reached })

/-- WAVE, TAGOF, OCC and EBB (R106, R109, R110, R112): the wave register's new value at completion and in DST1; the tag of A's head; the
occupancy of the channels as the cycle began; an ebb token of value zero to each destination. -/
def Obligations.WavesTagsOccupancy : Prop :=
  ∀ (o : Op) (s : State) (v : Env),
    (Decides (.wave o) s v → ∃ r, IsScalar v.wide (if v.a.fmt = 6 then 6 else 5) (((lane v.a 64 0 + lane v.b 64 0).setWidth 16).setWidth 64) r ∧
      Goes (.wave o) s v { d1 := some r, wv := some ((lane v.a 64 0 + lane v.b 64 0).setWidth 16) }) ∧
    (Decides (.tagof o) s v → ∀ k, v.aTag = some k → k < 8 → ∃ r, IsScalar v.wide 5 (BitVec.ofNat 64 k) r ∧
      Goes (.tagof o) s v { d1 := some r, d2 := some r, pred := decide (k = 1 ∨ k = 2) }) ∧
    (Decides (.occ o) s v →
      let ins := fun c => (((s.elem v.e).in_ c).q.filter fun k => decide (k.seen ≤ s.tick)).length + ((s.elem v.e).in_ c).gone
      let outs := fun c => ((s.elem v.e).out c).q.length + ((s.elem v.e).out c).gone
      let n := ins 0 + ins 1 * 2 ^ 3 + ins 2 * 2 ^ 6 + ins 3 * 2 ^ 9 + outs 0 * 2 ^ 12 + outs 1 * 2 ^ 14 + outs 2 * 2 ^ 16 + outs 3 * 2 ^ 18
      ∃ r, IsScalar v.wide 6 (BitVec.ofNat 64 n) r ∧ Goes (.occ o) s v { d1 := some r, d2 := some r, pred := decide (n % 2 ^ 12 ≠ 0) }) ∧
    (Decides (.ebb o) s v → Goes (.ebb o) s v { d1 := some {}, d2 := some {}, tag := some 3 })

/-- HALT (R111, R186) is decided and answers a next state in which its fire is in flight and its element has halted; in a region launch the region
halts with the code A[15:0] unless it has halted already. In any state an element that has halted has no eligible fire: no instruction of any
context and slot of it. -/
def Obligations.HaltsElement : Prop :=
  (∀ (o : Op) (s : State) (v : Env), Decides (.halt o) s v →
    ∃ t, exec (.halt o) s = .next t ∧
      (t.elem v.e).halted = true ∧ t.mem = (v.commit { wait := .halt (v.a.bits.toNat % 2 ^ 16) }).mem ∧
        t.flights = (v.commit { wait := .halt (v.a.bits.toNat % 2 ^ 16) }).flights ∧
        (v.g.solo = false → v.g.halt = none → s.region? v.g.id = some v.g →
          ∃ r, t.region? v.g.id = some r ∧ r.halt = some (s.tick, v.a.bits.toNat % 2 ^ 16, v.e))) ∧
  (∀ (u : State) (e k j : Nat), (u.elem e).halted = true → u.eligible e k j = false) ∧
  (∀ (i : Instr) (u : State) (w : Env), u.env i = some w → (u.elem w.e).halted = true → w.eligible = false ∧ exec i u = .next u)

/-! ## Integer instructions -/

/-- ADD to MAD and the saturating, absolute, minimum, maximum and logical instructions, lane by lane at each width (R96 to R101, R113). -/
def Obligations.IntegerResults : Prop :=
  IntResult .add true (fun _ => 1) (fun _ a b _ => a + b) (fun n a b => 2 ^ n ≤ a.toNat + b.toNat) ∧
  IntResult .sub true (fun _ => 1) (fun _ a b _ => a - b) (fun _ a b => a.toNat < b.toNat) ∧
  IntResult .neg false (fun _ => 1) (fun _ a _ _ => -a) (fun n a _ => a = BitVec.intMin n) ∧
  IntResult .mul true (fun _ => 3) (fun _ a b _ => a * b) (fun _ a b => (a * b).toInt ≠ a.toInt * b.toInt) ∧
  IntResult .mulh true (fun _ => 3) (fun n a b _ => BitVec.ofInt n (a.toInt * b.toInt / 2 ^ n)) (fun _ _ _ => False) ∧
  IntResult .mulhu true (fun _ => 3) (fun n a b _ => BitVec.ofNat n (a.toNat * b.toNat / 2 ^ n)) (fun _ _ _ => False) ∧
  IntResult .mad true (fun _ => 3) (fun _ a b old => old + a * b) (fun _ _ _ => False) ∧
  IntResult .addsat true (fun _ => 1) (fun n a b _ => BitVec.ofInt n (max (-2 ^ (n - 1)) (min (2 ^ (n - 1) - 1) (a.toInt + b.toInt))))
    (fun _ a b => (a + b).toInt ≠ a.toInt + b.toInt) ∧
  IntResult .subsat true (fun _ => 1) (fun n a b _ => BitVec.ofInt n (max (-2 ^ (n - 1)) (min (2 ^ (n - 1) - 1) (a.toInt - b.toInt))))
    (fun _ a b => (a - b).toInt ≠ a.toInt - b.toInt) ∧
  IntResult .abs false (fun _ => 1) (fun _ a _ _ => if a.toInt < 0 then -a else a) (fun n a _ => a = BitVec.intMin n) ∧
  IntResult .min true (fun _ => 1) (fun _ a b _ => if a.toInt ≤ b.toInt then a else b) (fun _ _ _ => False) ∧
  IntResult .max true (fun _ => 1) (fun _ a b _ => if a.toInt ≤ b.toInt then b else a) (fun _ _ _ => False) ∧
  IntResult .minu true (fun _ => 1) (fun _ a b _ => if a.toNat ≤ b.toNat then a else b) (fun _ _ _ => False) ∧
  IntResult .maxu true (fun _ => 1) (fun _ a b _ => if a.toNat ≤ b.toNat then b else a) (fun _ _ _ => False) ∧
  IntResult .and true (fun _ => 1) (fun _ a b _ => a &&& b) (fun _ _ _ => False) ∧
  IntResult .or true (fun _ => 1) (fun _ a b _ => a ||| b) (fun _ _ _ => False) ∧
  IntResult .xor true (fun _ => 1) (fun _ a b _ => a ^^^ b) (fun _ _ _ => False) ∧
  IntResult .andn true (fun _ => 1) (fun _ a b _ => a &&& ~~~b) (fun _ _ _ => False) ∧
  IntResult .orn true (fun _ => 1) (fun _ a b _ => a ||| ~~~b) (fun _ _ _ => False) ∧
  IntResult .not false (fun _ => 1) (fun _ a _ _ => ~~~a) (fun _ _ _ => False)

/-- The divisions give a result for every pair of operands and never trap (R114): a divisor of zero gives all ones, -1 or the dividend, and the
signed overflow gives min and 0. -/
def Obligations.DivisionResults : Prop :=
  IntResult .divu true divisionLatency (fun n a b _ => if b = 0 then BitVec.allOnes n else a.udiv b) (fun _ _ b => b = 0) ∧
  IntResult .remu true divisionLatency (fun _ a b _ => if b = 0 then a else a.umod b) (fun _ _ b => b = 0) ∧
  IntResult .div true divisionLatency
    (fun n a b _ => if b = 0 then BitVec.allOnes n else if a = BitVec.intMin n ∧ b = BitVec.allOnes n then BitVec.intMin n else BitVec.ofInt n (a.toInt.tdiv b.toInt))
    (fun n a b => b = 0 ∨ (a = BitVec.intMin n ∧ b = BitVec.allOnes n)) ∧
  IntResult .rem true divisionLatency
    (fun n a b _ => if b = 0 then a else if a = BitVec.intMin n ∧ b = BitVec.allOnes n then 0 else BitVec.ofInt n (a.toInt.tmod b.toInt))
    (fun n a b => b = 0 ∨ (a = BitVec.intMin n ∧ b = BitVec.allOnes n))

/-- The fixed-width instructions and HASH on 64-bit lanes (R115, R122). -/
def Obligations.FixedWidthResults : Prop :=
  FixedResult .addw true 1 5 (fun a b => ((a + b).setWidth 32).signExtend 64) ∧
  FixedResult .subw true 1 5 (fun a b => ((a - b).setWidth 32).signExtend 64) ∧
  FixedResult .mulw true 3 5 (fun a b => ((a * b).setWidth 32).signExtend 64) ∧
  FixedResult .sextb false 1 5 (fun a _ => (a.setWidth 8).signExtend 64) ∧
  FixedResult .sexth false 1 5 (fun a _ => (a.setWidth 16).signExtend 64) ∧
  FixedResult .sextw false 1 5 (fun a _ => (a.setWidth 32).signExtend 64) ∧
  FixedResult .zextb false 1 6 (fun a _ => (a.setWidth 8).setWidth 64) ∧
  FixedResult .zexth false 1 6 (fun a _ => (a.setWidth 16).setWidth 64) ∧
  FixedResult .zextw false 1 6 (fun a _ => (a.setWidth 32).setWidth 64) ∧
  FixedResult .hash true 4 0 (fun a b =>
    let x := a ^^^ b.rotateLeft 23
    let y := (x ^^^ (x >>> 33)) * 0xD4E12B976C3FA85D
    let z := (y ^^^ (y >>> 28)) * 0x7B19E6A305C4D2F7
    z ^^^ (z >>> 31))

/-- The comparisons write 1 or 0 in each lane, and their predicate result is the condition over the valid lanes (R116); CMOVNZ and CMOVZ select
lane by lane between A and the old value of DST1, the result zero above the lane of its code (R71, R117). -/
def Obligations.CompareAndSelect : Prop :=
  IntResult .ceq true (fun _ => 1) (fun _ a b _ => if a = b then 1 else 0) (fun _ a b => a = b) ∧
  IntResult .cne true (fun _ => 1) (fun _ a b _ => if a = b then 0 else 1) (fun _ a b => a ≠ b) ∧
  IntResult .clt true (fun _ => 1) (fun _ a b _ => if a.toInt < b.toInt then 1 else 0) (fun _ a b => a.toInt < b.toInt) ∧
  IntResult .cle true (fun _ => 1) (fun _ a b _ => if a.toInt ≤ b.toInt then 1 else 0) (fun _ a b => a.toInt ≤ b.toInt) ∧
  IntResult .cltu true (fun _ => 1) (fun _ a b _ => if a.toNat < b.toNat then 1 else 0) (fun _ a b => a.toNat < b.toNat) ∧
  IntResult .cleu true (fun _ => 1) (fun _ a b _ => if a.toNat ≤ b.toNat then 1 else 0) (fun _ a b => a.toNat ≤ b.toNat) ∧
  IntResult .ctst true (fun _ => 1) (fun _ a b _ => if a &&& b = 0 then 0 else 1) (fun _ a b => a &&& b ≠ 0) ∧
  ∀ (o : Op) (s : State) (v : Env) (nz : Bool),
    let i := if nz then Instr.cmovnz o else Instr.cmovz o
    Decides i s v →
      let n := intWidth o.mode.val
      let k := validOf v.wide n [v.a, v.b]
      ∃ q r p, Goes i s v { d1 := some r, d2 := some r, pred := p } ∧ r.fmt = q.fmt ∧ r.vl = q.vl ∧
        r.bits.toNat = q.bits.toNat % 2 ^ (if v.wide = true then (if laneBits q.fmt = 6 then 504 else 512) else laneBits q.fmt) ∧
        IsLanes v.wide n (if 1 ≤ v.a.fmt ∧ v.a.fmt ≤ 6 ∧ laneBits v.a.fmt = n then v.a.fmt else v.old.fmt) k
          (fun l => if (lane v.b n l ≠ 0) = (nz = true) then lane v.a n l else lane v.old n l) q ∧
        (p = true ↔ ∃ l < k, (lane v.b n l ≠ 0) = (nz = true))

/-- Shifts and rotates take their count modulo the lane width (R118); the counts and reorderings of bits have the predicate result that the lane
is zero (R119). -/
def Obligations.ShiftsAndCounts : Prop :=
  IntResult .shl true (fun _ => 1) (fun n a b _ => a <<< (b.toNat % n)) (fun _ _ _ => False) ∧
  IntResult .shr true (fun _ => 1) (fun n a b _ => a >>> (b.toNat % n)) (fun _ _ _ => False) ∧
  IntResult .sar true (fun _ => 1) (fun n a b _ => a.sshiftRight (b.toNat % n)) (fun _ _ _ => False) ∧
  IntResult .rol true (fun _ => 1) (fun n a b _ => a.rotateLeft (b.toNat % n)) (fun _ _ _ => False) ∧
  IntResult .ror true (fun _ => 1) (fun n a b _ => a.rotateRight (b.toNat % n)) (fun _ _ _ => False) ∧
  IntResult .clz false (fun _ => 1) (fun _ a _ _ => a.clz) (fun _ a _ => a = 0) ∧
  IntResult .ctz false (fun _ => 1) (fun _ a _ _ => a.ctz) (fun _ a _ => a = 0) ∧
  IntResult .popc false (fun _ => 1) (fun _ a _ _ => a.cpop) (fun _ a _ => a = 0) ∧
  IntResult .brev false (fun _ => 1) (fun _ a _ _ => a.reverse) (fun _ a _ => a = 0) ∧
  (∀ (o : Op) (s : State) (v : Env), Decides (.bswap o) s v →
    let n := intWidth o.mode.val
    let k := validOf v.wide n [v.a]
    ∃ r p, Goes (.bswap o) s v { d1 := some r, d2 := some r, pred := p } ∧ r.bits.toNat < 2 ^ (n * k) ∧ r.fmt = intFmt v.a.fmt n ∧
      r.vl = (if v.wide = true ∧ k < laneCount n then k else 0) ∧
      (∀ l < k, ∀ j < n / 8, (lane r n l).extractLsb' (8 * j) 8 = (lane v.a n l).extractLsb' (n - 8 - 8 * j) 8) ∧
      (p = true ↔ ∃ l < k, lane v.a n l = 0))

/-- Bit fields (R120) and LEA (R121): BFX extracts with zero or sign extension, BFI inserts into the old value, an empty field gives 0 or the old
value; LEA adds a scaled index as U64, its predicate result the carry. -/
def Obligations.FieldsAndAddresses : Prop :=
  IntResult .bfx true (fun _ => 1) (fun n a b _ =>
    let pos := b.toNat % 64
    let len := b.toNat / 2 ^ 8 % 128
    if len = 0 ∨ n ≤ pos then 0
    else
      let f := a.extractLsb' pos (min len (n - pos))
      if b.toNat.testBit 15 then f.signExtend n else f.setWidth n) (fun _ _ _ => False) ∧
  IntResult .bfi true (fun _ => 1) (fun n a b old =>
    let pos := b.toNat % 64
    let len := b.toNat / 2 ^ 8 % 128
    if len = 0 ∨ n ≤ pos then old
    else
      let mask := ((BitVec.allOnes (min len (n - pos))).setWidth n) <<< pos
      (old &&& ~~~mask) ||| ((a <<< pos) &&& mask)) (fun _ _ _ => False) ∧
  (∀ (o : Op) (s : State) (v : Env), Decides (.lea o) s v → v.wide = false → o.mode.val ≤ 1 →
    let n := intWidth o.mode.val
    let x := (lane v.a n 0).toNat + (lane v.b n 0).toNat * 2 ^ o.tact.val
    ∃ r, Goes (.lea o) s v { d1 := some r, d2 := some r, pred := decide (2 ^ n ≤ x) } ∧ r.bits.toNat = x % 2 ^ n ∧ r.fmt = 6 ∧ r.vl = 0)

/-- DRAW and the generator (R91 to R94, R123): at the last index under RSTE it traps RNG_SAT; else it writes the draw, rotated left by 5 l in
lane l of a wide word, advances the position, and sets RNGSAT at the last index, where the position stays. That RNGSAT is a flag of the fire, set as it completes, is log 10. -/
def Obligations.Draws : Prop :=
  ∀ (o : Op) (s : State) (v : Env), Decides (.draw o) s v →
    let c := s.ctx v.e v.k
    let last := decide (c.rngpos.toNat % 2 ^ 24 = 2 ^ 24 - 1)
    let x := c.rngseed ^^^ c.rngpos
    let y := (x ^^^ (x >>> 31)) * 0xA3B195C47E2D6F1B
    let z := (y ^^^ (y >>> 29)) * 0x5C8E27D9B40F3A65
    let d := z ^^^ (z >>> 32)
    (last = true ∧ c.frm.toNat.testBit 8 = true → Traps (.draw o) s v .rngSat 0 0 0) ∧
    (¬ (last = true ∧ c.frm.toNat.testBit 8 = true) → ∃ r,
      Goes (.draw o) s v { lat := 2, d1 := some r, d2 := some r, draw := true, flags := if last then 32 else 0 } ∧
      IsLanes v.wide 64 6 (if v.wide then 8 else 1) (fun l => d.rotateLeft (if v.wide then 5 * l else 0)) r ∧
      (v.k < 4 → (((v.commit { lat := 2, d1 := some r, d2 := some r, draw := true, flags := if last then 32 else 0 }).elem v.e).ctx v.k).rngpos =
        if last then c.rngpos else c.rngpos + 1))

/-! ## Numbers -/

/-- Exact arithmetic is exact: the sum and the product of two finite numbers are finite and have the rational sum and product as value; an exact
zero sum of two numbers that are not both zero is +0, or -0 under RDN; opposite infinities and 0 × ∞ give NaN; negation negates (R127). -/
def Obligations.ExactArithmetic : Prop :=
  (∀ (rm : Rm) (s t : Bool) (m n : Nat) (e f : Int),
    (∃ u k g, Machine.Num.add rm (.fin s m e) (.fin t n f) = .fin u k g ∧
      (m + n ≠ 0 → ratOf (.fin s m e) + ratOf (.fin t n f) = 0 → u = decide (rm = .rdn))) ∧
    ratOf (Machine.Num.add rm (.fin s m e) (.fin t n f)) = ratOf (.fin s m e) + ratOf (.fin t n f) ∧
    ratOf (Machine.Num.mul (.fin s m e) (.fin t n f)) = ratOf (.fin s m e) * ratOf (.fin t n f)) ∧
  (∀ (rm : Rm) (s : Bool) (e : Int), Machine.Num.add rm (.inf s) (.inf (!s)) = .nan false ∧
    Machine.Num.mul (.inf s) (.fin s 0 e) = .nan false ∧ Machine.Num.mul (.fin s 0 e) (.inf s) = .nan false) ∧
  ∀ x : Machine.Num, ratOf x.negate = - ratOf x

/-- A rounding to a multiple of 2^q brackets the value and obeys its mode (R88): RTZ never grows the magnitude, RUP and RDN round towards
their infinity, RNE is off by at most half a unit and takes the even multiple in a tie; the rounding is inexact exactly when the value is no
multiple. An encoding into FP32, BF16 or FP16 is the value itself with no flag where the format has it, else one of its two neighbours under NX, by
the mode; past the largest finite value it is that value or the infinity, by the mode. -/
def Obligations.RoundsByMode : Prop :=
  (∀ (rm : Rm) (neg : Bool) (m : Nat) (e q : Int),
    let r := roundTo rm neg m e q
    let x : ℚ := (m : ℚ) * 2 ^ e
    let y : ℚ := (r.1 : ℚ) * 2 ^ q
    |y - x| < 2 ^ q ∧ (r.2 = false ↔ y = x) ∧
      (rm = .rtz → y ≤ x) ∧ (rm = .rup → if neg then y ≤ x else x ≤ y) ∧ (rm = .rdn → if neg then x ≤ y else y ≤ x) ∧
      (rm = .rne → 2 * |y - x| ≤ 2 ^ q ∧ (2 * |y - x| = 2 ^ q → r.1 % 2 = 0))) ∧
  ∀ fmt ∈ [7, 8, 9], ∀ (rm : Rm) (n : Bool) (m : Nat) (e : Int), m ≠ 0 →
    let x : ℚ := |ratOf (.fin n m e)|
    let mag := fun (c : Nat) => ratOf (decodeIeee fmt c)
    let out := encodeFloat fmt rm (.fin n m e)
    let code := fun (c : Nat) => (if n then signBit fmt else 0) + c
    let top := ieeeInf fmt false - 1
    (∀ c ≤ top, x = mag c → out = (code c, 0)) ∧
    (∀ c < top, mag c < x → x < mag (c + 1) → out.2 &&& fNX = fNX ∧ out.2 &&& fOF = 0 ∧ out.1 = code (match rm with
      | .rtz => c
      | .rup => if n then c else c + 1
      | .rdn => if n then c + 1 else c
      | .rne => if x - mag c < mag (c + 1) - x then c else if mag (c + 1) - x < x - mag c then c + 1 else if c % 2 = 0 then c else c + 1)) ∧
    (mag top < x → out.2 &&& fNX = fNX ∧ out.1 = code (match rm with
      | .rtz => top
      | .rup => if n then top else top + 1
      | .rdn => if n then top + 1 else top
      | .rne => if mag top + (mag top - mag (top - 1)) / 2 ≤ x then top + 1 else top))

/-- Every lane of FP32, BF16 and FP16 that is not NaN encodes back to itself under every rounding mode with no flag, and a NaN encodes to the
canonical NaN, with NV where it signals; the tapered formats and PQ6 likewise for every number they hold (R75, R77, R82, R88). -/
def Obligations.EncodeOfDecodedNumber : Prop :=
  (∀ fmt ∈ [7, 8, 9], ∀ (rm : Rm) (a : Nat), a < 2 ^ laneBits fmt →
    encodeFloat fmt rm (decodeIeee fmt a) =
      if (decodeIeee fmt a).isNan then (canonNan fmt, if (decodeIeee fmt a).isSnan then fNV else 0) else (a, 0)) ∧
  (∀ fmt ∈ [10, 11, 12], ∀ (rm : Rm) (a : Nat), a < 2 ^ laneBits fmt → (decodeTapered fmt a).isNan = false →
    encodeFloat fmt rm (decodeTapered fmt a) = (a, 0)) ∧
  (∀ (rm : Rm) (a : Nat), a < 60 → encodeFloat 13 rm (decodePq6 a) = (a, 0))

/-! ## Float instructions -/

/-- The lane functions of the float arithmetic (R127), each result the exact sum, product or fused form rounded once, and of FRINT to FLOG2F:
integral rounding (R131), 2^a (R132), scaling (R133), exponent and mantissa (R135), reciprocal and its square root (R136), the logarithm (R137);
a source of another code traps BAD_FORMAT (R124). That the old value of DST1 does not limit the valid lanes of FMA, FMS and FNMA is log 76. -/
def Obligations.FloatLaneResults : Prop :=
  let num := decodeIeee
  FloatResult .fadd true false 3 id (fun rm fmt a b _ => sumOut rm fmt (num fmt a) (num fmt b) (sigFlag [num fmt a, num fmt b])) (fun _ _ _ => False) ∧
  FloatResult .fsub true false 3 id (fun rm fmt a b _ => sumOut rm fmt (num fmt a) (num fmt b).negate (sigFlag [num fmt a, num fmt b])) (fun _ _ _ => False) ∧
  FloatResult .fmul true false 3 id (fun rm fmt a b _ => mulOut rm fmt a b) (fun _ _ _ => False) ∧
  FloatResult .fma true true 4 id (fun rm fmt a b c => let r := fusedOut false false rm fmt a b c; (r.1, r.2.2)) (fun _ _ _ => False) ∧
  FloatResult .fms true true 4 id (fun rm fmt a b c => let r := fusedOut true false rm fmt a b c; (r.1, r.2.2)) (fun _ _ _ => False) ∧
  FloatResult .fnma true true 4 id (fun rm fmt a b c => let r := fusedOut false true rm fmt a b c; (r.1, r.2.2)) (fun _ _ _ => False) ∧
  FloatResult .frint false false 2 id (fun rm fmt a _ _ => integralOut true rm fmt a) (fun _ _ _ => False) ∧
  FloatResult .ffloor false false 2 id (fun _ fmt a _ _ => integralOut false .rdn fmt a) (fun _ _ _ => False) ∧
  FloatResult .fceil false false 2 id (fun _ fmt a _ _ => integralOut false .rup fmt a) (fun _ _ _ => False) ∧
  FloatResult .ftrunc false false 2 id (fun _ fmt a _ _ => integralOut false .rtz fmt a) (fun _ _ _ => False) ∧
  FloatResult .fexp2f false false 6 id (fun _ fmt a _ _ => exp2Out fmt a) (fun _ _ _ => False) ∧
  FloatResult .fldexp true false 2 id (fun rm fmt a b _ => ldexpOut rm fmt a b) (fun _ _ _ => False) ∧
  FloatResult .fgetexp false false 1 id (fun _ fmt a _ _ => getexpOut fmt a) (fun _ _ _ => False) ∧
  FloatResult .fgetmant false false 1 id (fun _ fmt a _ _ => getmantOut fmt a) (fun _ _ _ => False) ∧
  FloatResult .frcp false false 8 id (fun rm fmt a _ _ => rcpOut rm fmt a) (fun _ _ _ => False) ∧
  FloatResult .frsq false false 10 id (fun rm fmt a _ _ => rsqOut rm fmt a) (fun _ _ _ => False) ∧
  FloatResult .flog2f false false 8 id (fun _ fmt a _ _ => log2Out fmt a) (fun _ _ _ => False)

/-- The values of a lane under the arithmetic of R127, by the numbers of its operands: finite operands give the exact result encoded once, with
the flags of that rounding alone, in FADD, FSUB, FMUL and the three fused forms, FMS subtracting the old value and FNMA the product; infinities
give infinities; a NaN operand gives the canonical NaN, with NV exactly for a signalling one; opposite infinities and 0 × ∞ give it with NV, in
the fused forms whatever the addend. -/
def Obligations.ArithmeticCases : Prop :=
  ∀ (rm : Rm) (fmt a b c : Nat), fmt ∈ [7, 8, 9] →
    let x := decodeIeee fmt a
    let y := decodeIeee fmt b
    let z := decodeIeee fmt c
    let nan := canonNan fmt
    let sig2 := if x.isSnan || y.isSnan then fNV else 0
    let sig3 := if x.isSnan || y.isSnan || z.isSnan then fNV else 0
    let mul := mulOut rm fmt a b
    -- a product of x and y that is an infinity of sign n, or 0 × ∞
    let infinite := fun (n : Bool) => ∃ k l, n = xor k l ∧
      ((x = .inf k ∧ (y = .inf l ∨ ∃ m e, y = .fin l m e ∧ m ≠ 0)) ∨ (y = .inf l ∧ ∃ m e, x = .fin k m e ∧ m ≠ 0))
    let bad := ∃ k l e, (x = .inf k ∧ y = .fin l 0 e) ∨ (x = .fin k 0 e ∧ y = .inf l)
    -- the sums: w is y for FADD and its negation for FSUB
    (∀ w ∈ [y, y.negate],
      let sum := sumOut rm fmt x w (sigFlag [x, y])
      (x.isNan = true ∨ y.isNan = true → sum = (nan, sig2)) ∧
      (∀ n, x = .inf n → w = .inf (!n) → sum = (nan, fNV)) ∧
      (∀ n, (x = .inf n ∧ (w = .inf n ∨ ∃ k j f, w = .fin k j f)) ∨ (w = .inf n ∧ ∃ k j f, x = .fin k j f) → sum = (ieeeInf fmt n, 0)) ∧
      (∀ n m e k f, x = .fin n m e → w = .fin k 0 f → m ≠ 0 → sum = encodeFloat fmt rm x) ∧
      (∀ n m e k j f, x = .fin n m e → w = .fin k j f → sum = encodeFloat fmt rm (Machine.Num.add rm x w))) ∧
    (x.isNan = true ∨ y.isNan = true → mul = (nan, sig2)) ∧
    (bad → mul = (nan, fNV)) ∧
    (∀ n, infinite n → mul = (ieeeInf fmt n, 0)) ∧
    (∀ n m e k j f, x = .fin n m e → y = .fin k j f → mul = encodeFloat fmt rm (Machine.Num.mul x y)) ∧
    -- the fused forms: sub negates the addend (FMS), rev the product (FNMA)
    ∀ sub rev : Bool,
      let r := fusedOut sub rev rm fmt a b c
      let out := (r.1, r.2.2)
      let p := if rev then (Machine.Num.mul x y).negate else Machine.Num.mul x y
      let w := if sub then z.negate else z
      (x.isNan = true ∨ y.isNan = true → out = (nan, sig3)) ∧
      (bad → out = (nan, fNV)) ∧
      (¬ bad → z.isNan = true → x.isNan = false → y.isNan = false → out = (nan, sig3)) ∧
      (∀ n, infinite n → (∃ k j f, z = .fin k j f) → out = (ieeeInf fmt (xor n rev), 0)) ∧
      (∀ n l, infinite n → z = .inf l → out = if xor n rev = xor l sub then (ieeeInf fmt (xor n rev), 0) else (nan, fNV)) ∧
      (∀ n m e k j f l, x = .fin n m e → y = .fin k j f → z = .inf l → out = (ieeeInf fmt (xor l sub), 0)) ∧
      (∀ n m e k j f l q g, x = .fin n m e → y = .fin k j f → z = .fin l q g → out = encodeFloat fmt rm (Machine.Num.add rm p w))

/-- FMIN to FCLASS of a lane (R128 to R130). Each of the ten is decided and completes: where its sources carry the operation format or RAW, exec
answers the next state of the decision with these lanes and flags. Minimum and maximum take -0 below +0 and the other operand of one NaN, and
give the canonical NaN of two; FABS, FNEG and FCOPYSIGN give the number with its sign cleared, inverted or replaced; the comparisons follow the
numbers, with their answers and flags for NaN; exactly one bit of the class mask is set, that of the lane's class. -/
def Obligations.FloatComparisons : Prop :=
  let num := decodeIeee
  let cmp := fun (quiet : Bool) (ok : Machine.Num → Machine.Num → Bool) (_ : Rm) (fmt a b _c : Nat) =>
    ((if ok (num fmt a) (num fmt b) then 1 else 0),
      if (if quiet then (num fmt a).isSnan || (num fmt b).isSnan else (num fmt a).isNan || (num fmt b).isNan) then fNV else (0 : Flags))
  let code := fun fmt => if fmt = 7 then 3 else 0
  let ord := fun (x y : Machine.Num) => !x.isNan && !y.isNan
  let lo := minMax fun x y => y.less x
  let hi := minMax fun x y => x.less y
  let fabs := fun fmt a => signOut fmt a (magBits fmt a)
  let fneg := fun fmt a => signOut fmt a (a ^^^ signBit fmt)
  let fcopysign := fun fmt a b => signOut fmt a (magBits fmt a + (b - magBits fmt b))
  FloatResult .fmin true false 1 id (fun _ fmt a b _ => lo fmt a b) (fun _ _ _ => False) ∧
  FloatResult .fmax true false 1 id (fun _ fmt a b _ => hi fmt a b) (fun _ _ _ => False) ∧
  FloatResult .fabs false false 1 id (fun _ fmt a _ _ => fabs fmt a) (fun _ _ _ => False) ∧
  FloatResult .fneg false false 1 id (fun _ fmt a _ _ => fneg fmt a) (fun _ _ _ => False) ∧
  FloatResult .fcopysign true false 1 id (fun _ fmt a b _ => fcopysign fmt a b) (fun _ _ _ => False) ∧
  FloatResult .fceq true false 1 code (cmp true fun x y => ord x y && x.cmp y == .eq) (fun fmt a b => ord (num fmt a) (num fmt b) && (num fmt a).cmp (num fmt b) == .eq) ∧
  FloatResult .fclt true false 1 code (cmp false fun x y => ord x y && x.cmp y == .lt) (fun fmt a b => ord (num fmt a) (num fmt b) && (num fmt a).cmp (num fmt b) == .lt) ∧
  FloatResult .fcle true false 1 code (cmp false fun x y => ord x y && x.cmp y != .gt) (fun fmt a b => ord (num fmt a) (num fmt b) && (num fmt a).cmp (num fmt b) != .gt) ∧
  FloatResult .fcun true false 1 code (cmp true fun x y => x.isNan || y.isNan) (fun fmt a b => (num fmt a).isNan || (num fmt b).isNan) ∧
  FloatResult .fclass false false 1 code (fun _ fmt a _ _ => (classMask fmt a, 0)) (fun _ _ _ => False) ∧
  -- the order of numbers
  (∀ s t m n e f,
    (Machine.Num.cmp (.fin s m e) (.fin t n f) = .lt ↔ ratOf (.fin s m e) < ratOf (.fin t n f)) ∧
    (Machine.Num.cmp (.fin s m e) (.fin t n f) = .eq ↔ ratOf (.fin s m e) = ratOf (.fin t n f)) ∧
    Machine.Num.cmp (.inf s) (.fin t n f) = (if s then .lt else .gt) ∧ Machine.Num.cmp (.fin s m e) (.inf t) = (if t then .gt else .lt) ∧
    Machine.Num.cmp (.inf s) (.inf t) = if s = t then .eq else if s then .lt else .gt) ∧
  ∀ fmt ∈ [7, 8, 9], ∀ a b, a < 2 ^ laneBits fmt → b < 2 ^ laneBits fmt →
    let x := num fmt a
    let y := num fmt b
    let nan := canonNan fmt
    let sig := if x.isSnan then fNV else 0
    let sig2 := if x.isSnan || y.isSnan then fNV else 0
    -- minimum and maximum (R128)
    (x.isNan = true → y.isNan = true → lo fmt a b = (nan, sig2) ∧ hi fmt a b = (nan, sig2)) ∧
    (x.isNan = true → y.isNan = false → lo fmt a b = (b, sig2) ∧ hi fmt a b = (b, sig2)) ∧
    (x.isNan = false → y.isNan = true → lo fmt a b = (a, sig2) ∧ hi fmt a b = (a, sig2)) ∧
    (∀ e f, x = .fin true 0 e → y = .fin false 0 f → lo fmt a b = (a, 0) ∧ hi fmt a b = (b, 0)) ∧
    (∀ e f, x = .fin false 0 e → y = .fin true 0 f → lo fmt a b = (b, 0) ∧ hi fmt a b = (a, 0)) ∧
    (x.isNan = false → y.isNan = false → x.cmp y = .lt → lo fmt a b = (a, 0) ∧ hi fmt a b = (b, 0)) ∧
    (x.isNan = false → y.isNan = false → x.cmp y = .gt → lo fmt a b = (b, 0) ∧ hi fmt a b = (a, 0)) ∧
    -- the sign operations (R129)
    (x.isNan = true → fabs fmt a = (nan, sig) ∧ fneg fmt a = (nan, sig) ∧ fcopysign fmt a b = (nan, sig)) ∧
    (x.isNan = false → num fmt (fabs fmt a).1 = withSign false x ∧ num fmt (fneg fmt a).1 = withSign (!x.neg?) x ∧
      num fmt (fcopysign fmt a b).1 = withSign (decide (2 ^ (laneBits fmt - 1) ≤ b)) x ∧
      (fabs fmt a).2 = 0 ∧ (fneg fmt a).2 = 0 ∧ (fcopysign fmt a b).2 = 0) ∧
    -- the class mask (R130)
    (∀ q, x = .nan q → classMask fmt a = if q then 2 ^ 8 else 2 ^ 9) ∧ (∀ n, x = .inf n → classMask fmt a = if n then 2 ^ 0 else 2 ^ 7) ∧
    (∀ n m e, x = .fin n m e → classMask fmt a =
      if m = 0 then (if n then 2 ^ 3 else 2 ^ 4) else if m < 2 ^ (ieeeParams fmt).2 then (if n then 2 ^ 2 else 2 ^ 5) else (if n then 2 ^ 1 else 2 ^ 6))

/-- The values of R131 to R137: a NaN operand gives the canonical NaN, with NV exactly where it signals; the tables' answers for zeros,
infinities and operands out of range; FLDEXP's table over both its operands, a finite result being a × 2^t rounded once, t its second operand
truncated towards zero. An integral value is the rounding of R131 with the sign of its operand, NX only where it is asked for; the exponent is that of
the power of two below |a|, the mantissa what is left, both exact; FRCP and FRSQ round once a number within one part in 2^76 of 1 / a, or whose square is
of that of 1 / a. In their range FEXP2F and FLOG2F round to nearest, once and whatever RM, a number within 2^-150 of 2^a or log2(a), which is within half an
ulp of it but for that 2^-150, and set NX (that the series decides the rounding is log 70). -/
def Obligations.FloatFunctionSpecials : Prop :=
  ∀ (rm : Rm) (fmt a b : Nat), fmt ∈ [7, 8, 9] → a < 2 ^ laneBits fmt → b < 2 ^ laneBits fmt →
    let x := decodeIeee fmt a
    let y := decodeIeee fmt b
    let nan := canonNan fmt
    let sig2 := if x.isSnan || y.isSnan then fNV else 0
    let zero := fun (n : Bool) => if n then signBit fmt else 0
    let scaled := ldexpOut rm fmt a b
    -- out is a number near v, rounded to nearest once, and within half an ulp of v
    let nearest := fun (out : Nat × Flags) (v : ℝ) => out.2 = fNX ∧
      (∃ q : Machine.Num, out.1 = (encodeFloat fmt .rne q).1 ∧ |((ratOf q : ℚ) : ℝ) - v| ≤ 2 ^ (-150 : ℤ)) ∧
      |((ratOf (decodeIeee fmt out.1) : ℚ) : ℝ) - v| ≤ 2 ^ (-((ieeeParams fmt).2 : ℤ) - 1) * |v| + 2 ^ (-149 : ℤ)
    (x.isNan = true → ∀ r ∈ [integralOut true rm fmt a, exp2Out fmt a, getexpOut fmt a, getmantOut fmt a, rcpOut rm fmt a, rsqOut rm fmt a,
      log2Out fmt a], r = (nan, if x.isSnan then fNV else 0)) ∧
    (x.isZero = true → getexpOut fmt a = (ieeeInf fmt true, fDZ) ∧ getmantOut fmt a = (a, 0) ∧ rcpOut rm fmt a = (ieeeInf fmt x.neg?, fDZ) ∧
      rsqOut rm fmt a = (ieeeInf fmt x.neg?, fDZ) ∧ log2Out fmt a = (nan, fNV) ∧
      (exp2Out fmt a).2 = 0 ∧ ratOf (decodeIeee fmt (exp2Out fmt a).1) = 1 ∧ integralOut true rm fmt a = (a, 0)) ∧
    (∀ n, x = .inf n → integralOut true rm fmt a = (a, 0) ∧ exp2Out fmt a = (nan, fNV) ∧ getexpOut fmt a = (ieeeInf fmt false, 0) ∧
      getmantOut fmt a = (nan, fNV) ∧ rcpOut rm fmt a = (zero n, 0) ∧
      rsqOut rm fmt a = (if n then (nan, fNV) else (0, 0)) ∧ log2Out fmt a = (nan, fNV)) ∧
    (∀ m e, x = .fin true m e → m ≠ 0 → rsqOut rm fmt a = (nan, fNV) ∧ log2Out fmt a = (nan, fNV)) ∧
    (∀ n m e, x = .fin n m e →
      (1 / 2 < |ratOf x| → exp2Out fmt a = (nan, fNV)) ∧ (0 < |ratOf x| → |ratOf x| ≤ 1 / 2 → nearest (exp2Out fmt a) ((2 : ℝ) ^ ((ratOf x : ℚ) : ℝ))) ∧
      (ratOf x < 1 ∨ 2 ≤ ratOf x → log2Out fmt a = (nan, fNV)) ∧ (ratOf x = 1 → log2Out fmt a = (0, 0)) ∧
      (1 < ratOf x → ratOf x < 2 → nearest (log2Out fmt a) (Real.logb 2 ((ratOf x : ℚ) : ℝ)))) ∧
    -- finite values (R131, R135, R136)
    (∀ n m e, x = .fin n m e →
      (∀ nx : Bool,
        let r := roundTo rm n m e 0
        let out := integralOut nx rm fmt a
        ratOf (decodeIeee fmt out.1) = ratOf (.fin n r.1 0) ∧ (decodeIeee fmt out.1).neg? = n ∧ out.2 = if nx && r.2 then fNX else 0) ∧
      (m ≠ 0 →
        (∃ k : Int, (2 : ℚ) ^ k ≤ |ratOf x| ∧ |ratOf x| < 2 ^ (k + 1) ∧
          ratOf (decodeIeee fmt (getexpOut fmt a).1) = k ∧ (getexpOut fmt a).2 = 0 ∧
          ratOf (decodeIeee fmt (getmantOut fmt a).1) = ratOf x * 2 ^ (-k) ∧ (getmantOut fmt a).2 = 0) ∧
        (∃ q : Machine.Num, rcpOut rm fmt a = encodeFloat fmt rm q ∧ |ratOf q * ratOf x - 1| ≤ 2 ^ (-76 : Int)) ∧
        (n = false → ∃ q : Machine.Num, rsqOut rm fmt a = encodeFloat fmt rm q ∧ 0 < ratOf q ∧ |ratOf q ^ 2 * ratOf x - 1| ≤ 2 ^ (-76 : Int)))) ∧
    -- the table of FLDEXP (R133)
    (y.isNan = true → scaled = (nan, sig2)) ∧
    (∀ n, y = .inf n →
      (x.isNan = true → scaled = ((if n then 0 else ieeeInf fmt false), sig2)) ∧
      (∀ k, x = .inf k → scaled = if n then (nan, fNV) else (ieeeInf fmt k, 0)) ∧
      (∀ k e, x = .fin k 0 e → scaled = if n then (zero k, 0) else (nan, fNV)) ∧
      (∀ k m e, x = .fin k m e → m ≠ 0 → scaled = if n then (zero k, 0) else (ieeeInf fmt k, 0))) ∧
    (∀ l j f, y = .fin l j f →
      (x.isNan = true → scaled = (nan, sig2)) ∧ (∀ k, x = .inf k → scaled = (a, 0)) ∧ (∀ k e, x = .fin k 0 e → scaled = (a, 0)) ∧
      (∀ k m e, x = .fin k m e → m ≠ 0 →
        let t : Int := if ratOf y < 0 then ⌈ratOf y⌉ else ⌊ratOf y⌋
        scaled = encodeFloat fmt rm (.fin k m (e + t))))

/-! ## Conversions -/

/-- CVT, CVTI, CVTIT, CVTF and CVTFU, lane by lane (R138 to R140, R142, R143), and what the encodings are: an integer format takes the value rounded to
an integer, or the nearer end of its range with NV, 0 for a NaN (R142); a tapered format and PQ6 take the nearest of their values, of two equally near
ones that of the even code, with NX, OF and UF as R80 and R82 say, whatever the rounding mode. -/
def Obligations.Conversions : Prop :=
  ConvResult .cvt 2 (fun f => 7 ≤ f ∧ f ≤ 14) (fun v fmt x _ => encodeFloat v.o.tact.val v.modeRm (decodeLane fmt x)) ∧
  ConvResult .cvti 2 (fun f => 7 ≤ f ∧ f ≤ 14) (fun v fmt x _ => encodeInt v.o.tact.val v.modeRm (decodeLane fmt x)) ∧
  ConvResult .cvtit 2 (fun f => 7 ≤ f ∧ f ≤ 14) (fun v fmt x _ => encodeInt v.o.tact.val .rtz (decodeLane fmt x)) ∧
  ConvResult .cvtf 2 (fun f => f ≤ 6) (fun v fmt x _ => encodeFloat v.o.tact.val v.modeRm (Machine.Num.ofInt (BitVec.ofNat (laneBits fmt) x).toInt)) ∧
  ConvResult .cvtfu 2 (fun f => f ≤ 6) (fun v _ x _ => encodeFloat v.o.tact.val v.modeRm (Machine.Num.ofInt x)) ∧
  -- integer targets (R142)
  (∀ f ∈ [1, 2, 3, 4, 5, 6], ∀ rm : Rm,
    let w := laneBits f
    let lo : Int := if f % 2 = 1 then -2 ^ (w - 1) else 0
    let hi : Int := if f % 2 = 1 then 2 ^ (w - 1) - 1 else 2 ^ w - 1
    let put := fun (x : Int) => (BitVec.ofInt w x).toNat
    (∀ q, encodeInt f rm (.nan q) = (0, fNV)) ∧ encodeInt f rm (.inf false) = (put hi, fNV) ∧ encodeInt f rm (.inf true) = (put lo, fNV) ∧
    ∀ n m e,
      let r := roundTo rm n m e 0
      let x : Int := if n then -(r.1 : Int) else r.1
      encodeInt f rm (.fin n m e) = if x < lo then (put lo, fNV) else if hi < x then (put hi, fNV) else (put x, if r.2 then fNX else 0)) ∧
  -- tapered targets and PQ6 (R80, R82)
  (∀ rm : Rm, (∀ f ∈ [10, 11, 12], (∀ q, encodeFloat f rm (.nan q) = (canonNan f, if q then fNV else 0)) ∧ ∀ n e, encodeFloat f rm (.fin n 0 e) = (0, 0)) ∧
    (∀ q, encodeFloat 13 rm (.nan q) = (0x3C, fNV)) ∧ encodeFloat 13 rm (.inf true) = (0x3C, fNV) ∧ (∀ n e, encodeFloat 13 rm (.fin n 0 e) = (0x3C, 0)) ∧
    (∀ m e, m ≠ 0 → encodeFloat 13 rm (.fin true m e) = (0x3C, fNV)) ∧
    ∀ f ∈ [10, 11, 12, 13], ∀ n m e, m ≠ 0 → (f = 13 → n = false) →
      let v := ratOf (.fin n m e)
      let out := encodeFloat f rm (.fin n m e)
      let val := fun (c : Nat) => ratOf (decodeLane f c)
      let top : ℚ := if f = 10 then 4096 else if f = 11 then 256 else if f = 12 then 4 else 7 / 4
      out.1 < 2 ^ laneBits f ∧ (decodeLane f out.1).isNan = false ∧
        (∀ c < 2 ^ laneBits f, (decodeLane f c).isNan = false → |val out.1 - v| ≤ |val c - v| ∧
          (|val out.1 - v| = |val c - v| → val c ≠ val out.1 → out.1 % 2 = 0)) ∧
        out.2 = (if val out.1 = v then 0 else fNX) ||| (if top < |v| then fOF else 0) ||| (if val out.1 = 0 then fUF else 0))

/-- CVTS takes one draw for all its lanes, and traps at the last index under RSTE (R92 to R94, R141); SCALE multiplies by the scale of its
block and takes a B of E8 or RAW (R145); FMTOF rewrites the code and keeps the bits of the valid lanes that the word of the new code has (R146; that R72 clears the others is log 83). That BAD_FORMAT
stands before RNG_SAT is log 69, and that RNGSAT is a flag of the fire, set as it completes, log 10. A value that the target has
is encoded as it is; one between two neighbours of an IEEE or tapered format, of magnitudes lo and hi, gives hi where the lane's 16 bits of the draw are
below floor(2^16 (v - lo) / (hi - lo)), and else lo, with its sign; a scale c multiplies by 2^(c - 127), and 255 makes NaN (R83). -/
def Obligations.ScaledConversions : Prop :=
  (∀ (f u : Nat) (n : Bool) (m : Nat) (e : Int), f ∈ [7, 8, 9, 10, 11, 12] → u < 2 ^ 16 → m ≠ 0 →
    let x : ℚ := |ratOf (.fin n m e)|
    let mag := fun (c : Nat) => ratOf (decodeLane f c)
    let out := encodeStochastic f u (.fin n m e)
    let code := fun (c : Nat) => if n && (decide (f < 10) || c != 0) then 2 ^ (laneBits f - 1) + c else c
    let top := if f < 10 then ieeeInf f false - 1 else 2 ^ (laneBits f - 1) - 1
    (∀ c ≤ top, x = mag c → out = (code c, 0)) ∧
    (∀ c < top, mag c < x → x < mag (c + 1) → out.2 &&& fNX = fNX ∧
      out.1 = code (if (u : Int) < ⌊2 ^ 16 * (x - mag c) / (mag (c + 1) - mag c)⌋ then c + 1 else c))) ∧
  (∀ x c, scaleBy x 255 = .nan x.isSnan ∧ (c < 255 → ∀ n m e, x = .fin n m e → ratOf (scaleBy x c) = ratOf x * 2 ^ ((c : Int) - 127))) ∧
  ∀ (o : Op) (s : State) (v : Env),
    let c := s.ctx v.e v.k
    let t := o.tact.val
    let w := laneBits v.a.fmt
    let k := min (convValid v.wide v.a) (convLanes v.wide t)
    (Decides (.cvts o) s v →
      let last := decide (c.rngpos.toNat % 2 ^ 24 = 2 ^ 24 - 1)
      let at_ := fun l => encodeStochastic t (drawLane (drawOf c.rngseed c.rngpos) l) (decodeLane v.a.fmt (lane v.a w l).toNat)
      (¬ (7 ≤ v.a.fmt ∧ v.a.fmt ≤ 14) → Traps (.cvts o) s v .badFormat 0 0 0) ∧
      (7 ≤ v.a.fmt ∧ v.a.fmt ≤ 14 → last = true → c.frm.toNat.testBit 8 = true → Traps (.cvts o) s v .rngSat 0 0 0) ∧
      (7 ≤ v.a.fmt ∧ v.a.fmt ≤ 14 → ¬ (last = true ∧ c.frm.toNat.testBit 8 = true) → ∃ r,
        Goes (.cvts o) s v { lat := 3, d1 := some r, d2 := some r, draw := true
                             flags := (flagsOver k fun l => (at_ l).2) ||| (if last then fRNGSAT else 0) } ∧
        IsLanes v.wide (laneBits t) t k (fun l => BitVec.ofNat (laneBits t) (at_ l).1) r)) ∧
    (Decides (.scale o) s v →
      let at_ := fun l => encodeFloat t v.modeRm (scaleBy (decodeLane v.a.fmt (lane v.a w l).toNat) (lane v.b 8 (l / 32)).toNat)
      (¬ (v.b.fmt = 14 ∨ v.b.fmt = 0) ∨ ¬ (7 ≤ v.a.fmt ∧ v.a.fmt ≤ 13) → Traps (.scale o) s v .badFormat 0 0 0) ∧
      (v.b.fmt = 14 ∨ v.b.fmt = 0 → 7 ≤ v.a.fmt ∧ v.a.fmt ≤ 13 → ∃ r,
        Goes (.scale o) s v { lat := 3, d1 := some r, d2 := some r, flags := flagsOver k fun l => (at_ l).2 } ∧
        IsLanes v.wide (laneBits t) t k (fun l => BitVec.ofNat (laneBits t) (at_ l).1) r)) ∧
    (Decides (.fmtof o) s v →
      (v.a.vl ≠ 0 ∧ w ≠ laneBits t → Traps (.fmtof o) s v .badLane 0 0 0) ∧
      (v.a.vl = 0 ∨ w = laneBits t → ∃ r, Goes (.fmtof o) s v { d1 := some r, d2 := some r } ∧ r.fmt = t ∧ r.vl = v.a.vl ∧
        r.bits.toNat = v.a.bits.toNat % 2 ^ (if v.wide = false then laneBits t else
          (let all := if laneBits t = 6 then 504 else 512
           if v.a.vl = 0 then all else min all (v.a.vl * laneBits t)))))

/-- PACK converts the lanes of A and, where A is full in a wide element, those of B after them; UNPACK converts the lanes of A from an offset on,
and traps BAD_LANE past A's valid lanes; a source of the other class traps BAD_FORMAT (R139, R144), whatever the offset (log 84). -/
def Obligations.PacksLanes : Prop :=
  ∀ (o : Op) (s : State) (v : Env),
    let t := o.tact.val
    let va := convValid v.wide v.a
    let lt := convLanes v.wide t
    let full := v.wide = true ∧ va = convLanes v.wide v.a.fmt
    let same := fun f => if 7 ≤ t then 7 ≤ f ∧ f ≤ 14 else 1 ≤ f ∧ f ≤ 6
    let a := fun l => encodeLane t .rne (decodeLane v.a.fmt (lane v.a (laneBits v.a.fmt) l).toNat)
    let b := fun l => encodeLane t .rne (decodeLane v.b.fmt (lane v.b (laneBits v.b.fmt) l).toNat)
    let off := v.b.bits.toNat % 128
    (Decides (.pack o) s v →
      (¬ same v.a.fmt ∨ (full ∧ ¬ same v.b.fmt) → Traps (.pack o) s v .badFormat 0 0 0) ∧
      (same v.a.fmt → ¬ full → ∃ r,
        Goes (.pack o) s v { lat := 2, d1 := some r, d2 := some r, flags := flagsOver (min va lt) fun l => (a l).2 } ∧
        IsLanes v.wide (laneBits t) t (min va lt) (fun l => BitVec.ofNat (laneBits t) (a l).1) r) ∧
      (same v.a.fmt → full → same v.b.fmt → ∃ r,
        let k := min (va + convValid true v.b) lt
        let f := fun l => if l < va then a l else b (l - va)
        Goes (.pack o) s v { lat := 2, d1 := some r, d2 := some r, flags := flagsOver k fun l => (f l).2 } ∧
        IsLanes v.wide (laneBits t) t k (fun l => BitVec.ofNat (laneBits t) (f l).1) r)) ∧
    (Decides (.unpack o) s v →
      (¬ same v.a.fmt → Traps (.unpack o) s v .badFormat 0 0 0) ∧
      (same v.a.fmt → va ≤ off → Traps (.unpack o) s v .badLane 0 off 0) ∧
      (same v.a.fmt → off < va → ∃ r,
        let k := min (va - off) lt
        Goes (.unpack o) s v { lat := 2, d1 := some r, d2 := some r, flags := flagsOver k fun l => (a (off + l)).2 } ∧
        IsLanes v.wide (laneBits t) t k (fun l => BitVec.ofNat (laneBits t) (a (off + l)).1) r))

/-! ## Cross-lane instructions -/

/-- The instructions that move lanes (R148, R153, R154): VBCAST and VEXTR take one valid lane of A and trap BAD_LANE past the last, VINS replaces
one lane of the old value, VPERM and VSLIDE move lanes within the word, VCOMPRESS packs the lanes that B selects, VMASK collects which lanes are
nonzero, VLANEID writes l + B into lane l (R155). Under FA any code of A does; under another MODE a source of another code than the operation format
or RAW traps BAD_FORMAT: A, VINS's old value, and the B of VPERM and VCOMPRESS, which is no lane index from lane 0 (R124, R147). So does VPERM on a format
of fewer than 8 bits. That BAD_FORMAT stands before BAD_LANE is log 84. -/
def Obligations.MovesLanes : Prop :=
  ∀ (o : Op) (s : State) (v : Env),
    let fmt := opFormat o.mode.val v.a.fmt
    let w := laneBits fmt
    let va := v.a.valid w
    let ok := o.mode.val = 0 ∨ Carries fmt v.a
    let okB := o.mode.val = 0 ∨ (Carries fmt v.a ∧ Carries fmt v.b)
    let okOld := o.mode.val = 0 ∨ (Carries fmt v.a ∧ Carries fmt v.old)
    let idx := v.b.bits.toNat % 128
    let full := laneCount w
    let a := lane v.a w
    (∀ i ∈ [Instr.vbcast o, Instr.vextr o, Instr.vslide o, Instr.vmask o], Decides i s v → ¬ ok → Traps i s v .badFormat 0 0 0) ∧
    (∀ i ∈ [Instr.vperm o, Instr.vcompress o], Decides i s v → ¬ okB → Traps i s v .badFormat 0 0 0) ∧
    (Decides (.vins o) s v → ¬ okOld → Traps (.vins o) s v .badFormat 0 0 0) ∧
    (∀ i ∈ [Instr.vbcast o, Instr.vextr o], Decides i s v → ok → va ≤ idx → Traps i s v .badLane 0 idx 0) ∧
    (Decides (.vbcast o) s v → ok → idx < va → ∃ r, Goes (.vbcast o) s v { d1 := some r, d2 := some r } ∧ IsLanes true w fmt full (fun _ => a idx) r) ∧
    (Decides (.vextr o) s v → ok → idx < va → ∃ r, Goes (.vextr o) s v { d1 := some r, d2 := some r } ∧ IsLane0 w fmt (a idx) r) ∧
    (Decides (.vins o) s v → okOld → full ≤ idx → Traps (.vins o) s v .badLane 0 idx 0) ∧
    (Decides (.vins o) s v → okOld → idx < full → ∃ r, Goes (.vins o) s v { d1 := some r, d2 := some r } ∧
      IsLanes true w fmt (max (if v.old.vl = 0 then full else v.old.valid w) (idx + 1)) (fun l => if l = idx then a 0 else lane v.old w l) r) ∧
    (Decides (.vperm o) s v → okB → fmt ∈ [11, 12, 13] → Traps (.vperm o) s v .badFormat 0 0 0) ∧
    (Decides (.vperm o) s v → okB → fmt ∉ [11, 12, 13] → ∃ r, Goes (.vperm o) s v { lat := 2, d1 := some r, d2 := some r } ∧
      IsLanes true w fmt va (fun l => if (lane v.b 8 l).toNat < va then a (lane v.b 8 l).toNat else 0) r) ∧
    (Decides (.vslide o) s v → ok → ∃ r, Goes (.vslide o) s v { d1 := some r, d2 := some r } ∧
      IsLanes true w fmt va (fun l => if 0 ≤ (l : Int) + (lane v.b 8 0).toInt ∧ (l : Int) + (lane v.b 8 0).toInt < va then
        a ((l : Int) + (lane v.b 8 0).toInt).toNat else 0) r) ∧
    (Decides (.vmask o) s v → ok → ∃ r p, Goes (.vmask o) s v { d1 := some r, d2 := some r, pred := p } ∧ r.fmt = 0 ∧ r.vl = 2 ∧
      (∀ j < 512, r.bits.getLsbD j = decide (j < 128 ∧ j < va ∧ a j ≠ 0)) ∧ (p = true ↔ r.bits ≠ 0)) ∧
    (Decides (.vcompress o) s v → okB →
      let l := (List.range va).filter fun l => v.b.bits.getLsbD l
      (l = [] → Goes (.vcompress o) s v { lat := 2 }) ∧
      (l ≠ [] → ∃ r, Goes (.vcompress o) s v { lat := 2, d1 := some r, d2 := some r, pred := true } ∧
        IsLanes true w fmt l.length (fun n => a (l.getD n 0)) r)) ∧
    (Decides (.vlaneid o) s v → 1 ≤ o.mode.val →
      let w := if o.mode.val = 1 then 32 else 16
      ∃ r, Goes (.vlaneid o) s v { d1 := some r, d2 := some r } ∧
        IsLanes true w (if w = 32 then 3 else 0) (512 / w) (fun l => BitVec.ofNat w (l + v.b.bits.toNat % 2 ^ 64)) r)

/-- The reductions (R149 to R152): the fixed tree of A's valid lanes combined with lane 0 of B; the greatest lane with its index; the running
sums; the exact dot product rounded once, its NaN with NV for 0 × ∞ or opposite infinities and its infinity for infinite terms of one sign. Each takes FP32, BF16 or FP16 sources or RAW, and traps BAD_FORMAT on any other. -/
def Obligations.ReducesLanes : Prop :=
  ∀ (o : Op) (s : State) (v : Env),
    let fmt := opFormat o.mode.val v.a.fmt
    let w := laneBits fmt
    let va := v.a.valid w
    let num := decodeIeee fmt
    let a := fun l => (lane v.a w l).toNat
    let b0 := (lane v.b w 0).toNat
    let good := fmt ∈ [7, 8, 9] ∧ Carries fmt v.a
    let tree := fun (op : Nat → Nat → Nat × Flags) => treeReduce op (fun l => if l < va then some (a l) else none) 0 (if w = 32 then 4 else 5)
    let sum := fun (x y : Nat) => sumOut v.rm fmt (num x) (num y) (sigFlag [num x, num y])
    let ops : List (Instr × Nat × (Nat → Nat → Nat × Flags)) :=
      [(.vredadd o, 6, sum), (.vredmax o, 3, minMax (fun x y => x.less y) fmt), (.vredmin o, 3, minMax (fun x y => y.less x) fmt)]
    (∀ i ∈ [Instr.vredadd o, Instr.vredmax o, Instr.vredmin o, Instr.vargmax o, Instr.vscan o, Instr.vdot o],
      Decides i s v → ¬ (good ∧ Carries fmt v.b) → Traps i s v .badFormat 0 0 0) ∧
    (∀ p ∈ ops, Decides p.1 s v → good → Carries fmt v.b →
      ∃ r f, Goes p.1 s v { lat := p.2.1, d1 := some r, d2 := some r, flags := f } ∧
        match tree p.2.2 with
        | some (x, g) => IsLane0 w fmt (BitVec.ofNat w (p.2.2 b0 x).1) r ∧ f = (p.2.2 b0 x).2 ||| g
        | none => IsLane0 w fmt (BitVec.ofNat w (if (num b0).isNan then canonNan fmt else b0)) r ∧ f = if (num b0).isSnan then fNV else 0) ∧
    (Decides (.vargmax o) s v → good → Carries fmt v.b → ∃ l x y f, l ≤ va - 1 ∧ Goes (.vargmax o) s v { lat := 4, d1 := some x, d2 := some y, flags := f } ∧
      IsLane0 w fmt (BitVec.ofNat w (if (num (a l)).isNan then canonNan fmt else a l)) x ∧
      IsLane0 32 4 (BitVec.ofNat 32 (v.b.bits.toNat % 2 ^ 64 + l)) y ∧
      (∀ m ≤ va - 1, ranksAbove (num (a m)) (num (a l)) = false) ∧ (∀ m < l, ranksAbove (num (a l)) (num (a m)) = true) ∧
      (f = 0 ∨ f = fNV) ∧ (f = fNV ↔ ∃ m < va, (num (a m)).isSnan = true)) ∧
    (Decides (.vscan o) s v → good → Carries fmt v.b → ∃ r,
      let acc := fun l => (List.range l).foldl (fun x j => (sum x (a j)).1) b0
      Goes (.vscan o) s v { lat := 8, d1 := some r, d2 := some r, flags := flagsOver va fun l => (sum (acc l) (a l)).2 } ∧
      IsLanes true w fmt va (fun l => BitVec.ofNat w (acc (l + 1))) r) ∧
    (Decides (.vdot o) s v → good → Carries fmt v.b →
      let k := min va (v.b.valid w)
      let x := fun l => num (a l)
      let y := fun l => num (lane v.b w l).toNat
      let old := decodeIeee 7 (lane v.old 32 0).toNat
      let zeroInf := fun (p q : Machine.Num) => (p.isZero = true ∧ ∃ n, q = .inf n) ∨ (q.isZero = true ∧ ∃ n, p = .inf n)
      -- the sum has an infinite term of sign n
      let term := fun (n : Bool) => old = .inf n ∨ ∃ l < k, ∃ i j, n = xor i j ∧
        ((x l = .inf i ∧ (y l = .inf j ∨ ∃ m e, y l = .fin j m e ∧ m ≠ 0)) ∨ (y l = .inf j ∧ ∃ m e, x l = .fin i m e ∧ m ≠ 0))
      ∃ r f, Goes (.vdot o) s v { lat := 6, d1 := some r, d2 := some r, flags := f } ∧ r.fmt = 7 ∧ r.vl = 1 ∧ r.bits.toNat < 2 ^ 32 ∧
        ((old.isNan = true ∨ ∃ l < k, (x l).isNan = true ∨ (y l).isNan = true) → r.bits.toNat = canonNan 7) ∧
        -- 0 × ∞, or infinite terms of both signs; a NaN without either; infinite terms of one sign
        ((∃ l < k, zeroInf (x l) (y l)) ∨ (term true ∧ term false) → r.bits.toNat = canonNan 7 ∧ f = fNV) ∧
        ((old.isNan = true ∨ ∃ l < k, (x l).isNan = true ∨ (y l).isNan = true) → (∀ l < k, ¬ zeroInf (x l) (y l)) → ¬ (term true ∧ term false) →
          f = if old.isSnan = true ∨ ∃ l < k, (x l).isSnan = true ∨ (y l).isSnan = true then fNV else 0) ∧
        (∀ n, old.isNan = false → (∀ l < k, (x l).isNan = false ∧ (y l).isNan = false ∧ ¬ zeroInf (x l) (y l)) → term n → ¬ term (!n) →
          r.bits.toNat = ieeeInf 7 n ∧ f = 0) ∧
        ((∃ n m e, old = .fin n m e) → (∀ l < k, (∃ n m e, x l = .fin n m e) ∧ ∃ n m e, y l = .fin n m e) →
          ∃ q, ratOf q = ratOf old + ((List.range k).map fun l => ratOf (x l) * ratOf (y l)).sum ∧ (r.bits.toNat, f) = encodeFloat 7 v.rm q))


/-! ## The completion of a fire -/

/-- FIRE_COMPLETE (R25, R26, R90): a fire that completes writes its destination registers, DST2 after DST1, its predicate result under RPINV, its
flags into FFLAGS, its special register, and turns its reservations into tokens in the order of the decisions; it leaves flight. A register or
special register that a later fire has written already keeps the later value; what the fire has written, and no register that it left alone,
is taken from the earlier fires of its context that have still to complete. Every other register, and memory but for an ARRIVE or PROBE, is unchanged.
An FRET hands its disposition over, and the record's address leaves FAULTINFO in every context of the handler that has it (R217); that another FRET of the
record in flight then does nothing is log 46. -/
def Obligations.FireCompletes : Prop :=
  ∀ (s : State) (f : Flight) (g : Region) (c : Ctx), s.flight? f.id = some f → s.completable f = true → s.dbg.stopped = false →
    s.region? f.region = some g → (s.elem f.elem).ctxs[f.ctx]? = some c → c.regs.length = 16 →
    let isFret := fun (i : Instr) => match i with | .fret _ => true | _ => false
    let fret := isFret f.instr = true ∧ f.res.sr ≠ none
    -- a special register after the fire: what it writes there, unless a later fire has
    let sr := fun (n : Nat) (old : Word) (put : Word → Word) => match f.res.sr with | some (m, w) => if m = n ∧ 16 + n ∉ f.lost then put w else old | none => old
    let served := fun (e : Nat) (w : Word) => if (s.elem e).region = some f.region ∧ w = f.a then 0 else w
    Answers (.fireComplete f.id) s fun t =>
      (∀ h ∈ t.flights, h.id ≠ f.id) ∧ t.flights.map (·.id) = (s.flights.map (·.id)).filter (· != f.id) ∧
      (∃ d, (t.elem f.elem).ctxs[f.ctx]? = some d ∧
        (∀ n : Fin 16, d.reg n.val =
          match f.dest f.op.d2 f.res.d2, f.dest f.op.d1 f.res.d1 with
          | some (m, y), some (k, x) => if m = n.val then y else if k = n.val then x else c.reg n.val
          | some (m, y), none => if m = n.val then y else c.reg n.val
          | none, some (k, x) => if k = n.val then x else c.reg n.val
          | none, none => c.reg n.val) ∧
        (∀ j : Nat, j < 8 → d.preds.getLsbD j =
          if f.upd.toNat.testBit 12 = true ∧ bits f.upd.toNat 15 13 = j then xor f.res.pred (f.upd.toNat.testBit 11) else c.preds.getLsbD j) ∧
        d.fflags = sr 2 c.fflags (· &&& 0x3F) ||| f.res.flags.setWidth 64 ∧ d.frm = sr 1 c.frm (· &&& 0x103) ∧ d.seqid = sr 6 c.seqid (· &&& 0x7FFF) ∧
        d.rngseed = sr 7 c.rngseed id ∧ d.rngpos = sr 8 c.rngpos id ∧
        (¬ fret → d.faultinfo = sr 10 c.faultinfo id) ∧ (fret → d.faultinfo = served f.elem (sr 10 c.faultinfo id)) ∧
        d.wv = (if 16 ∈ f.lost then c.wv else match f.res.sr, f.res.wv with | some (0, w), _ => w.setWidth 16 | _, some w => w | _, none => c.wv)) ∧
      (∀ n : Nat, ((t.elem f.elem).outs[n]?).map (·.q) = ((s.elem f.elem).outs[n]?).map fun o =>
        if (opOuts f.op f.opc).contains n then
          o.q.flatMap fun x => if x = .rsv f.id then ((f.token n s.tick).toList.map .tok) else [x]
        else o.q) ∧
      ((∀ k n, f.wait ≠ .arrive k n) → (∀ o, f.instr ≠ .probe o) → t.mem = s.mem ∧ t.held = s.held) ∧
      (∀ h ∈ t.flights, ∃ h0 ∈ s.flights, h.id = h0.id ∧
        ((∀ k n, f.wait ≠ .arrive k n) → (∀ o, f.instr ≠ .probe o) →
          (¬ fret → h.res = h0.res) ∧
          (fret → h.res = if h0.region = f.region ∧ h0.a = f.a ∧ isFret h0.instr = true then { h0.res with sr := none } else h0.res) ∧ h.lost = if h0.elem = f.elem ∧ h0.ctx = f.ctx ∧ h0.id < f.id then
          (f.dest f.op.d1 f.res.d1).toList.map (·.1) ++ (f.dest f.op.d2 f.res.d2).toList.map (·.1) ++ (if f.res.wv.isSome then [16] else []) ++
            (match f.res.sr with | some (n, _) => [16 + n] | none => []) ++ h0.lost
          else h0.lost)) ∧
      (¬ fret → ∀ e, e ≠ f.elem → t.elem e = s.elem e) ∧
      (fret → t.faults.dispose = s.faults.dispose ++ [(f.a.toNat, f.b.toNat)] ∧ ∀ e, e ≠ f.elem →
        t.elem e = { s.elem e with ctxs := (s.elem e).ctxs.map fun c => { c with faultinfo := served e c.faultinfo } })

/-- Decisions and completions keep the shape of every element, and reset has it (R12). -/
def Obligations.ShapesKept : Prop :=
  ElementsShaped State.reset ∧
  (∀ (i : Instr) (s t : State), i.parts ≠ none → ElementsShaped s → exec i s = .next t → ElementsShaped t) ∧
  (∀ (f : Nat) (s t : State), ElementsShaped s → exec (.fireComplete f) s = .next t → ElementsShaped t)

/-! ## Memory instructions -/

/-- Loads, stores, chain accesses, atomics, sync requests, prefetches and fences at their decision (R249 to R276): where the address is sound,
each sends one access of its kind, size, data and link, and waits as its rule says. -/
def Obligations.MemoryFiresIssue : Prop :=
  ∀ (o : Op) (s : State) (v : Env),
    let a := v.a.n64
    let b := v.b.bits
    let n := if v.wide then 64 else 8 / 2 ^ o.mode.val
    let m := if o.mode.val = 0 then 8 else 4
    -- what a store stores: the low bytes of B (R255)
    let low : LinkWord := BitVec.ofNat 512 (b.toNat % 2 ^ (8 * n))
    let reply : Go := { wait := .reply }
    let lit := (v.x.active.lits.getD o.tact.val (0, 0)).1.toNat
    let link : Link := { chain := bits lit 31 24, seq := bits lit 23 16, pred := bits lit 15 8, succ := bits lit 7 0, wave := v.c.wv.toNat }
    let scope := fun (sh : Bool) => v.b.n64 % 16 ≤ 10 ∧ v.b.n64 < (if sh then 32 else 16)
    let atomics : List (Instr × Nat) :=
      [(.aadd o, 0), (.amin o, 1), (.amax o, 2), (.aand o, 3), (.aor o, 4), (.axor o, 5), (.axchg o, 6), (.afadd o, 7), (.acas o, 8)]
    let acquires : List (Instr × AccKind) := [(.acq o, .acq), (.acqs o, .acqs)]
    let scratch : List (Instr × AccKind × Go × Bool × LinkWord) := [(.lds o, .lds, reply, false, 0), (.sts o, .sts, {}, true, low)]
    (Decides (.ld o) s v → Sound v n needLoad → Issues (.ld o) s v reply .load a n false 0 none) ∧
    (Decides (.st o) s v → Sound v n needStore → Issues (.st o) s v {} .store a n true low none) ∧
    (Decides (.ldc o) s v → Sound v n needLoad → Issues (.ldc o) s v reply .load a n false 0 (some link)) ∧
    (Decides (.stc o) s v → Sound v n needStore → Issues (.stc o) s v {} .store a n true low (some link)) ∧
    (∀ p ∈ atomics,
      Decides p.1 s v → Sound v m needBoth → Issues p.1 s v reply (.atomic p.2 v.old.w64) a m true b none) ∧
    (Decides (.achn o) s v → Sound v m needBoth → Issues (.achn o) s v reply (.atomic (bits lit 35 32) 0) a m true b (some link)) ∧
    (∀ p ∈ acquires,
      Decides p.1 s v → Sound v 8 needSync → scope false → Issues p.1 s v { wait := .reply, pred := true } p.2 a 8 true b none) ∧
    (Decides (.waitv o) s v → Sound v 8 needWait → Issues (.waitv o) s v { wait := .reply, pred := true } .waitv a 8 false b none) ∧
    (Decides (.pref o) s v → a < 2 ^ 57 → Issues (.pref o) s v {} .pref a 1 false 0 none) ∧
    (Decides (.pref o) s v → 2 ^ 57 ≤ a → Goes (.pref o) s v {}) ∧
    (Decides (.fence o) s v → Goes (.fence o) s v { wait := .fence, pred := true }) ∧
    (Decides (.bounds o) s v → v.b.n64 < 8 → v.b.n64.testBit 2 = true → Goes (.bounds o) s v {}) ∧
    (Decides (.bounds o) s v → v.b.n64 < 4 → a < 2 ^ 57 → a % 32 = 0 →
      Issues (.bounds o) s v { wait := .reply, trapPend := true } .bounds a 32 false b none) ∧
    (Decides (.rel o) s v → Sound v 8 needSync → scope true → Answers (.rel o) s fun t =>
      (∃ x : Access, t.accesses = s.accesses ++ [x] ∧ x.kind = .rel ∧ x.va = a ∧ x.size = 8 ∧ x.wr = true ∧ x.data = b) ∧
        -- the fire keeps the hold states that it gives up, for the case that it traps (R28, R264)
        (let bound := (List.range 4).filter fun j => (v.x.bounds.getD j {}).en && (v.x.bounds.getD j {}).bind && (v.x.bounds.getD j {}).obj == a
         t.flights = (v.commit { wait := .rel, pred := true, trapPend := true }).flights.map fun f =>
           if f.id = s.ids then { f with oldHolds := bound.map fun j => (j, v.c.holds.getD j 0) } else f) ∧
        t.mem = (v.commit { wait := .rel, pred := true, trapPend := true }).mem ∧
        (v.k < 4 → ∀ j < 4, (v.x.bounds.getD j {}).en = true → (v.x.bounds.getD j {}).bind = true → (v.x.bounds.getD j {}).obj = a →
          ((t.ctx v.e v.k).holds.getD j 0) = 0)) ∧
    (Decides (.cnop o) s v → Answers (.cnop o) s fun t =>
      (∃ x : Access, t.accesses = s.accesses ++ [x] ∧ x.kind = .cnop ∧ x.link = some link ∧ x.stage = .toWeir 0 ∧ x.wr = false) ∧
        t.flights = (v.commit {}).flights ∧ t.elems = (v.commit {}).elems ∧ t.mem = (v.commit {}).mem) ∧
    (∀ p ∈ scratch, Decides p.1 s v → a < 2 ^ 30 →
      bits a 23 18 < v.g.hdr.w → bits a 29 24 < v.g.hdr.h → bits a 17 0 + n - 1 < (if v.g.hdr.undo then 0x2C000 else 0x30000) → a % n = 0 →
      Answers p.1 s fun t =>
        (∃ (x : Access) (pa : Nat), t.accesses = s.accesses ++ [x] ∧ x.kind = p.2.1 ∧ x.va = a ∧ x.size = n ∧ x.wr = p.2.2.2.1 ∧ x.data = p.2.2.2.2 ∧ x.stage = .toNode pa ∧
          pa = slicePa (tileKey (v.g.ox + bits a 23 18) (v.g.oy + bits a 29 24)) (bits a 17 0) ∧
          x.due = s.tick + travel (elemTile v.e) (paTile pa) + v.extraLat) ∧
        t.flights = (v.commit p.2.2.1).flights ∧ t.elems = (v.commit p.2.2.1).elems ∧ t.mem = (v.commit p.2.2.1).mem)

/-- The traps of an address at decision (R228, R251, R259, R260, R262): BAD_ADDR from 2^57 on, MISALIGNED off the access's size, then the bounds
records, then the scope word; SCRATCH_RANGE outside the region's scratch space; BAD_BOUNDS for a reserved bit of a BOUNDS. -/
def Obligations.AddressTraps : Prop :=
  ∀ (o : Op) (s : State) (v : Env),
    let a := v.a.n64
    let n := if v.wide then 64 else 8 / 2 ^ o.mode.val
    let m := if o.mode.val = 0 then 8 else 4
    let forms : List (Instr × Nat × Need) :=
      [(.ld o, n, needLoad), (.st o, n, needStore), (.ldc o, n, needLoad), (.stc o, n, needStore), (.aadd o, m, needBoth), (.amin o, m, needBoth),
       (.amax o, m, needBoth), (.aand o, m, needBoth), (.aor o, m, needBoth), (.axor o, m, needBoth), (.axchg o, m, needBoth), (.acas o, m, needBoth),
       (.afadd o, m, needBoth), (.achn o, m, needBoth), (.acq o, 8, needSync), (.acqs o, 8, needSync), (.rel o, 8, needSync), (.waitv o, 8, needWait)]
    (∀ p ∈ forms, Decides p.1 s v →
      (2 ^ 57 ≤ a → Traps p.1 s v .badAddr 0 0 a) ∧
      (a < 2 ^ 57 → a % p.2.1 ≠ 0 → Traps p.1 s v .misaligned 0 0 a) ∧
      (∀ tr, a < 2 ^ 57 → a % p.2.1 = 0 → v.boundsTrap a p.2.1 p.2.2 = some tr → Answers p.1 s fun t =>
        t.faults = (v.trapped tr 0 0 a).faults ∧ t.regions = (v.trapped tr 0 0 a).regions ∧ t.elems = (v.trapped tr 0 0 a).elems ∧
          t.accesses = s.accesses ∧ t.flights = s.flights)) ∧
    (∀ i ∈ [Instr.acq o, .acqs o], Decides i s v → Sound v 8 needSync → 10 < v.b.n64 % 16 ∨ 16 ≤ v.b.n64 → Traps i s v .badScope 0 0 a) ∧
    (Decides (.rel o) s v → Sound v 8 needSync → 10 < v.b.n64 % 16 ∨ 32 ≤ v.b.n64 → Traps (.rel o) s v .badScope 0 0 a) ∧
    (∀ i ∈ [Instr.lds o, .sts o], Decides i s v →
      let lim := if v.g.hdr.undo then 0x2C000 else 0x30000
      let out := 2 ^ 30 ≤ a ∨ v.g.hdr.w ≤ bits a 23 18 ∨ v.g.hdr.h ≤ bits a 29 24 ∨ lim ≤ bits a 17 0 + n - 1
      (out → Traps i s v .scratchRange 0 0 a) ∧ (¬ out → a % n ≠ 0 → Traps i s v .misaligned 0 0 a)) ∧
    (Decides (.bounds o) s v →
      (8 ≤ v.b.n64 → Traps (.bounds o) s v .badBounds 0 0 0) ∧
      (v.b.n64 < 4 → 2 ^ 57 ≤ a → Traps (.bounds o) s v .badAddr 0 0 a) ∧
      (v.b.n64 < 4 → a < 2 ^ 57 → a % 32 ≠ 0 → Traps (.bounds o) s v .misaligned 0 0 a)) ∧
    (∀ (addr size : Nat) (need : Need),
      let on := fun (j : Nat) => (v.x.bounds.getD j {}).en = true ∧ (v.x.bounds.getD j {}).lo ≤ addr ∧ addr + size ≤ (v.x.bounds.getD j {}).hi
      ((∀ b ∈ v.x.bounds, b.en = false) → v.boundsTrap addr size need = none) ∧
      ((∃ b ∈ v.x.bounds, b.en = true) → (∀ j < 4, ¬ on j) → v.boundsTrap addr size need = some .boundsViolation) ∧
      (∀ j < 4, on j → (∀ k < j, ¬ on k) → (∃ b ∈ v.x.bounds, b.en = true) →
        v.boundsTrap addr size need =
          let b := v.x.bounds.getD j {}
          if (need.rd = true ∧ b.rd = false) ∨ (need.wr = true ∧ b.wr = false) then some .boundsViolation
          else if b.bind = true ∧ v.c.holds.getD j 0 < need.hold then some .bindingViolation else none))

/-! ## Work, system, engines, sequences -/

/-- NOTIFY, PARK, BAR, ARRIVE, TASKDONE and LAUNCH at their decision (R218 to R222): what each does where its operands are sound, and its trap where they
are not. -/
def Obligations.WorkInstructions : Prop :=
  ∀ (o : Op) (s : State) (v : Env),
    let a := v.a.n64
    let b := v.b.n64
    let w := s.wake a
    let wide := v.wide
    (Decides (.notify o) s v → 2 ^ 12 ≤ a → Traps (.notify o) s v .badWake 0 0 0) ∧
    (Decides (.notify o) s v → a < 2 ^ 12 → Answers (.notify o) s fun t =>
      (∃ x : Access, t.accesses = s.accesses ++ [x] ∧ x.kind = .notify a ∧ x.data = v.b.bits ∧ x.stage = .toNode 0) ∧ t.flights = (v.commit {}).flights ∧
        t.wakes = s.wakes ∧ t.mem = (v.commit {}).mem) ∧
    (Decides (.park o) s v → 2 ^ 12 ≤ a → Traps (.park o) s v .badWake 0 0 0) ∧
    (Decides (.park o) s v → a < 2 ^ 12 → w.state = 2 → Traps (.park o) s v .wakeBusy 0 0 0) ∧
    (Decides (.park o) s v → a < 2 ^ 12 → w.state = 1 → ∃ x y, IsScalar wide 6 w.val x ∧ IsScalar wide 6 (BitVec.ofNat 64 w.count) y ∧
      Answers (.park o) s fun t => t.flights = (v.commit { d1 := some x, d2 := some y, pred := true }).flights ∧ t.wake a = {}) ∧
    (Decides (.park o) s v → a < 2 ^ 12 → w.state = 0 → Answers (.park o) s fun t =>
      t.flights = (v.commit { pred := true, wait := .park a }).flights ∧ (t.wake a).state = 2 ∧ (t.wake a).fire = s.ids) ∧
    (Decides (.bar o) s v → v.g.hier.length ≤ a → Traps (.bar o) s v .badLevel 0 0 0) ∧
    (Decides (.bar o) s v → a < v.g.hier.length →
      let n := v.c.bars.getD a 0
      let full := ∃ f ∈ s.flightsOf v.e v.k, f.ready = false ∧ ∃ k, f.wait = .bar a k ∧ k + 2 ≤ n
      (full → Traps (.bar o) s v .barOverrun 0 0 0) ∧
      (¬ full → Answers (.bar o) s fun t => t.flights = (v.commit { pred := true, wait := .bar a n }).flights ∧
        (v.k < 4 → a < v.c.bars.length → (t.ctx v.e v.k).bars.getD a 0 = n + 1))) ∧
    (Decides (.arrive o) s v → 2 ^ 12 ≤ a → Traps (.arrive o) s v .badTask 0 0 0) ∧
    (Decides (.arrive o) s v → a < 2 ^ 12 → Goes (.arrive o) s v { wait := .arrive a (if b % 2 ^ 16 = 0 then 1 else b % 2 ^ 16) }) ∧
    (Decides (.taskdone o) s v →
      let last := decide (v.g.ninv ≤ v.c.inv + 1)
      ∃ x, IsScalar wide 6 (if last then BitVec.allOnes 64 else BitVec.ofNat 64 (v.c.inv + 1)) x ∧
        Answers (.taskdone o) s fun t => t.flights = (v.commit { d1 := some x, d2 := some x, pred := last }).flights ∧
          (v.k < 4 → (t.ctx v.e v.k).inv = v.c.inv + 1 ∧ (t.ctx v.e v.k).ended = last)) ∧
    (Decides (.launch o) s v → a % 256 ≠ 0 ∨ 2 ^ 57 ≤ a → Traps (.launch o) s v .badAddr 0 0 a) ∧
    (Decides (.launch o) s v → a % 256 = 0 → a < 2 ^ 57 → Issues (.launch o) s v { wait := .launch a } .launchRec a 256 false 0 none)

/-- The system instructions (R209 to R217): RDSR and WRSR over every special register, with BAD_SR for a reserved number and SR_RO for a register that
may not be written; TICK; PROBE; FRET; YIELD; TRAP. -/
def Obligations.SystemInstructions : Prop :=
  ∀ (o : Op) (s : State) (v : Env),
    let a := v.a.n64
    let b := v.b.n64
    let reg := specialRegister s v.e v.k a
    (∀ i ∈ [Instr.rdsr o, .wrsr o], Decides i s v → reg = none → Traps i s v .badSr 0 0 0) ∧
    (∀ x, Decides (.rdsr o) s v → reg = some x → ∃ r, IsScalar v.wide 6 x r ∧ Goes (.rdsr o) s v { d1 := some r, d2 := some r }) ∧
    (∀ x, Decides (.wrsr o) s v → reg = some x → a ∉ [0, 1, 2, 6, 7, 8] → Traps (.wrsr o) s v .srRo 0 0 0) ∧
    (∀ x, Decides (.wrsr o) s v → reg = some x → a ∈ [0, 1, 2, 6, 7, 8] → ∃ r, IsScalar v.wide 6 x r ∧
      Goes (.wrsr o) s v { d1 := some r, d2 := some r, sr := some (a, v.b.w64) }) ∧
    (Decides (.tick o) s v → ∃ x y, IsScalar v.wide 6 (BitVec.ofNat 64 s.tick) x ∧ IsScalar v.wide 6 (BitVec.ofNat 64 s.tick - v.a.w64) y ∧
      Goes (.tick o) s v { d1 := some x, d2 := some y }) ∧
    (Decides (.probe o) s v → b % 4096 ≠ 0 ∨ 2 ^ 57 ≤ b → Traps (.probe o) s v .badAddr 0 0 b) ∧
    (Decides (.probe o) s v → b % 4096 = 0 → b < 2 ^ 57 → Goes (.probe o) s v {}) ∧
    (Decides (.fret o) s v → v.c.faultinfo = 0 ∨ v.a.w64 ≠ v.c.faultinfo ∨ 3 ≤ b → Traps (.fret o) s v .badFret 0 0 a) ∧
    (Decides (.fret o) s v → v.c.faultinfo ≠ 0 → v.a.w64 = v.c.faultinfo → b < 3 → Goes (.fret o) s v { sr := some (10, 0) }) ∧
    (Decides (.yield o) s v → Answers (.yield o) s fun t => t.flights = (v.commit {}).flights ∧ t.mem = (v.commit {}).mem ∧
      (v.k < 4 → (t.ctx v.e v.k).yieldTo = s.tick + a % 2 ^ 16)) ∧
    (Decides (.trap o) s v → Traps (.trap o) s v .trapUser (a % 2 ^ 16) 0 0)

/-- BRK (R215, R406): where the debugger takes no breaks of its region, or the break has just been resumed, it performs the atomic step alone; else its
region freezes under a BREAK and the fire has none of its effects. -/
def Obligations.BreakInstruction : Prop :=
  ∀ (o : Op) (s : State) (v : Env), Decides (.brk o) s v → (∀ r ∈ s.faults.records, r.id < s.ids) →
    (s.takesBreaks v.g.id = false ∨ v.c.breakPass = some v.j → Answers (.brk o) s fun t =>
      t.flights = (v.commit {}).flights ∧ t.elems = (v.commit {}).elems ∧ t.regions = (v.commit {}).regions ∧ t.faults = s.faults) ∧
    (s.takesBreaks v.g.id = true → v.c.breakPass ≠ some v.j → v.g.faultable = true → v.g.freeze = none → Answers (.brk o) s fun t =>
      t.flights = s.flights ∧ t.dbg.breaks = s.dbg.breaks ++ [s.ids] ∧
      (∃ r : Region, t.region? v.g.id = some r ∧ r.freeze = some (.brk s.ids) ∧ r.freezeAt = s.tick + 1) ∧
      (∃ r : FaultRec, t.record? s.ids = some r ∧ r.code = 0x202 ∧ r.detail = v.a.n64 % 2 ^ 16))

/-- The commands of matrix nodes, copy engines and collective engines at their decision (R321, R322): BAD_UNIT where CLAIM names no claimed unit of the
kind; else the command's own check, whose trap holds A; else the command goes to the unit. A PUBLISH, whose record A names, goes to the region's first
claimed copy engine (log 59: R332 names no unit). -/
def Obligations.EngineCommands : Prop :=
  ∀ (o : Op) (s : State) (v : Env),
    let a := v.a.n64
    let b := v.b.n64
    let forms : List (Instr × Nat × Option Trap) :=
      [(.mload o, 1, mloadCheck a b), (.mswap o, 1, mswapCheck b), (.mstream o, 1, mstreamCheck a b), (.mmode o, 1, mmodeCheck a b),
       (.mdrain o, 1, mdrainCheck a b), (.mclr o, 1, mclrCheck a b), (.rptset o, 1, rptsetCheck a b), (.rptend o, 1, rptendCheck a b),
       (.cpy o, 2, copyCheck a b), (.cpyr o, 2, copyCheck a b), (.cpyg o, 2, copyCheck a b), (.cpys o, 2, copyCheck a b), (.cpym o, 2, copyCheck a b),
       (.freed o, 2, freedCheck a b), (.cpyq o, 2, if b < 16 then none else some .badCmd)]
    let sound := fun (al : Nat) => a < 2 ^ 57 ∧ a % al = 0
    (∀ p ∈ forms, Decides p.1 s v →
      ((v.g.claimed p.2.1)[b % 16]? = none → Traps p.1 s v .badUnit 0 0 0) ∧
      (∀ n, (v.g.claimed p.2.1)[b % 16]? = some n →
        (∀ tr, p.2.2 = some tr → Traps p.1 s v tr 0 0 a) ∧ (p.2.2 = none → SendsTo p.1 s v (256 * p.2.1 + n)))) ∧
    (copyCheck a b = none ↔ b < 16 ∧ sound 64) ∧ (freedCheck a b = none ↔ b < 2 ^ 12 ∧ sound 32) ∧
    (Decides (.publish o) s v → sound 32 → b % 16 ≤ 10 → b < 16 →
      SendsTo (.publish o) s v (512 + ((v.g.claimed 2).head?).getD 0)) ∧
    (Decides (.publish o) s v → 2 ^ 57 ≤ a → Traps (.publish o) s v .badAddr 0 0 a) ∧
    (Decides (.publish o) s v → a < 2 ^ 57 → a % 32 ≠ 0 → Traps (.publish o) s v .misaligned 0 0 a) ∧
    (Decides (.publish o) s v → sound 32 → 10 < b % 16 ∨ 16 ≤ b → Traps (.publish o) s v .badScope 0 0 a) ∧
    (∀ i ∈ [Instr.coll o, .collarg o], Decides i s v →
      (b ≠ 0 → Traps i s v .badCmd 0 0 0) ∧ (b = 0 → 2 ^ 57 ≤ a → Traps i s v .badAddr 0 0 a) ∧
      (b = 0 → a < 2 ^ 57 → a % 64 ≠ 0 → Traps i s v .misaligned 0 0 a) ∧ (b = 0 → sound 64 → SendsTo i s v (1024 + v.g.collOf v.e)))

/-- The sequence instructions at their decision (R342, R343): NO_SEQ without a bound slot, BAD_CMD for a reserved bit of B, BAD_ADDR and MISALIGNED for A
where A is an address; else the command goes to the home of the slot, the context trap-pending. -/
def Obligations.SequenceInstructions : Prop :=
  ∀ (o : Op) (s : State) (v : Env),
    let a := v.a.n64
    let bound := v.c.seqid.getLsbD 14
    let home := 256 * 5 + bits v.c.seqid.toNat 13 0 / 4096
    -- each with the bits of B it defines (none: all), the alignment of A (0: A is no address), and whether A = 0 means something of its own
    let forms : List (Instr × Option Nat × Nat × Bool) :=
      [(.sth o, some 3, 64, false), (.stm o, some 0x73, 8, false), (.stt o, some 3, 0, false), (.stfeed o, some 3, 64, false), (.collapse o, some 3, 64, false),
       (.accept o, none, 64, false), (.gmask o, none, 32, true), (.topn o, none, 64, false), (.tokrec o, some 3, 256, false), (.hallmark o, none, 8, true),
       (.kvfind o, none, 8, false), (.kvins o, none, 8, false), (.posadv o, some 3, 0, false), (.logrec o, some 3, 64, false), (.pqexp o, none, 64, false)]
    ∀ p ∈ forms, Decides p.1 s v →
      let reserved := ∃ m, p.2.1 = some m ∧ v.b.n64 &&& (2 ^ 64 - 1 - m) ≠ 0
      let plain := p.2.2.1 = 0 ∨ (p.2.2.2 = true ∧ a = 0)
      (bound = false → Traps p.1 s v .noSeq 0 0 0) ∧
      (bound = true → reserved → Traps p.1 s v .badCmd 0 0 0) ∧
      (bound = true → ¬ reserved → ¬ plain → 2 ^ 57 ≤ a → Traps p.1 s v .badAddr 0 0 a) ∧
      (bound = true → ¬ reserved → ¬ plain → a < 2 ^ 57 → a % p.2.2.1 ≠ 0 → Traps p.1 s v .misaligned 0 0 a) ∧
      (bound = true → ¬ reserved → plain ∨ (a < 2 ^ 57 ∧ a % p.2.2.1 = 0) → Goes p.1 s v { wait := .unitSend home, trapPend := true })

/-! ## The steps of the fabric -/

/-- The steps that move tokens (R14, R159, R165, R166, R169, R170, R372): a token that reaches an input channel is visible from the next cycle; a token
leaves a router port by every output of its egress set at once; a token leaves its output channel for the local port; an advance word sets
the port's step and passes on, or is absorbed where the set of tag 63 is empty; a swage node repacks a word, which may leave the receiving port 4
cycles later than without the node, and a token that it does not repack follows the word it still holds; that the 4 cycles come with a target format of 0 too,
and that one of several multicast tokens which win a part moves first, is log 85.

The bindings of a solo launch (R31, R32, R34, R35): a feed delivers the value at its address, RAW bits under its format, LAST on the last of a feed
that ends its channel so, or an EOS after the last, whose value 0 is the model's choice (log 79); a sink takes the oldest token of its channel and
stores it; when its buffer is full it notes an overrun, ends the launch OVERRUN unless a HALT has ended it, and freezes its element; a launch that has been quiet for 4,096 cycles ends QUIET. -/
def Obligations.FabricSteps : Prop :=
  (
    ∀ s : State, s.dbg.stopped = false →
      (∀ (e c : Nat) (k : Token) (rest : List Token), Shaped (s.elem e) → c < 4 → ((s.elem e).in_ c).arriving = k :: rest → k.seen ≤ s.tick →
        (s.chanDrained e c = false → (s.elem e).snapped = false → Answers (.tokenArrival e c) s fun t =>
          (t.elem e).in_ c = { (s.elem e).in_ c with arriving := rest, q := ((s.elem e).in_ c).q ++ [{ k with seen := s.tick + 1 }] } ∧
            (∀ h, h ≠ e → t.elem h = s.elem h) ∧ (t.elem e).ctxs = (s.elem e).ctxs ∧ (t.elem e).outs = (s.elem e).outs ∧
            t = { s with elems := t.elems }) ∧
        ((s.elem e).snapped = true → ((s.elem e).in_ c).closed = false → k.tag ≠ 4 → Answers (.tokenArrival e c) s fun t =>
          (t.elem e).in_ c = { (s.elem e).in_ c with arriving := rest, record := ((s.elem e).in_ c).record ++ [k] } ∧ t = { s with elems := t.elems })) ∧
      (∀ (r p i : Nat) (outs : List Nat) (k : RToken), p < 5 → s.front r p = .move i outs → s.nextMover r = some p →
        ((s.router r).port p).buf[i]? = some k → Answers (.routeToken r p) s fun t =>
          ((t.router r).port p).buf = ((s.router r).port p).buf.eraseIdx i ∧ ((t.router r).port p).step = ((s.router r).port p).step ∧
            t.mem = s.mem ∧ t.flights = s.flights ∧ t.regions = s.regions ∧
            (∀ d u q, outs = [d] → d < 4 → neighbour (r / 2) d = some (u, q) → s.boundary (r / 2) u = false →
              (s.router (2 * u + r % 2)).ports.length = 5 → q < 5 →
              ((t.router (2 * u + r % 2)).port q).buf =
                ((s.router (2 * u + r % 2)).port q).buf ++ [{ k with advanced := false, ready := s.tick + linkCycles (r / 2) u }]) ∧
            (∀ o, outs = [8 + o] → o < 32 → Shaped (s.elem (elemKey (r / 2) (o / 4))) →
              ((t.elem (elemKey (r / 2) (o / 4))).in_ (o % 4)).arriving =
                ((s.elem (elemKey (r / 2) (o / 4))).in_ (o % 4)).arriving ++
                  [{ k.tok with val := crossPlane (r % 2 == 1) (isWide (elemKey (r / 2) (o / 4))) k.tok.val, seen := s.tick + 1 }])) ∧
      (∀ (r p i : Nat), p < 5 → s.front r p = .miss i → ((s.router r).port p).miss = false → (s.router r).ports.length = 5 →
        (s.tile (r / 2)).region ≠ none →
        Answers (.routeToken r p) s fun t => ((t.router r).port p).buf = ((s.router r).port p).buf ∧ ((t.router r).port p).miss = true ∧ t.mem = s.mem) ∧
      (∀ (r o g : Nat) (k : Token), o < 24 → s.sourceReady r (8 + o) = true → s.sourceToken r (8 + o) = some k → s.sourceTag r (8 + o) = some g →
        (s.router r).ports.length = 5 → Shaped (s.elem (elemKey (r / 2) (o / 4))) → Answers (.routeToken r (8 + o)) s fun t =>
          ((t.router r).port 4).buf =
            ((s.router r).port 4).buf ++ [{ tok := { k with org := .chan (elemKey (r / 2) (o / 4)) (o % 4) }, rtag := g, plane := (s.tile (r / 2)).plane, advanced := false, ready := s.tick + 1 }] ∧
          ((t.elem (elemKey (r / 2) (o / 4))).out (o % 4)).q = ((s.elem (elemKey (r / 2) (o / 4))).out (o % 4)).q.tail ∧ t.mem = s.mem) ∧
      (∀ (r p : Nat) (k : RToken) (rest : List RToken), ((s.router r).port p).buf = k :: rest → k.rtag = 63 → k.advanced = false → k.ready ≤ s.tick →
        Answers (.advanceWord r p) s fun t =>
          let q := (s.router r).port p
          let v := k.tok.val.n64
          let n := if q.prog.length = 0 then 1 else q.prog.length
          let st := if v.testBit 4 then v % 16 % n else (q.step + 1) % n
          ((t.router r).port p).step = st ∧
            ((t.router r).port p).buf = (if ((q.prog.getD st []).getD 63 0) % 64 = 0 then rest else { k with advanced := true } :: rest) ∧
            t = { s with tiles := t.tiles }) ∧
      (∀ (r p key : Nat) (w : Swage) (k : RToken) (rest : List RToken), s.swageKeyOf r p = some key → tget s.swages key {} = w → w.outq = [] →
        w.inq = k :: rest → k.ready ≤ s.tick → Answers (.swageRepack r p) s fun t =>
          tget t.swages key {} = { tfmt := k.tfmt, inq := rest, lanes := (swageStep w k.tfmt k.tok).2
                                   outq := (swageStep w k.tfmt k.tok).1.map fun x => { k with tok := x, ready := s.tick + 3 } } ∧
            t = { s with swages := t.swages } ∧
            (¬ (k.tfmt ≠ 0 ∧ k.tok.val.fmt ∈ [10, 11, 12] ∧ k.tok.tag ∉ [2, 3, 4]) →
              (tget t.swages key {}).lanes = [] ∧
                (tget t.swages key {}).outq.map (·.tok) = (if w.lanes = [] then [] else [swageWord w.tfmt w.lanes 0 k.tok.org]) ++ [k.tok])) ∧
      (∀ (r p key : Nat) (w : Swage) (k : RToken) (rest : List RToken), s.swageKeyOf r p = some key → tget s.swages key {} = w → w.outq = k :: rest →
        k.ready ≤ s.tick → s.portLoad r p < 4 → s.awake (r / 2) = true → (s.tile (r / 2)).region ≠ none → tget (s.router r).sent (200 + p) 0 ≠ s.tick + 1 →
        (s.router r).ports.length = 5 → p < 5 → Answers (.swageRepack r p) s fun t =>
          ((t.router r).port p).buf = ((s.router r).port p).buf ++ [{ k with plane := (s.tile (r / 2)).plane, ready := s.tick + 1 }] ∧
            tget t.swages key {} = { w with outq := rest } ∧ tget (t.router r).sent (200 + p) 0 = s.tick + 1 ∧ t.mem = s.mem ∧ t.elems = s.elems) ∧
      -- a word waits where the link has carried one in this cycle, the port has no room, or no region holds the tile (R160, R169)
      (∀ (r p key : Nat) (w : Swage), s.swageKeyOf r p = some key → tget s.swages key {} = w →
        4 ≤ s.portLoad r p ∨ (s.tile (r / 2)).region = none ∨ tget (s.router r).sent (200 + p) 0 = s.tick + 1 →
        Answers (.swageRepack r p) s fun t => t = { s with swages := t.swages })) ∧
  (
    ∀ s : State,
      (∀ (e c i : Nat) (g : Region), Shaped (s.elem e) → c < 4 → s.regionOf e = some g → g.bindOf false c = some i → s.feedReady e c g i = true →
        let b := g.bind i
        let size := if isWide e then 64 else 8
        (b.count ≤ b.next → Answers (.feedDeliver e c) s fun t =>
          ((t.elem e).in_ c).q = ((s.elem e).in_ c).q ++ [{ val := {}, tag := 2, seen := s.tick + 1 }] ∧ t.mem = s.mem) ∧
        (∀ (p : Nat) (s1 : State), b.next < b.count → s.translate (.region g.hdr.gid) (b.addr + size * b.next) false false false = (.pa p, s1) →
          s1.poisoned p size = false → Answers (.feedDeliver e c) s fun t =>
            ((t.elem e).in_ c).q = ((s1.elem e).in_ c).q ++
              [{ val := { bits := BitVec.ofNat 512 (leNat (s1.viewFor g.id (b.addr + size * b.next) p size)), fmt := b.fmt, vl := if b.next + 1 = b.count then b.vlast else 0 }
                 tag := if b.fin = 0 ∧ b.next + 1 = b.count then 1 else 0, seen := s1.tick + 1 }] ∧
              t.mem = s1.mem)) ∧
      (∀ (e c i : Nat) (g : Region) (k : Token), Shaped (s.elem e) → c < 4 → s.regionOf e = some g → ((s.elem e).out c).front s.tick = some k →
        g.bindOf true c = some i → s.sinkReady e c g i = true →
        let b := g.bind i
        let size := if isWide e then 64 else 8
        (b.count ≤ b.moved → g.ending = none → Answers (.sinkStore e c) s fun t =>
          ((t.elem e).out c).q = ((s.elem e).out c).q.tail ∧ (t.elem e).frozen = true ∧
            (∃ r : Region, t.region? g.id = some r ∧ r.ending = some (5, 0, 0) ∧ (r.bind i).overrun = true) ∧ t.mem = s.mem) ∧
        (b.count ≤ b.moved → g.ending ≠ none → Answers (.sinkStore e c) s fun t =>
          ((t.elem e).out c).q = ((s.elem e).out c).q.tail ∧
            (∃ r : Region, t.region? g.id = some r ∧ r.ending = g.ending ∧ (r.bind i).overrun = true) ∧ t.mem = s.mem ∧ t.held = s.held) ∧
        (∀ (p : Nat) (s1 : State), b.moved < b.count → s.translate (.region g.hdr.gid) (b.addr + size * b.moved) true false false = (.pa p, s1) →
          isHbm p = false → Answers (.sinkStore e c) s fun t =>
            let d := if k.tag = 2 then List.replicate size 0 else natLe size k.val.bits.toNat
            ((t.elem e).out c).q = ((s1.elem e).out c).q.tail ∧ (NoWaiters s1 → t.mem = memWrite s1.mem p d) ∧
              (MemoryCanonical s1 → SameMemory s1 t fun a => (p ≤ a ∧ a < p + size) ∨ Served s1 a))) ∧
      (∀ (gi : Nat) (g : Region), s.region? gi = some g → s.dbg.stopped = false → g.solo = true → g.live = true → g.freeze = none → g.ending = none →
        0 < g.started → g.lastFire + 4096 ≤ s.tick →
        (∀ x ∈ s.regionElems gi, (∀ c ∈ x.2.ins, c.q = [] ∧ c.arriving = [] ∧ c.record = []) ∧ ∀ c ∈ x.2.outs, c.q = []) →
        (∀ b ∈ g.binds, b.en = true → b.sink = false → b.total ≤ b.next) → (∀ f ∈ s.flights, f.region ≠ gi) →
        Answers (.soloQuiet gi) s fun t => t.region? gi = some { g with ending := some (3, 0, 0) } ∧ t.mem = s.mem ∧ t.elems = s.elems))


/-! ## The steps of the scheduler -/

/-- The ebb, the swap, boundaries and a HALT (R179 to R186, R193, R224, R230): an EBB at a head is dequeued and counted, but in a frozen element (R111); an element that meets R180 is
drained and places the EBBs that are due; a clear tile swaps to its shadows, every register, predicate and fairness counter of a loaded
element at its reset value and its initial tokens placed, its local part zero and unpoisoned where the last occupant had another GRAPHID, 3,072
cycles from when the tile is clear; a boundary performs the stores held for it; a HALT whose conditions hold passes the boundaries of the
invocations that are open and ends its launch HALTED with every channel of its elements empty. -/
def Obligations.DrainSteps : Prop :=
  ∀ s : State, s.dbg.stopped = false →
    (∀ (e c : Nat) (k : Token) (rest : List Token), Shaped (s.elem e) → c < 4 → ((s.elem e).in_ c).q = k :: rest → k.tag = 3 → k.seen ≤ s.tick →
      (s.elem e).loaded = true → (s.elem e).snapped = false → (s.elem e).frozen = false → Answers (.ebbDrain e c) s fun t =>
        (((t.elem e).in_ c).q.map fun x => (x.val, x.tag)) = (rest.map fun x => (x.val, x.tag)) ∧
          (∀ x ∈ ((t.elem e).in_ c).q.head?, s.tick < x.seen) ∧ ((t.elem e).in_ c).ebbs = ((s.elem e).in_ c).ebbs + 1 ∧
          (t.elem e).ctxs = (s.elem e).ctxs ∧ t = { s with elems := t.elems }) ∧
    (∀ e c : Nat, (s.elem e).frozen = true → Answers (.ebbDrain e c) s fun t => t = s) ∧
    (∀ (e : Nat) (g : Region), s.regionOf e = some g → (s.elem e).loaded = true → (s.elem e).drained = false → (s.elem e).snapped = false →
      s.frozen g = false → s.drainable e g = true → Answers (.elementDrained e) s fun t =>
        (t.elem e).drained = true ∧ (t.elem e).ins = (s.elem e).ins ∧ (t.elem e).ctxs = (s.elem e).ctxs ∧
          (∀ n : Nat, ((t.elem e).outs[n]?).map (·.q) = ((s.elem e).outs[n]?).map fun x =>
            if n ∈ g.wiredOuts e ∧ x.ebbed = none then x.q ++ [.tok { val := {}, tag := 3, seen := s.tick }] else x.q) ∧
          t = { s with elems := t.elems }) ∧
    (∀ (x : Nat) (g : Region), s.swapReady x = some g → (s.tile x).clearTill = none →
      (s.tile x).lastGid = none ∨ (s.tile x).lastGid = some g.hdr.gid → Answers (.tileSwap x) s fun t =>
        (t.tile x).plane = !(s.tile x).plane ∧ (t.tile x).region = some g.id ∧ (t.tile x).shadowOf = none ∧ (t.tile x).startAt = s.tick + 2 ∧
          (∀ p ∈ (t.tile x).narrow.ports ++ (t.tile x).wide.ports, p.step = 0) ∧ t.mem = s.mem ∧
          (∀ j < 6, ∀ p, (s.elem (elemKey x j)).shadow = some p →
            let y := t.elem (elemKey x j)
            y.active = p ∧ y.loaded = true ∧ y.region = some g.id ∧
              (∀ k < 4, (y.ctx k).preds = 0 ∧ (∀ n < 16, (y.ctx k).reg n = {}) ∧ (y.ctx k).fair = List.replicate 16 0 ∧ (y.ctx k).frm = 0) ∧
              ∀ c < 4, (y.in_ c).q.map (fun k => (k.val, k.tag)) = (p.inits.filter (·.chan == c)).map fun z => (z.tok.val, z.tok.tag)) ∧
          (∀ j < 6, (s.elem (elemKey x j)).shadow = none → (t.elem (elemKey x j)).loaded = false)) ∧
    (∀ (x gid : Nat) (g : Region), (s.tile x).shadowOf.bind s.region? = some g → (s.tile x).lastGid = some gid → gid ≠ g.hdr.gid →
      ((s.tile x).clearTill = none → s.tileClear x = true → g.freeze = none → (∀ o, (s.tile x).region.bind s.region? = some o → o.freeze = none) →
        Answers (.tileSwap x) s fun t => (t.tile x).clearTill = some (s.tick + 3072) ∧ t = { s with tiles := t.tiles }) ∧
      (s.swapReady x = some g → ∀ c, (s.tile x).clearTill = some c → c ≤ s.tick → MemoryCanonical s → Answers (.tileSwap x) s fun t =>
        (t.tile x).region = some g.id ∧ (t.tile x).plane = (!(s.tile x).plane) ∧
          (∀ b ∈ t.poison, 64 * b < slicePa x 0 ∨ slicePa x 0x30000 ≤ 64 * b) ∧
          ∀ a, memGet t.mem a = if slicePa x 0 ≤ a ∧ a < slicePa x 0x30000 then 0 else memGet s.mem a)) ∧
    (∀ (gi : Nat) (g : Region), s.region? gi = some g → s.boundaryReady g = true → Answers (.invocationBoundary gi) s fun t =>
      t.region? gi = some { g with passed := g.passed + 1, boundaryAt := s.tick } ∧
        -- its held stores perform in order, but for the bytes that later writes have superseded (R185, R284; log 77)
        (NoWaiters s → t.mem = (s.held.filter fun h => h.region == gi && decide (h.inv ≤ g.passed)).foldl (fun m h =>
          ((List.range h.bytes.length).filter fun i => !h.dead.contains i).foldl (fun m i => memPut m (h.pa + i) (h.bytes.getD i 0)) m) s.mem) ∧
        (MemoryCanonical s → SameMemory s t fun a => Served s a ∨ ∃ h ∈ s.held, h.region = gi ∧ h.inv ≤ g.passed ∧ h.covers a = true) ∧
        (t.held.map fun h => { h with dead := [] }) =
          ((s.held.filter fun h => !(h.region == gi && decide (h.inv ≤ g.passed))).map fun h => { h with dead := [] }) ∧
        t.undo = (s.undo.filter fun u => !(u.region == gi && decide (u.inv ≤ g.passed))) ∧ t.elems = s.elems) ∧
    (∀ (gi : Nat) (g : Region), s.region? gi = some g → s.boundaryReady g = false → s.injectReady g = true → Answers (.invocationBoundary gi) s fun t =>
      t.region? gi = some { g with injected := true } ∧ t.mem = s.mem ∧ t.held = s.held) ∧
    (∀ (gi code a b : Nat) (g : Region), s.region? gi = some g → g.halt = some (a, code, b) → s.haltDone g = true →
      Answers (.haltComplete gi) s fun t =>
        (∃ r : Region, t.region? gi = some r ∧ r.ending = some (2, code, 0) ∧
          -- the boundaries of the open invocations pass: up to the last that a context has begun (R183, R186)
          let begun := ((s.regionElems gi).flatMap fun p => p.2.active.contexts.map fun k => (p.2.ctx k).inv + 1).foldl max (g.passed + 1)
          r.passed = max g.passed (min begun (min (g.passed + g.invwin) g.ninv))) ∧
          (∀ f ∈ t.flights, f.region ≠ gi) ∧ ∀ e, (s.elem e).region = some gi → (s.elem e).loaded = true →
            (∀ c ∈ (t.elem e).ins, c.q = []) ∧ ∀ c ∈ (t.elem e).outs, c.q = [])

/-- The ends of a launch (R33, R34, R193, R194, R199, R200, R203, R205): a launch that has run dry, or whose end has come, completes: it and its region
are gone, its id is FREE, its block stands at STATUS; BUDGET ticks after its first fire a timed launch ends with BUDGET and the stores of
its open invocations are dropped; the detectors freeze a region under a record of their own, be it that a HALT of it waits; a released reservation is FREE.
That an access buffered at a weir counts for HANG as a token that remains is log 45 (from R203, R205 and R277). -/
def Obligations.EndSteps : Prop :=
  ∀ s : State, s.dbg.stopped = false →
    (∀ (gi : Nat) (g : Region) (l : Launch) (st : Nat × Nat × Nat), s.region? gi = some g → s.launch? g.launch = some l → g.nextWord = none →
      (g.ending = some st ∧ s.finishable g st = true) ∨ (g.ending = none ∧ s.ranDry g = true ∧ s.blockMoves g = false ∧ st = (1, 0, 0)) →
      l.handler = none → l.lrec.timed = false → Answers (.launchComplete gi) s fun t =>
        t.launch? l.id = none ∧ t.region? gi = none ∧ (l.lrec.named = true → (t.task l.lrec.taskid).state = .free) ∧
          (l.lrec.named = true → l.lrec.nexten = false → (t.task l.lrec.taskid).counter = 0) ∧
          (∀ p, MemoryCanonical s → NoWaiters s → g.solo = false → s.faults.saves = [] → (∀ x ∈ s.seq.slots, gi ∉ x.2.users) → s.migrates l.lrec.status = false → l.lrec.status % 64 = 0 → l.lrec.status < 2 ^ 57 →
            (s.translate (agentBy l.agent) l.lrec.status true false false).1 = .pa p →
            memRead t.mem p 64 = blockBytes st.1 l.lrec.taskid st.2.1 (g.first.getD 0) s.tick (if st.1 = 4 ∨ st.1 = 11 then st.2.2 else 0) g.passed)) ∧
    (∀ (gi : Nat) (g : Region), s.region? gi = some g → g.ending = none → s.ranDry g = false → s.soloDone g = true →
      Answers (.launchComplete gi) s fun t => t.region? gi = some { g with ending := some (1, 0, 0) } ∧ t.mem = s.mem) ∧
    (∀ (gi f : Nat) (g : Region) (l : Launch), s.region? gi = some g → s.launch? g.launch = some l → l.lrec.timed = true → l.handler = none →
      g.first = some f → g.ending = none ∨ (∃ st, g.ending = some st ∧ st.1 ∈ [1, 2, 3, 5]) → f + l.lrec.budget ≤ s.tick → Answers (.budgetExpiry gi) s fun t =>
        t.region? gi = some { g with ending := some (6, 0, 0) } ∧ t.mem = s.mem ∧ (∀ h ∈ t.held, h.region = gi → h.inv < g.passed)) ∧
    (∀ (gi : Nat) (g : Region), s.region? gi = some g → g.live = true → g.freeze = none → g.ending = none → 0 < g.started →
      let frozen := fun (t : State) (code : Nat) =>
        (∃ k, (∃ r : Region, t.region? gi = some r ∧ r.freeze = some (.fault k) ∧ r.freezeAt = s.tick + 1) ∧
          ∃ r : FaultRec, t.record? k = some r ∧ r.code = code) ∧ t.elems = s.elems
      let buffered := ∃ x ∈ s.chains, x.region = gi ∧ x.buffered ≠ []
      (∀ r ∈ s.faults.records, r.id < s.ids) →
      (g.solo = false → g.lastFire + g.qwin ≤ s.tick → s.tokenRemains g = true → s.busyRegion g = false →
        Answers (.quiescentIncomplete gi) s fun t => frozen t 0x603) ∧
      (g.lastFire + g.hangTicks ≤ s.tick → s.tokenRemains g = true ∨ buffered → Answers (.hang gi) s fun t => frozen t 0x604)) ∧
    (∀ (li : Nat) (l : Launch), s.launch? li = some l → l.lrec.releases = true → l.state = .waiting → (s.task l.lrec.taskid).state = .reserved →
      (s.task l.lrec.taskid).pending = [] → s.reservationBusy l.lrec.taskid = false → l.lrec.nexten = false →
      Answers (.preloadRelease li) s fun t =>
        (t.task l.lrec.taskid).state = .free ∧ (t.task l.lrec.taskid).counter = 0 ∧ t.launch? l.id = none ∧
          (∀ g, s.reservation l.lrec.taskid = some g → t.region? g.id = none))

/-- The host's registers (R8, R187, R188, R239, R241, R243, R246, R277, R362, R409, R412): ignored before READY; QTAIL and the ring counts, with their
range; QCFG and the rings' configuration words, whose EN from 0 to 1 sets both counts to 0, the fault queue then taking what has waited for it; QSTAT and XMIGST, cleared by ones; the plain
registers under their guards; XINV, XRESOLVE, XACK, the migration registers and FRREL. What XRESOLVE counts as the page is log 83. -/
def Obligations.RegisterSteps : Prop :=
  ∀ (s : State) (v : Word),
    (∀ q off : Nat, s.mgmt.ready = false →
      let forms : List Instr := [.qtailWrite q v, .queueEnable q v, .queueDisable q v, .qstatClear q v, .ringCountWrite off v, .ringEnSet off v,
        .xmigstClear v, .xack v, .xinv v, .xresolve v, .migrationStart v]
      (∀ i ∈ forms, exec i s = .next s) ∧ (barBlock off ≠ 6 → exec (.registerWrite off v) s = .next s)) ∧
    (s.mgmt.ready = true →
      (∀ q < 64,
        let x := s.queue q
        let log := bits v.toNat 5 1
        let n := v.setWidth 32
        Answers (.qtailWrite q v) s (fun t =>
          (x.en = true → x.sized = true → t.queue q = if (n - x.head).toNat ≤ 2 ^ x.logsz then { x with tail := n } else { x with ovf := true }) ∧
            (x.en = false → t = s) ∧ t = { s with queues := t.queues } ∧ ∀ p, p ≠ q → t.queue p = s.queue p) ∧
        (v.toNat.testBit 0 = true → Answers (.queueEnable q v) s fun t =>
          (t.queue q = if log < 4 ∨ 12 < log ∨ x.base.toNat % 4096 ≠ 0 then { x with cfg := v &&& 0xFF, badcfg := true }
            else if x.en = true then { x with cfg := v &&& 0xFF } else { x with cfg := v &&& 0xFF, tail := 0, head := 0 }) ∧
          t = { s with queues := t.queues }) ∧
        (v.toNat.testBit 0 = false → Answers (.queueDisable q v) s fun t =>
          t.queue q = { x with cfg := v &&& 0xFF } ∧ t = { s with queues := t.queues }) ∧
        Answers (.qstatClear q v) s (fun t =>
          (t.queue q).nomap = (x.nomap && !v.toNat.testBit 2) ∧ (t.queue q).ovf = (x.ovf && !v.toNat.testBit 1) ∧
            (t.queue q).badcfg = (x.badcfg && !v.toNat.testBit 0) ∧ (t.queue q).tail = x.tail ∧ (t.queue q).head = x.head) ∧
        Answers (.registerWrite (0x10000 + 0x40 * q) v) s (fun t => t.queue q = if x.en = true then x else { x with base := v })) ∧
      (∀ off, Answers (.registerWrite off v) s fun t => t.mem = s.mem ∧ t.elems = s.elems ∧ t.regions = s.regions ∧ t.launches = s.launches ∧ t.accesses = s.accesses) ∧
      Answers (.registerWrite 0x20000 v) s (fun t => t.xl.ptroot = if s.launchRuns = true then s.xl.ptroot else v) ∧
      Answers (.registerWrite 0x30000 v) s (fun t => t.gapwin = BitVec.ofNat 64 (v.toNat % 2 ^ 32)) ∧
      (∀ off ∈ [0x20018, 0x20060, 0x40008, 0x41008, 0x41028], Answers (.ringEnSet off v) s fun t =>
        let ring := fun (u : State) => if off = 0x20018 then u.xl.fq else if off = 0x20060 then u.xl.mq else if off = 0x40008 then (u.engine 0).sp
          else if off = 0x41008 then (u.frame 0).fp else (u.frame 0).rf
        (ring t).cfg = BitVec.ofNat 64 (v.toNat % 2 ^ 6) ∧
          (v.toNat.testBit 0 = true → (ring s).en = false → (ring t).head = 0 ∧
            (ring t).tail.toNat = if off = 0x20018 then min s.xl.fqWait.length (2 ^ bits v.toNat 5 1) else 0)) ∧
      Answers (.ringCountWrite 0x20070 v) s (fun t =>
        let n := v.setWidth 32
        t.xl.mq = if (s.xl.mq.tail - n).toNat ≤ 2 ^ s.xl.mq.logsz then { s.xl.mq with head := n } else s.xl.mq) ∧
      Answers (.xmigstClear v) s (fun t => t.xl.migErr = (s.xl.migErr && !v.toNat.testBit 2) ∧ t.xl.migDone = (s.xl.migDone && !v.toNat.testBit 1)) ∧
      Answers (.xack v) s (fun t => t.mem = s.mem ∧ t.xl.cache = s.xl.cache ∧ (∀ n, n ∈ t.xl.queued ↔ n ∈ s.xl.queued ∧ n ≠ s.leafPage v.toNat) ∧
        ∀ x, s.lookup v.toNat false = .leaf x → x.page ∉ t.xl.queued) ∧
      Answers (.xinv v) s (fun t => t.xl.xinvDone = false ∧ t.mem = s.mem ∧
        (∀ x, x ∈ t.xl.cache ↔ x ∈ s.xl.cache ∧ ¬ (x.covers (bits v.toNat 56 12 * 4096) = true ∧ x.own = s.owner (bits v.toNat 56 12 * 4096)))) ∧
      ((∀ a ∈ s.accesses, s.waitsFor a v.toNat = false) → Answers (.xresolve v) s fun t =>
        t.accesses = (s.accesses.map fun a => match a.stage with | .withheld _ _ => if s.samePage v.toNat a.va = true then { a with asked := true } else a | _ => a) ∧
          t.mem = s.mem ∧ ∀ r ∈ t.faults.records, r.pend = true → s.samePage v.toNat r.addr = true → r.resolved = true) ∧
      (∀ (a : Access) (cd since p : Nat), s.accesses = [a] → a.stage = .withheld cd since → cd = 0x301 ∨ cd = 0x302 → s.samePage v.toNat a.va = true →
        a.kind = .load → a.wr = false → a.core = none → a.link = none → (s.translate (s.agentFor a) a.va false true false).1 = .pa p → isHostWin p = false →
        Answers (.xresolve v) s fun t => ∃ b : Access, t.accesses = [b] ∧ b.id = a.id ∧ b.stage = .toNode p) ∧
      (s.xl.mig = none → Answers (.migrationStart v) s fun t => t.xl.migErr = s.xl.migErr ∧
        ∃ m : Migration, t.xl.mig = some m ∧ m.va = s.xl.xmigva.toNat % 2 ^ 57 ∧ m.newFrame = v.toNat ∧ m.published = false) ∧
      (s.xl.mig ≠ none → Answers (.migrationStart v) s fun t => t.xl.migErr = true ∧ t.xl.mig = s.xl.mig)) ∧
    Answers (.frrel v) s (fun t => t.faults.used = s.faults.used.erase v.toNat ∧ t.mem = s.mem ∧ t.faults.records = s.faults.records)

/-- Decode, placement and loads (R188, R190, R191, R192, R199, R201, R223): the decoder copies the 256 bytes at QHEAD and QHEAD advances; 144 ticks later it checks
them, and a refused record leaves only its block; a record that passes is READY or WAITING; a READY launch is placed at the first origin, in
row-major order, that serves it, its image in the shadow planes after 360 ticks and its cold load, a follow-on's as the shadows free, unless an abandoned load waits for the network (R195,
log 41); a launch that no origin can serve is refused and its id is FREE; a loaded launch may swap 288 ticks later, a follow-on at once; a loaded PRELOAD
leaves its id RESERVED. The exact 144 ticks are log 51, the 360 and 288 log 52: the spec gives bounds. -/
def Obligations.LaunchSteps : Prop :=
  ∀ s : State, s.dbg.stopped = false →
    (∀ (q : Nat) (b : List Byte) (u : State), s.decoder.copy = none → s.markNomap.nextSource = some q → q < 64 →
      s.markNomap.readAs .mgmt 0 (s.markNomap.queue q).record 256 = (some b, u) → Answers .launchDecode s fun t =>
        (∃ c : Copied, t.decoder = { last := q, copy := some c } ∧ c.src = q ∧ c.bytes = b ∧ c.agent = none ∧ c.since = u.tick ∧
          c.minc = bits (s.queue q).cfg.toNat 7 6) ∧
        (t.queue q).head = (u.queue q).head + 1 ∧ t.launches = s.launches) ∧
    (∀ c : Copied, s.decoder.copy = some c → c.since + 144 ≤ s.tick →
      let r := readLaunch c.bytes
      (Answers .launchDecode s fun t => t.decoder = { s.decoder with copy := none } ∧ t.regions = s.regions ∧ t.elems = s.elems ∧
        (t.launches = s.launches ∨ ∃ l : Launch, t.launches = s.launches ++ [l] ∧ l.lrec = r ∧ l.agent = c.agent)) ∧
      (launchReserved c.bytes = false ∨ r.sound c.minc = false → Answers .launchDecode s fun t => t.launches = s.launches ∧ t.tasks = s.tasks ∧
        ∀ p, MemoryCanonical s → NoWaiters s → s.migrates r.status = false → r.status % 64 = 0 → r.status < 2 ^ 57 → (s.translate (agentBy c.agent) r.status true false false).1 = .pa p →
          memRead t.mem p 64 = blockBytes 7 r.taskid 0x100 0 s.tick 0 0) ∧
      (∀ (b : List Byte) (u : State), launchReserved c.bytes = true → r.sound c.minc = true → r.soloSound = true → s.idFree r = true → r.named = false →
        r.releases = false → r.timed = false → (∀ k, c.issuer = some k → k ≤ r.cls) →
        ({ s with decoder := { s.decoder with copy := none } }).imageAt c.reader c.region r.image = (some b, u) → imageRefusal b r.image = none →
        ((r.hier.getD 0 0).toNat.testBit 8 = true → hierOk r.hier = true) → u.edgeOk (edgeOf r (readImage b r.image).header) (readImage b r.image).header.rank = true →
        Answers .launchDecode s fun t => ∃ l : Launch, t.launches = s.launches ++ [l] ∧ l.lrec = r ∧ l.img = readImage b r.image ∧ l.state = .ready u.tick)) ∧
    (∀ (li : Nat) (l : Launch), s.launch? li = some l → s.readyNow l = true → l.lrec.timed = false → l.handler = none →
      s.leader l.lrec l.img = none →
      -- the place: of a PHINT the named origin, else the first in row-major order that serves (R201)
      (∀ ox oy : Nat, s.placing l.lrec l.img = .place ox oy →
        let g := newRegion s.ids l ox oy (if l.lrec.preload then 1 else l.lrec.cls)
        s.fit l.img ox oy 0 = .ok ∧ ox + g.hdr.w ≤ 64 ∧ oy + g.hdr.h ≤ 64 ∧
          (∀ x ∈ g.tiles, (s.tile x).powerOff = false ∧ ∀ o ∈ s.regions, o.id ≠ 0 → o.holds x = false) ∧
          (l.lrec.phint = true → ox = l.lrec.ox ∧ oy = l.lrec.oy) ∧
          (l.lrec.phint = false → ∀ x y : Nat, x < 64 → y < oy ∨ (y = oy ∧ x < ox) → s.fit l.img x y 0 ≠ .ok)) ∧
      (∀ ox oy : Nat, s.placing l.lrec l.img = .place ox oy → s.netHeld l (newRegion s.ids l ox oy l.lrec.cls) = true → Answers (.launchPlace li) s fun t => t = s) ∧
      (∀ ox oy : Nat, s.placing l.lrec l.img = .place ox oy → s.netHeld l (newRegion s.ids l ox oy l.lrec.cls) = false → Answers (.launchPlace li) s fun t =>
        let g := newRegion s.ids l ox oy (if l.lrec.preload then 1 else l.lrec.cls)
        t.regions = s.regions ++ [g] ∧ (∃ x : Launch, t.launch? li = some x ∧ x.state = .loading (s.tick + 360 + g.coldCycles) ∧ x.region = s.ids) ∧
          (l.lrec.named = true → (t.task l.lrec.taskid).state = .running) ∧
          (∀ x ∈ g.tiles, (t.tile x).shadowOf = some s.ids ∧ (t.tile x).loaded = false ∧ (t.tile x).region = (s.tile x).region ∧
            ∀ j < 6, (t.elem (elemKey x j)).shadow = l.img.planeFor x (tileX x - ox) (tileY x - oy) j ∧
              (t.elem (elemKey x j)).active = (s.elem (elemKey x j)).active)) ∧
      (s.placing l.lrec l.img = .wait → Answers (.launchPlace li) s fun t => t = s) ∧
      (s.placing l.lrec l.img = .dead → Answers (.launchPlace li) s fun t =>
        t.launch? li = none ∧ t.regions = s.regions ∧ (l.lrec.named = true → (t.task l.lrec.taskid).state = .free ∧ (t.task l.lrec.taskid).counter = 0))) ∧
    (∀ (li : Nat) (l : Launch) (g : Region), s.launch? li = some l → s.readyNow l = true → l.lrec.timed = true → l.handler = none →
      s.reservation l.lrec.taskid = some g → (s.task l.lrec.taskid).state = .reserved → g.live = false → Answers (.launchPlace li) s fun t =>
        (∃ r : Region, t.region? g.id = some r ∧ r.live = true ∧ r.launch = l.id ∧ r.ext = l.lrec.ext ∧ r.ox = g.ox ∧ r.oy = g.oy) ∧
          (∃ x : Launch, t.launch? li = some x ∧ x.state = .running) ∧ (t.task l.lrec.taskid).loaded = false) ∧
    (∀ (li : Nat) (l : Launch) (g : Region), s.launch? li = some l → s.readyNow l = true → l.lrec.timed = false → l.handler = none →
      s.leader l.lrec l.img = some g → (∀ r ∈ s.regions, r.id ≠ s.ids) →
      (s.following l.lrec l.img g = .wait → Answers (.launchPlace li) s fun t => t = s) ∧
      (s.following l.lrec l.img g = .dead → Answers (.launchPlace li) s fun t =>
        t.launch? li = none ∧ t.regions = s.regions ∧ (l.lrec.named = true → (t.task l.lrec.taskid).state = .free ∧ (t.task l.lrec.taskid).counter = 0)) ∧
      (∀ ox oy, s.following l.lrec l.img g = .place ox oy → s.netHeld l (newRegion s.ids l ox oy l.lrec.cls) = true → Answers (.launchPlace li) s fun t => t = s) ∧
      ∀ ox oy, s.following l.lrec l.img g = .place ox oy → s.netHeld l (newRegion s.ids l ox oy l.lrec.cls) = false → Answers (.launchPlace li) s fun t =>
        (∃ r : Region, t.region? s.ids = some r ∧ r.predecessor = some g.id) ∧ (∃ x : Launch, t.launch? li = some x ∧ x.followOf = some g.launch) ∧
          (∃ r : Region, t.region? g.id = some r ∧ r.follow = some s.ids) ∧ t.tiles = s.tiles) ∧
    (∀ (li : Nat) (l : Launch) (f : Region), s.launch? li = some l → s.region? l.region = some f → l.followOf ≠ none → l.state = .loading 0 →
      s.shadowsFree f = true → f.ending = none → s.netHeld l f = false → Answers (.followOnLoad li) s fun t =>
        (∃ x : Launch, t.launch? li = some x ∧ x.state = .loading (s.tick + f.coldCycles)) ∧ (∀ x ∈ f.tiles, (t.tile x).shadowOf = some f.id)) ∧
    (∀ (li till : Nat) (l : Launch) (g : Region), s.launch? li = some l → l.state = .loading till → s.region? l.region = some g → 0 < till → till ≤ s.tick →
      l.save = none →
      (l.lrec.preload = false → Answers (.coldLoadEnd li) s fun t =>
        (∃ x : Launch, t.launch? li = some x ∧ x.state = .running) ∧ t.region? l.region = some { g with live := true } ∧
          ∀ x ∈ g.tiles, (s.tile x).shadowOf = some g.id → (t.tile x).loaded = true ∧ (t.tile x).swapAt = if l.followOf = none then s.tick + 288 else s.tick) ∧
      (l.lrec.preload = true → l.lrec.nexten = false → Answers (.coldLoadEnd li) s fun t =>
        (t.task l.lrec.taskid).state = .reserved ∧ (t.task l.lrec.taskid).loaded = true ∧
          (∃ x : Launch, t.launch? li = some x ∧ x.state = .ended) ∧ ∀ x ∈ g.tiles, (s.tile x).shadowOf = some g.id → (t.tile x).loaded = true))

/-! ## The translation owners -/

/-- Translation at the owners (R234, R239, R241, R244, R258, R380): the owner finds the page, by a walk for a token that a restore has put back, and an access whose page is admitted goes on to its node, its weir or the host window, a
write to a page under migration waits for its publication; one
that is refused is withheld with the code of the failure, and a prefetch is dropped; when its hold has run out the region faults under
a record with PEND that keeps the token; XINV completes; a migrated page is copied byte for byte and published. -/
def Obligations.OwnerSteps : Prop :=
  ∀ s : State, s.dbg.stopped = false →
    (∀ (ai : Nat) (a : Access), s.access? ai = some a → a.stage = .toOwner → a.due ≤ s.tick →
      let plain : List AccKind := [.load, .store, .bounds, .acq, .acqs, .rel, .waitv]
      (∀ (p : Nat) (u : State), a.kind ∈ plain → s.translate (s.agentFor a) a.va a.wr a.anew false = (.pa p, u) → (a.wr = true → u.migrates a.va = false) →
        Answers (.addressTranslate ai) s fun t =>
          (∃ b : Access, t.access? ai = some b ∧ s.tick < b.due ∧ s.tick ≤ b.left ∧
            b = { a with due := b.due, left := b.left, stage := if a.link ≠ none then .toWeir p else if isHostWin p then .hostWindow p else .toNode p }) ∧
          t.mem = u.mem ∧ t.elems = s.elems ∧ t.flights = s.flights) ∧
      -- a write to a page under migration is held back there, with the number of its arrival (R244)
      (∀ (p : Nat) (u : State), a.kind ∈ plain → a.wr = true → s.translate (s.agentFor a) a.va true a.anew false = (.pa p, u) → u.migrates a.va = true →
        Answers (.addressTranslate ai) s fun t =>
          (∃ b : Access, t.access? ai = some b ∧ b = { a with due := u.ids, stage := .migrating p }) ∧ t.mem = u.mem ∧ t.elems = s.elems ∧ t.flights = s.flights) ∧
      (∀ cd : Nat, a.kind ∈ plain → a.core = none → (s.translate (s.agentFor a) a.va a.wr a.anew false).1 = .fail cd → Answers (.addressTranslate ai) s fun t =>
        t.access? ai = some { a with stage := .withheld cd s.tick } ∧ t.elems = s.elems ∧ t.flights = s.flights ∧ t.regions = s.regions) ∧
      (a.kind = .pref → Answers (.addressTranslate ai) s fun t => t.access? ai = none ∧ t.mem = s.mem)) ∧
    (∀ (ai cd since : Nat) (a : Access) (g : Region), s.access? ai = some a → a.stage = .withheld cd since → a.core = none →
      since + s.holdTicks a.region cd ≤ s.tick → s.region? a.region = some g → g.freeze = none → g.ending = none →
      a.kind = .load ∨ a.kind = .store → Answers (.faultHoldExpiry ai) s fun t =>
        t.access? ai = some { a with stage := .expired cd } ∧
          (∃ r : FaultRec, t.faults.records = s.faults.records ++ [r] ∧ r.code = cd ∧ r.pend = true ∧ r.unit = 6 ∧ r.addr = a.va ∧ r.ctx = a.ctx ∧
            r.slot = a.slot ∧ r.elem = elemIdx a.elem ∧ r.data = (if a.kind = .store then some a.data else none)) ∧
          (∃ r : Region, t.region? a.region = some r ∧ r.freeze = some (.fault s.ids) ∧ r.freezeAt = s.tick + 1) ∧ t.mem = s.mem) ∧
    (s.xl.xinvBusy = true → (∀ i ∈ s.xl.xinvWait, ∀ a, s.access? i = some a → s.inSlice a = false) → Answers .xinvDone s fun t => t.xl.xinvDone = true ∧ t.xl.cache = s.xl.cache ∧ t.mem = s.mem) ∧
    (∀ (m : Migration) (x : Trans), s.xl.mig = some m → m.published = false → s.lookup m.va false = .leaf x → s.copyReady x = true →
      MemoryCanonical s → (∀ e ∈ x.entries, e.1 + 8 ≤ m.newFrame ∨ m.newFrame + x.size ≤ e.1) → Answers .migrationCopy s fun t =>
        (∀ k < x.size, memGet t.mem (m.newFrame + k) = memGet s.mem (x.frame + k)) ∧
          (∃ n : Migration, t.xl.mig = some n ∧ n.published = true ∧ n.old = x.frame ∧ n.size = x.size) ∧
          (x.cont = false → s.poison = [] → t.double x.leaf = (let old := s.double x.leaf; old - pteFrame old + m.newFrame) % 2 ^ 64)) ∧
    (∀ m : Migration, s.xl.mig = some m → m.published = true → (∀ a ∈ s.accesses, a.reading m.old m.size = false) → Answers .migrationDone s fun t =>
      t.xl.mig = none ∧ t.xl.migDone = true ∧ t.mem = s.mem)

/-! ## Accesses at their nodes -/

/-- Accesses at their nodes (R185, R253, R254, R256, R257, R259, R366): a store to a local or global part performs its bytes at its address and no
other byte changes, and one to HBM-backed memory of an open invocation is held there; an atomic reads the word, writes the value of its
operation and answers the old one; what waits on a stored word is answered before any later write (R263, R266), so that the bytes of an object whose
queue holds a waiter are left out here; a read answers the bytes it finds; a reply completes the results of its fire; a bounds record is
accepted, or traps, or of a poisoned block takes DATA_POISON with open bits (log 50). -/
def Obligations.NodeSteps : Prop :=
  ∀ (s : State) (ai p : Nat) (a : Access), s.access? ai = some a → MemoryCanonical s →
    (∀ g : Region, s.reaches a = some p → a.kind = .store ∨ a.kind = .sts → a.core = none → s.region? a.region = some g →
      (isHbm p = false ∨ a.inv < g.passed → Answers (.storeArrival ai) s fun t =>
        (∀ n < a.size, ¬ Served s (p + n) → memGet t.mem (p + n) = a.bytes.getD n 0) ∧
          SameMemory s t (fun x => (p ≤ x ∧ x < p + a.size) ∨ Served s x) ∧ t.access? ai = none ∧
          (t.elem a.elem).tags = (s.elem a.elem).tags.erase a.reqTag ∧ (t.elem a.elem).ctxs = (s.elem a.elem).ctxs ∧ SameHeld s t ∧ t.flights = s.flights) ∧
      (isHbm p = true → g.passed ≤ a.inv → s.heldAt g.id (portOf p) < g.holdsz → Answers (.storeArrival ai) s fun t =>
        t.mem = s.mem ∧ (∃ h : Held, t.held = s.held ++ [h] ∧ h.pa = p ∧ h.bytes = a.bytes ∧ h.region = g.id ∧ h.inv = a.inv ∧ h.port = portOf p))) ∧
    (∀ (op : Nat) (ex : Word), s.reaches a = some p → a.kind = .atomic op ex → a.core = none → s.held = [] → s.poisoned p a.size = false → a.size ∈ [4, 8] →
      Answers (.atomicPerform ai) s fun t =>
        let n := 8 * a.size
        let old := leNat (memRead s.mem p a.size)
        let b := a.data.toNat % 2 ^ n
        let new := match op with
          | 0 => (old + b) % 2 ^ n | 1 => if sextN old n ≤ sextN b n then old else b | 2 => if sextN b n ≤ sextN old n then old else b
          | 3 => old &&& b | 4 => old ||| b | 5 => old ^^^ b | 6 => b | 7 => (sumOut .rne 7 (decodeLane 7 old) (decodeLane 7 b) 0).1
          | 9 => min old b | 10 => max old b
          | _ => if old = ex.toNat % 2 ^ n then b else old
        (∀ k < a.size, ¬ Served s (p + k) → memGet t.mem (p + k) = BitVec.ofNat 8 (new / 2 ^ (8 * k))) ∧
          SameMemory s t (fun x => (p ≤ x ∧ x < p + a.size) ∨ Served s x) ∧
          (∃ x : Access, t.access? ai = some x ∧ x.stage = .answered p ∧ x.reply = BitVec.ofNat 512 old ∧ x.poison = false)) ∧
    (s.reaches a = some p → a.kind = .load ∨ a.kind = .lds → a.core = none → a.fwd = [] → s.held = [] → (∀ b ∈ s.accesses, ∀ q, b.stage ≠ .migrating q) →
      s.poisoned p a.size = false → Answers (.memoryReply ai) s fun t =>
        (∃ x : Access, t.access? ai = some x ∧ x.stage = .answered p ∧ x.reply = BitVec.ofNat 512 (leNat (memRead s.mem p a.size)) ∧ x.poison = false) ∧
          t.mem = s.mem ∧ t.elems = s.elems) ∧
    (∀ f : Flight, a.stage = .answered p → a.due ≤ s.tick → a.kind = .load ∨ a.kind = .lds → a.core = none → a.poison = false → s.dbg.stopped = false →
      s.flight? a.fire = some f → Answers (.memoryReply ai) s fun t =>
        let v : Val := { bits := a.reply, fmt := if a.wide then 0 else replyFmt a.size, vl := 0 }
        t.access? ai = none ∧ t.mem = s.mem ∧
          ∃ h : Flight, t.flight? a.fire = some h ∧ h.ready = true ∧ h.res.d1 = some v ∧ h.res.d2 = some v ∧ h.res.pred = false) ∧
    (∀ f : Flight, s.reaches a = some p → a.kind = .bounds → s.flight? a.fire = some f →
      let b := s.readAccess a p
      (boundsSound b = true ↔ dbl b 0 ≤ dbl b 8 ∧ bits (dbl b 16) 63 3 = 0 ∧ (dbl b 24 = 0 ∨ (dbl b 16).testBit 2 = true)) ∧
      (boundsSound b = true → s.poisoned p a.size = false → Answers (.boundsLoaded ai) s fun t =>
        t.access? ai = none ∧ t.mem = s.mem ∧ ∃ h : Flight, t.flight? a.fire = some h ∧ h.ready = true) ∧
      (∀ g : Region, boundsSound b = false → s.poisoned p a.size = false → (s.elem f.elem).region = some g.id → s.region? g.id = some g → g.faultable = true →
        Answers (.boundsLoaded ai) s fun t => t.mem = s.mem ∧ ∃ r ∈ t.faults.records, r.code = 0x10A ∧ r.addr = a.va) ∧
      (∀ g : Region, s.poisoned p a.size = true → s.region? a.region = some g → g.faultable = true → Answers (.boundsLoaded ai) s fun t =>
        t.mem = s.mem ∧ t.access? ai = none ∧ (∃ r ∈ t.faults.records, r.code = cDataPoison ∧ r.addr = a.va) ∧ ∃ h : Flight, t.flight? a.fire = some h ∧ h.ready = true))

/-- Sync objects, REL, NOTIFY, WAITV and barriers at their homes (R218, R222, R263, R264, R266): an ACQ takes a free object (bit 63), an ACQS adds one
shared holder, and each is answered with the object it made, or waits in the queue; a REL finds its holder or traps NOT_HELD, or of a
poisoned block takes DATA_POISON (log 50); a REL whose turn has come gives up its hold and raises the version, or drops one shared holder; a NOTIFY fills its wake register; a WAITV is
answered when its word has come; the fires of a barrier all stand ready when the last has arrived. -/
def Obligations.SyncSteps : Prop :=
  ∀ (s : State) (ai p : Nat) (a : Access), s.access? ai = some a → MemoryCanonical s →
    let o := s.double p
    let alone := ∀ q ∈ s.sync, q.pa ≠ p
    let answered := fun (t : State) (w : Nat) => ∃ x : Access, t.access? ai = some x ∧ x.stage = .answered p ∧ x.reply = BitVec.ofNat 512 w
    (s.reaches a = some p → alone → s.poisoned p 8 = false →
      (a.kind = .acq → o < 2 ^ 48 → Answers (.syncRequest ai) s fun t => t.double p = o + 2 ^ 63 ∧ answered t (o + 2 ^ 63)) ∧
      (a.kind = .acqs → o / 2 ^ 48 < 32767 → Answers (.syncRequest ai) s fun t => t.double p = o + 2 ^ 48 ∧ answered t (o + 2 ^ 48)) ∧
      (a.kind = .acq → 2 ^ 48 ≤ o → Answers (.syncRequest ai) s fun t =>
        t.mem = s.mem ∧ (∃ x : Access, t.access? ai = some x ∧ x.stage = .queued p) ∧ ∃ q ∈ t.sync, q.pa = p ∧ q.waiters = [ai]) ∧
      (a.kind = .acqs → 32767 ≤ o / 2 ^ 48 → Answers (.syncRequest ai) s fun t =>
        t.mem = s.mem ∧ (∃ x : Access, t.access? ai = some x ∧ x.stage = .queued p) ∧ ∃ q ∈ t.sync, q.pa = p ∧ q.waiters = [ai])) ∧
    (∀ f : Flight, s.reaches a = some p → a.kind = .rel → s.flight? a.fire = some f → s.poisoned p 8 = false →
      let held := if a.data.toNat.testBit 4 then o / 2 ^ 48 % 2 ^ 15 ≠ 0 else 2 ^ 63 ≤ o
      (held → Answers (.syncRequest ai) s fun t => t.mem = s.mem ∧ ∃ x : Access, t.access? ai = some x ∧ x.stage = .queued p) ∧
      (∀ g : Region, ¬ held → (s.elem f.elem).region = some g.id → s.region? g.id = some g → g.faultable = true → Answers (.syncRequest ai) s fun t =>
        t.mem = s.mem ∧ ∃ r ∈ t.faults.records, r.code = 0x10D ∧ r.addr = a.va)) ∧
    (∀ (f : Flight) (g : Region), s.reaches a = some p → a.kind = .rel → s.flight? a.fire = some f → s.poisoned p 8 = true → s.region? a.region = some g →
      g.faultable = true →
      Answers (.syncRequest ai) s fun t => t.mem = s.mem ∧ ∃ r ∈ t.faults.records, r.code = cDataPoison ∧ r.addr = a.va) ∧
    (a.kind = .rel → a.stage = .queued p → s.releasable a.elem a.ctx a.fire = true → s.dbg.stopped = false → (∀ q ∈ s.sync, q.waiters ≠ [] → q.pa + 8 ≤ p ∨ p + 8 ≤ q.pa) →
      let sh := a.data.toNat.testBit 4
      let gone := fun (h : Held) => decide (5 ≤ a.data.toNat % 16) && h.region == a.region && h.elem == a.elem && h.ctx == a.ctx && decide (h.order < a.fire)
      (sh = true → o / 2 ^ 48 % 2 ^ 15 ≠ 0) → (∀ h ∈ s.held, gone h = true → p + 8 ≤ h.pa ∨ h.pa + h.bytes.length ≤ p) →
      Answers (.relUpdate ai) s fun t =>
        t.double p = (if sh = true then o - 2 ^ 48 else o / 2 ^ 48 % 2 ^ 15 * 2 ^ 48 + (o + 1) % 2 ^ 48) ∧
          (∃ x : Access, t.access? ai = some x ∧ x.stage = .answered p) ∧ (t.held.map fun h => { h with dead := [] }) = ((s.held.filter fun h => !gone h).map fun h => { h with dead := [] })) ∧
    (∀ w q : Nat, a.kind = .notify w → a.stage = .toNode q → s.releasable a.elem a.ctx a.fire = true → s.dbg.stopped = false → a.due ≤ s.tick →
      s.notifyTurn a = true → (s.wake w).state ≠ 2 → Answers (.relUpdate ai) s fun t =>
        t.wake w = { state := 1, fire := 0, val := a.data.setWidth 64, count := if (s.wake w).state = 1 then min ((s.wake w).count + 1) 255 else 1 } ∧
          t.access? ai = none) ∧
    (∀ (w q : Nat) (f : Flight), a.kind = .notify w → a.stage = .toNode q → s.releasable a.elem a.ctx a.fire = true → s.dbg.stopped = false → a.due ≤ s.tick →
      s.notifyTurn a = true → (s.wake w).state = 2 → s.flight? (s.wake w).fire = some f → Answers (.relUpdate ai) s fun t =>
        t.wake w = {} ∧ ∃ (h : Flight) (x : Val), t.flight? (s.wake w).fire = some h ∧ h.ready = true ∧ h.res.pred = true ∧ h.res.d1 = some x ∧
          IsScalar (isWide f.elem) 6 (a.data.setWidth 64) x) ∧
    (a.kind = .waitv → (∀ b ∈ s.waitv, b ≠ ai) → s.poisoned p 8 = false →
      let full := 64 ≤ (s.waitv.filter fun b => match s.access? b with | some x => (match x.stage with | .queued q => homeOf q == homeOf p | _ => false) | none => false).length
      let came := a.data.toNat % 2 ^ 64 ≤ o
      (s.reaches a = some p →
        (came → Answers (.waitvTest ai) s fun t => t.mem = s.mem ∧ answered t o) ∧
        (¬ came → ¬ full → Answers (.waitvTest ai) s fun t => t.mem = s.mem ∧ ai ∈ t.waitv ∧ ∃ x : Access, t.access? ai = some x ∧ x.stage = .queued p) ∧
        (¬ came → full → Answers (.waitvTest ai) s fun t =>
          t.mem = s.mem ∧ ∃ x : Access, t.access? ai = some x ∧ x.stage = .tested p ∧ x.due = s.tick + 1024)) ∧
      (a.stage = .tested p → a.due ≤ s.tick → s.dbg.stopped = false →
        (came → Answers (.waitvRetry ai) s fun t => t.mem = s.mem ∧ answered t o) ∧
        (¬ came → full → Answers (.waitvRetry ai) s fun t => ∃ x : Access, t.access? ai = some x ∧ x.stage = .tested p ∧ x.due = s.tick + 1024))) ∧
    (∀ (gi l n i : Nat) (g : Region) (f : Flight), s.region? gi = some g → s.flight? i = some f → (∀ h ∈ s.flights, h.id = i → h = f) → f.wait = .bar l n →
      f.ready = false → f.region = gi → s.dbg.stopped = false → s.allArrived g l n f.elem f.ctx = true →
      (∀ h ∈ s.atBarrier g l n f.elem f.ctx, h.decided < s.tick ∧ s.releasable h.elem h.ctx h.id = true) → Answers (.barrierOpen gi l i) s fun t =>
        ∃ (h : Flight) (x : Val), t.flight? i = some h ∧ h.ready = true ∧ h.res.pred = true ∧ h.res.d1 = some x ∧
          IsScalar (isWide f.elem) 6 (BitVec.ofNat 64 n) x)

/-- Wave-ordered chains (R267 to R277): a head that arrives takes no entry and waits for its chain's turn; an access of the current wave or
a later one that is no head is buffered within the chain's quota; a link with `?` on both sides, a wave more than 255 ahead and a full
quota are faults, whose access the weir keeps (log 47: it takes no entry of its chain and is not released); a release moves the chain to its seq and succ, or to START of the next wave after `last`, and sends the access on; a
gap that has lasted GAPWIN ticks is noted once and changes nothing else of the chain. A weir serves the chain of the lowest class number first (R195); which
of those has its turn is log 65. -/
def Obligations.ChainSteps : Prop :=
  ∀ s : State, s.dbg.stopped = false →
    (∀ (ai p : Nat) (a : Access) (l : Link) (g : Region), s.access? ai = some a → a.stage = .toWeir p → a.link = some l → a.due ≤ s.tick →
      let x := s.chain a.region l.chain
      let d := (l.wave + 2 ^ 16 - x.wave) % 2 ^ 16
      let sound := ¬ (l.pred = 0xFF ∧ l.succ = 0xFF) ∧ d ≤ 255 ∧ (d = 0 → x.check (x.released ++ s.bufferedLinks x 0) l = none)
      let record := fun (t : State) (code : Nat) =>
        t.mem = s.mem ∧ (∃ b : Access, t.access? ai = some b ∧ b.stage = .atWeir p) ∧ ai ∉ (t.chain a.region l.chain).buffered ∧
          ai ∉ (t.chain a.region l.chain).waiting ∧ (t.chain a.region l.chain).pos = x.pos ∧ ∃ r : FaultRec, t.faults.records = s.faults.records ++ [r] ∧ r.code = code ∧ r.unit = 5
      s.region? a.region = some g → g.faultable = true →
      (sound → d = 0 → x.heads l = true → Answers (.chainArrival ai) s fun t =>
        t.access? ai = some { a with stage := .atWeir p } ∧ t.chain a.region l.chain = { x with waiting := x.waiting ++ [ai] } ∧ t.mem = s.mem) ∧
      (sound → ¬ (d = 0 ∧ x.heads l = true) → x.buffered.length < chainQuota x.id → Answers (.chainArrival ai) s fun t =>
        (∃ b : Access, t.access? ai = some b ∧ b.stage = .atWeir p) ∧ (t.chain a.region l.chain).buffered = x.buffered ++ [ai] ∧
          (t.chain a.region l.chain).pos = x.pos ∧ t.mem = s.mem) ∧
      (sound → ¬ (d = 0 ∧ x.heads l = true) → chainQuota x.id ≤ x.buffered.length → Answers (.chainArrival ai) s fun t => record t 0x405) ∧
      (l.pred = 0xFF → l.succ = 0xFF → Answers (.chainArrival ai) s fun t => record t 0x401) ∧
      (¬ (l.pred = 0xFF ∧ l.succ = 0xFF) → 255 < d → Answers (.chainArrival ai) s fun t => record t 0x402)) ∧
    (∀ (gi c p : Nat) (a : Access), s.candidate (s.chain gi c) = some a → s.weirUsed (s.weirOf gi c) = false →
      s.nextChain (s.weirOf gi c) = some (s.chain gi c) → a.stage = .atWeir p →
      -- no chain of the weir with a head stands in a lower class (R195)
      (∀ y ∈ s.rotation (s.weirOf gi c), (s.candidate y).isSome = true → s.regionClass gi ≤ s.regionClass y.region) ∧ Answers (.chainRelease gi c) s fun t =>
        let l := a.chainLink
        (t.chain gi c).pos = (if l.succ = 0xFE then .start else .after l.seq l.succ) ∧
          (t.chain gi c).wave = (if l.succ = 0xFE then ((s.chain gi c).wave + 1) % 2 ^ 16 else (s.chain gi c).wave) ∧
          (a.kind ≠ .cnop → ∃ b : Access, t.access? a.id = some b ∧ b.released = true ∧ b.stage = if isHostWin p then .hostWindow p else .toNode p) ∧
          (a.kind = .cnop → t.access? a.id = none) ∧ t.mem = s.mem) ∧
    (∀ (gi c : Nat) (g : Region), s.region? gi = some g → s.frozen g = false →
      let x := s.chain gi c
      let key := some (x.wave * 4 + x.missing.1, x.missing.2)
      s.inGap x = true → max x.thawed (max x.lastRel x.firstBuf) + s.gapTicks ≤ s.tick → x.gapDone ≠ key → Answers (.gapStall gi c) s fun t =>
        (t.chain gi c) = { x with gapDone := key } ∧ t.accesses = s.accesses ∧ t.flights = s.flights ∧ (s.dbg.trcfg.getLsbD 0 = false → t.mem = s.mem))

/-- Errors, gates and the control store (R69, R369, R370, R381, R382): a transient error changes no memory; a block that fails again is poisoned; a Brezil link that fails
is fenced, and the recovery from its loss is to begin (log 31), one that recovers has resent once more; a slot's word is fetched again, or the element fenced; a lost value freezes its
region beyond saving; a tile idle for 256 cycles is clock-gated and wakes within 8; power leaves tiles of no region only; a control-store
write is refused over a running region, and checked over a frozen one. The pairs in the management core's log are log 19, what keeps a tile from
gating log 18, the bar on an element's decisions while its slot is fetched again log 17; that a region which a fault has frozen already takes a record of DATA_LOST of
its own, and keeps its first freeze, is log 37. -/
def Obligations.ErrorSteps : Prop :=
  ∀ s : State, s.dbg.stopped = false →
    (∀ pa : Nat, isHbm pa = true ∨ isScratch pa = true →
      (s.dbg.trcfg.getLsbD 0 = false → Answers (.eccRetry pa true) s fun t => t.mem = s.mem ∧ t.poison = s.poison ∧ t.mgmt.log = s.mgmt.log ++ [(6, pa)]) ∧
      (Answers (.eccRetry pa false) s fun t => t.mem = s.mem ∧ t.poisoned (pa / 64 * 64) 64 = true ∧ (∀ k, k ∈ s.poison → k ∈ t.poison))) ∧
    (∀ j < 18,
      (s.part.links.length = 18 → Answers (.linkCrcRetry j true) s fun t => (t.part.links.getD j {}).resent = (s.part.links.getD j {}).resent + 1 ∧ t.regions = s.regions) ∧
      (s.part.links.length = 18 → Answers (.linkCrcRetry j false) s fun t =>
        (t.part.links.getD j {}).fenced = true ∧ (t.part.links.getD j {}).up = false ∧ 2048 + j ∈ t.part.fencedDevs ∧ t.mem = s.mem)) ∧
    (∀ e k : Nat, k < 16 → (s.elem e).loaded = true → (s.elem e).patched = false →
      (∀ (b : List Byte) (u : State), s.recordAgain e = (some b, u) → crc32c b = (s.elem e).active.crc → (s.elem e).active.slots.length = 16 →
        s.dbg.trcfg.getLsbD 0 = false → Answers (.slotParityRefetch e k true) s fun t =>
          ((t.elem e).active.slot k).op = BitVec.ofNat 32 (leNat ((b.drop (12 * k + 12)).take 4)) ∧ (t.elem e).ctxs = (s.elem e).ctxs ∧
            (t.elem e).decided = (s.elem e).decided ∧ (t.elem e).barred ≤ max (s.elem e).barred (u.tick + 3600)) ∧
      (∀ (b : List Byte) (u : State), s.recordAgain e = (some b, u) → Answers (.slotParityRefetch e k false) s fun t => (t.elem e).fenced = true)) ∧
    (∀ (e : Nat) (g : Region), elemIdx e < 6 → (s.elem e).region = some g.id → s.region? g.id = some g → g.faultable = true → Answers (.dataLost e) s fun t =>
      (∃ r : Region, t.region? g.id = some r ∧ r.savable = false ∧ r.freeze = if g.faulted then g.freeze else some (.fault s.ids)) ∧
        (∃ r ∈ t.faults.records, r.id = s.ids ∧ r.code = 0x703) ∧ t.mem = s.mem ∧ t.elems = s.elems) ∧
    (∀ x : Nat, (s.tile x).gated = false → (s.tile x).wakeAt = none → (s.tile x).region ≠ none → (s.tile x).shadowOf = none → s.noToken x = true → s.swageWaits x = false →
      s.noWork x = true → s.stirs x = false → (s.tile x).idleFrom + 256 ≤ s.tick → (s.tile x).startAt + 256 ≤ s.tick →
      (∀ e ∈ tileElems x, (s.elem e).decided + 256 ≤ s.tick) → Answers (.clockGate x) s fun t => t.tile x = { s.tile x with gated := true } ∧ t = { s with tiles := t.tiles }) ∧
    (∀ x : Nat,
      ((s.tile x).wakeAt = none → (s.tile x).gated = true → s.noToken x = false ∨ s.awaited x = true ∨ s.commanded x = true → Answers (.tileWake x) s fun t =>
        ∃ w, (t.tile x).wakeAt = some w ∧ s.tick ≤ w ∧ w ≤ s.tick + 8) ∧
      (∀ w, (s.tile x).wakeAt = some w → w ≤ s.tick → Answers (.tileWake x) s fun t => (t.tile x).gated = false ∧ (t.tile x).wakeAt = none)) ∧
    (∀ x : Nat,
      ((s.tile x).powerOff = false → (s.tile x).region = none → (s.tile x).shadowOf = none → (∀ g ∈ s.regions, g.holds x = false) →
        Answers (.powerGate x true) s fun t => (t.tile x).powerOff = true ∧ t = { s with tiles := t.tiles }) ∧
      ((s.tile x).powerOff = false → (s.tile x).region ≠ none → Answers (.powerGate x true) s fun t => t = s) ∧
      ((s.tile x).powerOff = true → Answers (.powerGate x false) s fun t => (t.tile x).powerOff = false)) ∧
    (∀ (e : Nat) (w : StoreWrite) (g : Region), s.regionOf e = some g → (s.elem e).loaded = true →
      (s.frozen g = false → Answers (.controlStoreWrite e w) s fun t => t.elems = s.elems ∧ t.mgmt.log = s.mgmt.log ++ [(8, e)]) ∧
      (∀ n, s.frozen g = true → s.storeCheck e ((s.elem e).active.written w) = some n → Answers (.controlStoreWrite e w) s fun t =>
        t.elems = s.elems ∧ t.mgmt.log = s.mgmt.log ++ [(9, n)]) ∧
      (s.frozen g = true → s.storeCheck e ((s.elem e).active.written w) = none → Answers (.controlStoreWrite e w) s fun t =>
        t.elem e = { s.elem e with active := (s.elem e).active.written w, patched := true } ∧ t.mgmt = s.mgmt))

/-! ## Units and sequences -/

/-- Matrix and repeat nodes (R297 to R304, R322, R324): a command sets out once the earlier accesses of its context have arrived, and is taken in order;
128 cycles after its first word a weight tile stands in the shadow plane; planes exchange; a vector enters row 0 and takes one word of
each activation port, its column sums those of R86: in BF16 each exact product rounded into the sum at its row, else each block's exact sum, scaled exactly, rounded into
it in block order; 260 cycles later its sums are in their row, which OVER replaces and ACC and PQV add to, rounded once (R301); a drain emits FP32 lanes as they stand in the
row, one word on each result port in a step (that both ports emit together is log 55), and ends with the sticky flags as its reply, cleared; a repeat node without
an RPTSET passes its words on. That a tile is read whole at its first word is log 56, and that RPTSET and RPTEND go straight to their repeat node, and MMODE completes
as it is taken, log 54. -/
def Obligations.MatrixSteps : Prop :=
  ∀ s : State, s.dbg.stopped = false →
    (∀ (i u : Nat) (f : Flight), s.flight? i = some f → f.wait = .unitSend u → f.due = none → s.maySend f u = true → Answers (.unitCommandAccept i) s fun t =>
      t.flight? i = some { f with due := some (s.tick + travel (elemTile f.elem) (unitTile u)) } ∧ t.elems = s.elems ∧ t.mem = s.mem) ∧
    (∀ (i n d : Nat) (f : Flight), n < 64 → s.flight? i = some f → f.wait = .unitSend (256 + n) → f.due = some d → d ≤ s.tick → s.firstAt f (256 + n) = true →
      s.holdsUnit i = false → (s.node n).held < 16 → f.opc = 0xC6 → bits f.a.toNat 17 16 < (s.node n).repeats.length → Answers (.unitCommandAccept i) s fun t =>
        (∃ h : Flight, t.flight? i = some h ∧ h.wait = .unit (256 + n)) ∧
          ((t.node n).repeats.getD (bits f.a.toNat 17 16) {}).sets = ((s.node n).repeats.getD (bits f.a.toNat 17 16) {}).sets ++ [s.cmdOf f] ∧ t.mem = s.mem) ∧
    -- an MMODE completes as its node takes it, whatever stands before it in the queue (R324)
    (∀ (i n d : Nat) (f : Flight), n < 64 → s.flight? i = some f → f.wait = .unitSend (256 + n) → f.due = some d → d ≤ s.tick → s.firstAt f (256 + n) = true →
      s.holdsUnit i = false → (s.node n).held < 16 → f.opc = 0xC3 → Answers (.unitCommandAccept i) s fun t =>
        ∃ (h : Flight) (x : Val), t.flight? i = some h ∧ h.ready = true ∧ h.res.d1 = some x ∧ IsScalar (isWide f.elem) 6 (BitVec.ofNat 64 s.tick) x) ∧
    (∀ (n : Nat) (l : Loading) (g : Region), (s.node n).loading = some l → l.due ≤ s.tick → s.region? l.cmd.region = some g → (s.node n).stopped = false →
      s.holdsUnit l.cmd.fire = false → g.cut = .none →
      (∀ w, l.tile = some w → (s.node n).cmds = [] → Answers (.weightLoadEnd n) s fun t =>
        (t.node n).shadow = some w ∧ (t.node n).loading = none ∧ (t.node n).active = (s.node n).active ∧ t.mem = s.mem) ∧
      (∀ (b : List Byte) (u : State), l.tile = none → s.unitRead l.cmd.region 16 l.cmd.a.toNat (tileBytes l.cmd) = .done (b, false) u →
        Answers (.weightLoadEnd n) s fun t => ∃ m : Loading, (t.node n).loading = some m ∧ m.due = s.tick + 128 ∧ m.tile = some (tileOf l.cmd b))) ∧
    (∀ (n : Nat) (c : Cmd) (g : Region), (s.node n).cmds = [c] → (s.node n).swappable s.tick = true → s.region? c.region = some g → g.cut = .none →
      Answers (.planeSwap n) s fun t => (t.node n).active = (s.node n).shadow ∧ (t.node n).shadow = (s.node n).active ∧ (t.node n).nextIn = s.tick + 1 ∧
        (t.node n).cmds = [] ∧ (t.node n).acc = (s.node n).acc ∧ t.mem = s.mem) ∧
    (∀ (n k : Nat) (st : Stream) (e : Entry) (g : Region), (s.node n).current = some (k, st) → s.region? st.cmd.region = some g → (s.node n).stopped = false →
      g.cut = .none → (s.node n).badPort st s.tick = none → (s.node n).entry s.free s.tick = some e → Answers (.vectorStart n) s fun t =>
        (t.node n).nextIn = s.tick + 1 ∧ (t.node n).acc = (s.node n).acc ∧ (t.node n).acts = (s.node n).acts.map (dropWords 1) ∧
          (∃ x : Stream, (t.node n).streams[k]? = some x ∧ x.started = st.started + 1 ∧ x.lastIn = s.tick ∧ x.inside = st.inside ++ [(s.tick, e.sums, e.flags)]) ∧
          t.mem = s.mem ∧
          -- the sums that enter: element r of the vector is lane r % Q of the head word of port r / Q
          ∀ (w : Weights) (word : Nat → Token) (sc : List Nat), (s.node n).active = some w → st.k ≤ 4 * portElems st.fmt →
            (∀ j < 4, headWord ((s.node n).acts.getD j []) s.tick = some (word j)) → (s.node n).vectorScales st s.tick = some sc →
            let elem := fun (r : Nat) => laneAt (word (r / portElems st.fmt)).val.bits.toNat (laneBits st.fmt) (r % portElems st.fmt)
            let add := fun (p : Nat) (y : Machine.Num) => (sumOut .rne 7 (decodeLane 7 p) y 0).1
            e.sums.length = 128 ∧ ∀ c < 128,
              -- BF16: each product exact, added at its row (R86)
              (w.fmt = 8 → st.fmt = 8 → e.sums.getD c 0 = BitVec.ofNat 32 ((List.range st.k).foldl (fun p r =>
                add p (Machine.Num.mul (decodeLane 8 (elem r)) (decodeLane 8 (w.code s.free r c)))) 0)) ∧
              -- the other formats: the exact sum of each block of 32, scaled exactly, added in block order (R85, R86)
              (w.fmt ≠ 8 → ∃ blk : Nat → Machine.Num,
                let block := fun (j : Nat) => (List.range (min 32 (st.k - 32 * j))).map fun i =>
                  (decodeLane st.fmt (elem (32 * j + i)), decodeLane w.fmt (w.code s.free (32 * j + i) c))
                e.sums.getD c 0 = BitVec.ofNat 32 ((List.range (blocksOf st.k)).foldl (fun p j => add p (Machine.Num.mul (blk j)
                  (Machine.Num.mul (decodeE8 (w.scale s.free j c)) (if scaled st.fmt then decodeE8 (sc.getD j 0) else .fin false 1 0)))) 0) ∧
                ∀ j < blocksOf st.k,
                  ((∃ p ∈ block j, p.1.isNan = true ∨ p.2.isNan = true) → (blk j).isNan = true) ∧
                  ((∀ p ∈ block j, (∃ k m e, p.1 = .fin k m e) ∧ ∃ k m e, p.2 = .fin k m e) →
                    (∃ k m e, blk j = .fin k m e ∧ (m = 0 → k = false)) ∧ ratOf (blk j) = ((block j).map fun p => ratOf p.1 * ratOf p.2).sum))) ∧
    (∀ (n c : Nat) (st : Stream) (more : List Stream) (v : List Word32) (fl : BitVec 6) (rest : List (Nat × List Word32 × BitVec 6)) (g : Region),
      (s.node n).streams = st :: more → st.inside = (c, v, fl) :: rest → c + 260 ≤ s.tick → s.region? st.cmd.region = some g → (s.node n).stopped = false →
      (s.node n).spill = [] → st.written + 1 ≠ st.m ∨ (s.node n).cmds = [] →
      (st.mode = 1 → Answers (.rowWrite n) s fun t =>
        (t.node n).row (st.base + st.written) = v ∧ (t.node n).flags = (s.node n).flags ||| fl ∧
          (∀ r, r ≠ st.base + st.written → (t.node n).row r = (s.node n).row r) ∧ t.mem = s.mem) ∧
      (st.mode ≠ 1 → v.length = 128 → ((s.node n).row (st.base + st.written)).length = 128 → Answers (.rowWrite n) s fun t =>
        (∀ c < 128, ((t.node n).row (st.base + st.written)).getD c 0 = BitVec.ofNat 32 (sumOut .rne 7
          (decodeLane 7 (((s.node n).row (st.base + st.written)).getD c 0).toNat) (decodeLane 7 (v.getD c 0).toNat) 0).1) ∧
          (t.node n).flags &&& ((s.node n).flags ||| fl) = (s.node n).flags ||| fl ∧
          (∀ r, r ≠ st.base + st.written → (t.node n).row r = (s.node n).row r) ∧ t.mem = s.mem)) ∧
    (∀ (n : Nat) (d : Drain) (g : Region), (s.node n).drain = some d → s.region? d.cmd.region = some g → (s.node n).stopped = false →
      (d.dfmt = 0 → (s.node n).mayEmit d s.tick = true → (s.node n).spill = [] → (s.node n).outs.length = 2 → ∀ p < 2, s.resultWired d.cmd n p = true →
        Answers (.mdrainEmit n) s fun t => ∃ k : Token, (t.node n).outs[p]? = ((s.node n).outs[p]?).map (· ++ [k]) ∧ k.val.fmt = 7 ∧
          ∀ l < 16, lane k.val 32 l = ((s.node n).row (d.base + d.word / 4)).getD (64 * p + d.word % 4 * 16 + l) 0) ∧
      (d.total ≤ d.word → (s.node n).outs.all List.isEmpty = true → (s.node n).cmds = [] → ∀ f : Flight, s.flight? d.cmd.fire = some f → f.wait = .unit (256 + n) →
        Answers (.mdrainEmit n) s fun t => (t.node n).drain = none ∧ (t.node n).flags = 0 ∧
          ∃ (h : Flight) (x : Val), t.flight? d.cmd.fire = some h ∧ h.ready = true ∧ h.res.d1 = some x ∧
            IsScalar (isWide f.elem) 6 (BitVec.ofNat 64 ((s.node n).flags.toNat &&& 0x37)) x)) ∧
    (∀ (n p : Nat) (k : Token) (rest : List Token), p < 4 → (s.node n).stopped = false → (s.node n).marks = 0 → (s.node n).acts.length = 4 → (s.node n).repeats.length = 4 →
      ((s.node n).acts.getD p []).length < 4 → (∀ x ∈ (s.node n).acts.getD p [], x.seen ≠ s.tick + 1) →
      ((s.node n).repeats.getD p {}).inq = k :: rest → ((s.node n).repeats.getD p {}).sets = [] → k.seen ≤ s.tick → k.tag ≠ 3 → k.tag ≠ 4 →
      Answers (.repeatCapture n p) s fun t =>
        (t.node n).acts.getD p [] = (s.node n).acts.getD p [] ++ [{ k with seen := s.tick + 1 }] ∧ ((t.node n).repeats.getD p {}).inq = rest ∧ t.mem = s.mem)

/-- Copy and collective engines (R305, R306, R309, R310, R312, R324, R328, R334 to R336): a copy command joins its engine's queue; CPYQ answers the number of its
region's commands there; the engine reads a descriptor once and runs the command; a tile moves in one step and the engine is busy for
a cycle per 64 bytes (both log 57); a command whose tiles have moved, without pages, words or counters left, is over; a spilled command returns, a retired
frame is posted once no access translated under it is in its owner's slice; records that do not fit their group end it with COLL_MISMATCH, and a group that has moved every byte is done (the rounds of a group are log 60).

The bytes that move: the address of a side by R307, its faults, skips and overflows in their order; an element's source bytes, zeros where it is skipped, go to its
destination alone, in the shadow of its page, the bank, the ring or local scratch, combined with the old bytes under CPYR (R315, R329, R330); the elements of a
tile move in order. When a shadow may open is log 58. A collective's result is element by element the balanced tree over the ranks, the winning pair, or the root's bytes, the same at
every participant (R318). -/
def Obligations.CopySteps : Prop :=
  (∀ s : State, s.dbg.stopped = false →
    (∀ (i n d : Nat) (f : Flight), n < 32 → s.flight? i = some f → f.wait = .unitSend (512 + n) → f.due = some d → d ≤ s.tick → s.firstAt f (512 + n) = true →
      s.holdsUnit i = false →
      (f.opc ∈ [0xD0, 0xD1, 0xD2, 0xD3, 0xD4] → (s.engine n).spilled = [] → (s.engine n).queue.length < 256 → Answers (.unitCommandAccept i) s fun t =>
        (t.engine n).queue = (s.engine n).queue ++ [s.cmdOf f] ∧ (∃ h : Flight, t.flight? i = some h ∧ h.wait = .unit (512 + n)) ∧ t.mem = s.mem) ∧
      (f.opc = 0xD9 → f.wantsReply = true → Answers (.unitCommandAccept i) s fun t =>
        ∃ (h : Flight) (x : Val), t.flight? i = some h ∧ h.ready = true ∧ h.res.d1 = some x ∧
          IsScalar (isWide f.elem) 6 (BitVec.ofNat 64 (s.copyCount n f.region)) x)) ∧
    (∀ (n : Nat) (c : Cmd) (g : Region) (h r : List Byte) (s1 s2 s3 : State) (d : Desc), (s.engine n).next = some c → s.region? c.region = some g →
      s.holdsUnit c.fire = false → g.cut = .none → s.unitRead g.id 2 c.a.toNat 64 = .done (h, false) s1 →
      s1.unitRead g.id 2 (c.a.toNat + 64) (64 * (bits (dbl h 0) 3 0 + 1)) = .done (r, false) s2 → s2.inDescriptorPages c.a.toNat (bits (dbl h 0) 3 0 + 2) = true →
      (descOf (h ++ r)).sound g c.opc (h ++ r) = true → s2.readRecord g.id (descOf (h ++ r)) = .ok d s3 → s3.indexHeld g.id d c.opc = none →
      d.scratchOk g (s3.peekIndex g.id d) c.opc = true →
      Answers (.copyCommandStart n) s fun t =>
        (t.engine n).queue = (s3.engine n).queue.filter (·.fire != c.fire) ∧
          ∃ x : Running, (t.engine n).running = (s3.engine n).running ++ [x] ∧ x.cmd = c ∧ x.desc = d ∧ x.tile = 0 ∧ x.shadows = []) ∧
    (∀ (n : Nat) (r : Running) (g : Region) (u : State) (sh : List Shadow) (put : List (Nat × Nat)), (s.engine n).busy ≤ s.tick → (s.engine n).running = [r] → r.cmd.cls < 4 → r.open = true →
      s.holdsUnit r.cmd.fire = false → s.region? r.cmd.region = some g → g.cut = .none → r.desc.dkind ≠ 2 →
      s.moveElems n r g r.shadows (r.tile * (4096 / r.desc.esize)) (min (4096 / r.desc.esize) (r.desc.count - r.tile * (4096 / r.desc.esize))) = .ok u sh put →
      Answers (.copyTile n) s fun t =>
        (∀ x ∈ (t.engine n).running, x.cmd.fire = r.cmd.fire → x.tile = r.tile + 1 ∧ x.shadows = sh) ∧
          (t.engine n).busy = u.tick + (min 4096 (r.desc.count * r.desc.esize - r.tile * 4096) + 63) / 64 ∧ t.mem = u.mem) ∧
    (∀ (n : Nat) (r : Running) (g : Region), s.publishReady n = none → (s.engine n).running = [r] → r.cmd.cls < 4 → r.tile = r.desc.tiles →
      s.holdsUnit r.cmd.fire = false → s.region? r.cmd.region = some g → g.cut = .none →
      (r.published = false → s.lostPage r.shadows = none → Answers (.copyComplete n) s fun t =>
        ∀ x ∈ (t.engine n).running, x.cmd.fire = r.cmd.fire → x.published = true ∧ x.shadows = []) ∧
      (r.published = true → r.counted = true → r.cmd.opc ≠ 0xD4 → Answers (.copyComplete n) s fun t => (t.engine n).running = [] ∧ t.mem = s.mem ∧
        ∀ f : Flight, s.flight? r.cmd.fire = some f → f.wait = .unit (512 + n) → ∃ (h : Flight) (x : Val), t.flight? r.cmd.fire = some h ∧ h.ready = true ∧
          h.res.d1 = some x ∧ IsScalar (isWide f.elem) 6 (BitVec.ofNat 64 s.tick) x)) ∧
    (∀ (n : Nat) (c : Cmd) (rest : List Cmd), (s.engine n).spilled = c :: rest → (s.engine n).queue.length < 256 → Answers (.spillReturn n) s fun t =>
      (t.engine n).spilled = rest ∧ (t.engine n).queue = (s.engine n).queue ++ [c] ∧ (t.engine n).sp.head = (s.engine n).sp.head + 1) ∧
    (∀ (d x : Nat) (rest : List Nat), (s.frame d).retiring = x :: rest → (s.frame d).rf.en = true → (s.frame d).rf.full = false → MemoryCanonical s →
      (s.frameHeld x = true → Answers (.retiredFramePost d) s fun t => t = s) ∧
      (s.frameHeld x = false → Answers (.retiredFramePost d) s fun t =>
        (t.frame d).retiring = rest ∧ (t.frame d).rf.tail = (s.frame d).rf.tail + 1 ∧ t.double ((s.frame d).rf.entry (s.frame d).rf.tail 8) = x % 2 ^ 64)) ∧
    (∀ (d grp : Nat) (p : Participant) (rest : List (Nat × Participant)), s.group grp = (d, p) :: rest → s.collHeld (s.group grp) = false → untold grp (s.group grp) = none →
      (mismatched ((s.group grp).map (·.2)) = true → Answers (.collectiveRun d grp) s fun t =>
        t.groupOf grp (s.round grp) = [] ∧ t.round grp = s.round grp + 1 ∧ (p.remote = false → (∀ g : Region, s.region? p.cmd.region = some g → g.faultable = true → ∃ r ∈ t.faults.records, r.code = 0x50B))) ∧
      (mismatched ((s.group grp).map (·.2)) = false → groupComplete ((s.group grp).map (·.2)) = false → Answers (.collectiveRun d grp) s fun t => t = s) ∧
      (∀ (y : Nat × Participant) (b : List Byte) (u v : State), let r := byRank (s.group grp)
        let pos := doneTo r y.2.len
        mismatched ((s.group grp).map (·.2)) = false → groupComplete ((s.group grp).map (·.2)) = true → (r.find? fun x => !x.2.remote) = some y →
        pos < y.2.len → s.collPiece pos (min 4096 (y.2.len - pos)) r y.2 = .done (b, false) u → u.collWrite pos b r = some (.inl v) →
        Answers (.collectiveRun d grp) s fun t => t = v) ∧
      (mismatched ((s.group grp).map (·.2)) = false → groupComplete ((s.group grp).map (·.2)) = true → (∀ x ∈ s.group grp, x.2.remote = false ∧ x.2.rank ≤ x.2.nm1 ∧ x.2.len ≤ x.2.pos ∧
        x.2.shadows = [] ∧ x.2.cwen = false ∧ x.2.cnten = false) → Answers (.collectiveRun d grp) s fun t =>
          t.groupOf grp (s.round grp) = [] ∧ t.round grp = s.round grp + 1 ∧ t.mem = s.mem))) ∧
  -- the address of a side (R307): the first bound that faults, a skip, the first overflow, the range
  (∀ (l : List Axis) (base limit size : Nat),
    let out := fun (x : Axis) => x.c < 0 ∨ (x.bound : Int) ≤ x.c
    let part := fun (k : Nat) => (base : Int) + ((l.take k).map fun x => x.c * x.stride).sum
    let wide := fun (a : Int) => a < -2 ^ 79 ∨ 2 ^ 79 ≤ a
    let bad := fun (k : Nat) => ∃ x, l[k]? = some x ∧ (wide (x.c * x.stride) ∨ wide (part (k + 1)))
    (∀ k x, l[k]? = some x → out x → x.faults = true → (∀ j < k, ∀ y, l[j]? = some y → out y → y.faults = false) →
      formAddr l base limit size = .fault cCopyBounds k) ∧
    ((∃ x ∈ l, out x) → (∀ x ∈ l, out x → x.faults = false) → formAddr l base limit size = .skip) ∧
    ((∀ x ∈ l, ¬ out x) →
      (∀ k, bad k → (∀ j < k, ¬ bad j) → formAddr l base limit size = .fault cCopyAddrOvf k) ∧
      ((∀ k, ¬ bad k) →
        (0 ≤ part l.length → part l.length + size ≤ limit → formAddr l base limit size = .addr (part l.length).toNat) ∧
        (part l.length < 0 ∨ (limit : Int) < part l.length + size → l ≠ [] → ∃ k x, l[k]? = some x ∧ formAddr l base limit size = .fault cCopyAddrOvf k ∧
          ∀ j y, l[j]? = some y → (y.c * y.stride).natAbs ≤ (x.c * x.stride).natAbs ∧ (j < k → (y.c * y.stride).natAbs < (x.c * x.stride).natAbs))))) ∧
  -- the coordinates of a side: CPYG and CPYS replace the index of dimension 0 (R329)
  (∀ (src : Bool) (ds : List Dim) (iv : List Nat) (ix : Option Int) (k i : Nat) (x : Dim), ds[k]? = some x → iv[k]? = some i →
    ∃ y, (sideAxes src ds iv ix)[k]? = some y ∧ y.c = (if src then x.sstart else x.dstart) + (if k = 0 then ix.getD i else i) ∧
      y.stride = (if src then x.sstride else x.dstride) ∧ y.bound = (if src then x.sbound else x.dbound) ∧
      (y.faults = true ↔ (if src then x.smode else x.dmode) = 1)) ∧
  -- the bytes of an element and of a tile (R307, R329, R330)
  (∀ (s s0 s1 : State) (n j : Nat) (r : Running) (g : Region) (sh : List Shadow) (ib b : List Byte),
    let d := r.desc
    let opc := r.cmd.opc
    let iv := indexOf d.dims j
    let w := d.indexBytes
    let e : Int := sextN (leNat ib) (8 * w)
    let src := d.source iv (if opc = 0xD2 then some e else none)
    let dst := d.dest iv (if opc = 0xD3 then some e else none)
    let move := s.moveElem n r g sh j
    -- what lands where the destination holds old
    let lands := fun (old : List Byte) => if opc = 0xD1 then reduceBytes d.rop d.esize old b else b
    opc ∈ [0xD0, 0xD1, 0xD2, 0xD3, 0xD4] → 0 < d.esize → b.length = d.esize → MemoryCanonical s1 →
    (opc ∈ [0xD2, 0xD3] → s.unitRead g.id 2 (d.idxaddr + iv.headD 0 * w) w = .done (ib, false) s0) → (opc ∉ [0xD2, 0xD3] → s0 = s) →
    ((src = .skip ∧ b = List.replicate d.esize 0 ∧ s1 = s0) ∨ (∃ a, src = .addr a ∧ d.skind ≠ 3 ∧ s0.unitRead g.id 2 a d.esize = .done (b, false) s1) ∨
      ∃ a, src = .addr a ∧ d.skind = 3 ∧ b = s0.readFor g.id (g.scratchPa a) d.esize ∧ s0.poisoned (g.scratchPa a) d.esize = false ∧ s1 = s0) →
    (dst = .skip → move = .ok s1 sh []) ∧
    (∀ a, dst = .addr a →
      -- local scratch
      (d.dkind = 3 → let p := g.scratchPa a
        (opc = 0xD1 → s1.poisoned p d.esize = false) → ∃ u, move = .ok u sh [(p, d.esize)] ∧ SameMemory s1 u (fun x => p ≤ x ∧ x < p + d.esize) ∧
          ∀ k < d.esize, memGet u.mem (p + k) = (lands (s1.readFor g.id p d.esize)).getD k 0) ∧
      -- the shadow of a page, open already or opened now
      (d.dkind = 0 → a % 4096 + d.esize ≤ 4096 → (opc = 0xD1 → s1.destPoisoned sh a d.esize = false) → ∀ (x : Shadow) (sh1 : List Shadow) (s2 : State),
        (sh.find? (·.page == a / 4096 * 4096) = some x ∧ s2 = s1 ∧ sh1 = sh) ∨ (sh.find? (·.page == a / 4096 * 4096) = none ∧ sh1 = insertShadow x sh ∧ MemoryCanonical s2 ∧
          s1.openShadow g.id (n / 8) r.cmd.fire (a / 4096 * 4096) = .opened x s2) →
        let p := x.frame + a % 4096
        ∃ u, move = .ok u sh1 [(p, d.esize)] ∧ SameMemory s2 u (fun y => p ≤ y ∧ y < p + d.esize) ∧
          ∀ k < d.esize, memGet u.mem (p + k) = (lands (s1.destBytes g.id sh a d.esize)).getD k 0) ∧
      -- a bank or a ring slot in a global part
      (d.dkind = 1 ∨ d.dkind = 2 → opc ≠ 0xD1 → d.place a % 4096 + d.esize ≤ 4096 → ∀ (p : Nat) (s2 : State),
        s1.translate (s1.agentOf g.id) (d.place a) true false false = (.pa p, s2) → isGlobal p = true → s2.migrating (d.place a) = false →
        MemoryCanonical s2 → NoWaiters s2 → ∃ u put, move = .ok u sh put ∧ SameMemory s2 u (fun y => p ≤ y ∧ y < p + d.esize) ∧
          ∀ k < d.esize, memGet u.mem (p + k) = b.getD k 0))) ∧
  (∀ (s : State) (n : Nat) (r : Running) (g : Region) (sh : List Shadow) (j : Nat), s.moveElems n r g sh j 0 = .ok s sh [] ∧
    ∀ (k : Nat) (s1 s2 : State) (sh1 sh2 : List Shadow) (p q : List (Nat × Nat)), s.moveElem n r g sh j = .ok s1 sh1 p →
      s1.moveElems n r g sh1 (j + 1) k = .ok s2 sh2 q → s.moveElems n r g sh j (k + 1) = .ok s2 sh2 (p ++ q)) ∧
  -- the combination of two elements (R315): by ROP, on their bytes
  (∀ (rop : Nat) (old src : List Byte), rop ≤ 9 →
    let size := ropBytes rop
    let n := 8 * size
    let x := leNat old
    let y := leNat src
    let out := reduceBytes rop size old src
    old.length = size → src.length = size → out.length = size ∧
      (rop = 0 → leNat out = (sumOut .rne 7 (decodeIeee 7 x) (decodeIeee 7 y) 0).1) ∧ (rop = 1 → leNat out = (sumOut .rne 8 (decodeIeee 8 x) (decodeIeee 8 y) 0).1) ∧
      (rop = 2 ∨ rop = 3 → BitVec.ofNat n (leNat out) = BitVec.ofNat n x + BitVec.ofNat n y) ∧
      (rop = 4 → leNat out = (minMax (fun a b => a.less b) 7 x y).1) ∧ (rop = 5 → leNat out = (minMax (fun a b => b.less a) 7 x y).1) ∧
      (rop = 6 ∨ rop = 8 → (BitVec.ofNat n (leNat out)).toInt = max (BitVec.ofNat n x).toInt (BitVec.ofNat n y).toInt) ∧
      (rop = 7 ∨ rop = 9 → (BitVec.ofNat n (leNat out)).toInt = min (BitVec.ofNat n x).toInt (BitVec.ofNat n y).toInt)) ∧
  -- the result of a group from each rank's bytes (R318)
  (∀ (p : Participant) (l : List (List Byte)) (n : Nat), l ≠ [] → l.length ≤ 4096 → (∀ b ∈ l, b.length = n) →
    (p.bcast = true → p.root < l.length → collResult p l n = l.getD p.root []) ∧
    (p.bcast = false →
      let w := collWidth p.arg false p.rop
      let elem := fun (r j : Nat) => (((l.getD r []).drop (j * w)).take w)
      let first := fun (x : List Byte) => decodeIeee 7 (leNat x % 2 ^ 32)
      -- a node of the tree: the winning pair, or the combination of R315
      let node := fun (x y : List Byte) =>
        if p.arg then (if ranksAbove (first x) (first y) then x else if ranksAbove (first y) (first x) then y else if leNat x / 2 ^ 32 ≤ leNat y / 2 ^ 32 then x else y)
        else reduceBytes p.rop w x y
      n % w = 0 → (collResult p l n).length = n ∧ ∀ j < n / w, ∃ tree : Nat → Nat → List Byte,
        (∀ r, tree 0 r = elem r j) ∧
        (∀ k r, r < l.length → tree (k + 1) r = if r + 2 ^ k < l.length then node (tree k r) (tree k (r + 2 ^ k)) else tree k r) ∧
        ((collResult p l n).drop (j * w)).take w = tree 12 0)) ∧
  -- every participant gets the same bytes, those that one has had already where the step was broken off
  (∀ (s : State) (pos : Nat) (b : List Byte) (l : List (Nat × Participant)),
    let off := fun (x : Nat × Participant) => (x.2.dst + pos) % 4096
    let shadow := fun (x : Nat × Participant) => x.2.shadows.find? (·.page == (x.2.dst + pos) / 4096 * 4096)
    let at_ := fun (x : Nat × Participant) => ((shadow x).map (·.frame)).getD 0 + off x
    MemoryCanonical s → b ≠ [] → (∀ x ∈ l, x.2.remote = false ∧ x.2.pos ≤ pos ∧ off x + b.length ≤ 4096 ∧ (shadow x).isSome = true) →
    ((l.map at_).Pairwise fun p q => p + b.length ≤ q ∨ q + b.length ≤ p) →
      ∃ u, s.collWrite pos b l = some (.inl u) ∧ SameMemory s u (fun a => ∃ x ∈ l, at_ x ≤ a ∧ a < at_ x + b.length) ∧
        ∀ x ∈ l, ∀ i < b.length, memGet u.mem (at_ x + i) = b.getD i 0) ∧
  ∀ (s u v : State) (d pos n : Nat) (l : List (Nat × Participant)) (p q : Participant) (qs : List Participant) (b : List Byte) (bs : List (List Byte)) (bad w : Bool),
    ((∀ x ∈ l, x.2.remote = true ∨ x.2.pos ≤ pos) → s.collSources 0 pos n (l.map (·.2)) = .done (bs, bad) u → s.collPiece pos n l p = .done (collResult p bs n, bad) u) ∧
    (∀ x, (l.find? fun x => !x.2.remote && decide (pos < x.2.pos)) = some x → s.collPiece pos n l p = .done (x.2.last, false) s) ∧
    (s.collSources d pos n [] = .done ([], false) s) ∧
    (q.remote = false → q.told = false → s.unitRead q.cmd.region 3 (q.src + pos) n = .done (b, bad) u → u.collSources d pos n qs = .done (bs, w) v →
      s.collSources d pos n (q :: qs) = .done (b :: bs, bad || w) v)

/-- Sequence commands at their home (R337, R342 to R344, R348, R352 to R354): a slot that does not admit the region traps SEQ_DENIED; STT makes a register HARD; POSADV
closes a position and traps on an empty register or a full block; HALLMARK chains the hash of a full block; GMASK of 0 clears the mask; a
disabled KV table traps; a slot whose record reads poison ends a command with DATA_POISON; each reply sets out for its issuer; a masked COLLAPSE whose grant has not come by its deadline answers all ones.

Their results: STM, STH, STFEED, COLLAPSE, ACCEPT, GMASK, TOPN, TOKREC, LOGREC, HALLMARK, KVFIND, KVINS and PQEXP each end as the pseudocode and tables of R344 to
R357 give, with their traps in order, the slot after them, their reply and prediction; 2^d, the quotient and the logarithm that they round once are within the
stated bounds of the true ones (log 70); and each stores its bytes block by block as the issuing context's (R254, R345). That poison ends a command with DATA_POISON,
that its stores are held as the region's, and that a command whose page is withheld keeps its place is log 61; that one waits for a page under migration is log 49.

A masked COLLAPSE at its home (R263, R348): a grant without the mask's generation gives its share up and asks again once the object has changed; one with it has the
COLLAPSE performed; when DEADLINE passes first, the reply is all ones with no token, and the mask is cleared; an object that reads poison ends the command with DATA_POISON
(log 61); that a qualifying grant outlives a translation that
fails is log 62. -/
def Obligations.SequenceHomes : Prop :=
  (
    ∀ (s : State) (i d : Nat) (f : Flight) (g : Region), s.dbg.stopped = false → s.flight? i = some f → s.region? f.region = some g →
      let n := s.slotOfFire f
      let q := s.seqSlot n
      let r := q.st.getD (f.b.toNat % 4) {}
      let here := f.wait = .unitSend (256 * 5 + n / 4096) ∧ n / 4096 < 256 ∧ f.due = some d ∧ d ≤ s.tick ∧ s.firstAt f (256 * 5 + n / 4096) = true ∧
        s.holdsUnit i = false ∧ s.slotLost n = false
      let admitted := q.en = true ∧ (q.gid = 0 ∨ q.gid = g.hdr.gid)
      let users := if q.users.contains f.region then q.users else q.users ++ [f.region]
      let done := fun (p : SeqSlot) (v : Nat) (pred : Bool) => Answers (.unitCommandAccept i) s fun t =>
        t.seqSlot n = { p with users := users } ∧ t.mem = s.mem ∧
          ∃ (h : Flight) (x : Val), t.flight? i = some h ∧ h.ready = true ∧ h.due = some (s.tick + travel (seqTile (n / 4096)) (elemTile f.elem)) ∧ h.res.pred = pred ∧
            h.res.d1 = some x ∧ IsScalar false 6 (BitVec.ofNat 64 v) x
      let traps := fun (code : Nat) => (s.elem f.elem).region = some g.id → g.faultable = true → Answers (.unitCommandAccept i) s fun t =>
        t.mem = s.mem ∧ (∃ x ∈ t.faults.records, x.code = code ∧ x.ctx = f.ctx ∧ x.slot = f.slot) ∧ t.seqSlot n = q ∧ ∀ h ∈ t.flights, h.id ≠ i
      (f.wait = .unitSend (256 * 5 + n / 4096) → n / 4096 < 256 → f.due = some d → d ≤ s.tick → s.firstAt f (256 * 5 + n / 4096) = true → s.holdsUnit i = false →
        s.slotLost n = true → g.faultable = true → Answers (.unitCommandAccept i) s fun t =>
          t.mem = s.mem ∧ (∃ x ∈ t.faults.records, x.code = cDataPoison ∧ x.region = g.id ∧ x.addr = s.slotAt n) ∧ ∀ h ∈ t.flights, h.id ≠ i) ∧
      (here →
        (¬ admitted → traps 0x118) ∧
        (∀ o, admitted → f.instr = .stt o → f.a.toNat < q.v →
          done { q with st := q.st.set (f.b.toNat % 4) { kind := 1, np := 0, pairs := f.a :: List.replicate 7 0, digest := List.replicate 32 0 } } f.a.toNat false) ∧
        (∀ o, admitted → f.instr = .stt o → q.v ≤ f.a.toNat → traps 0x119) ∧
        (∀ o, admitted → f.instr = .posadv o → r.kind = 0 → traps 0x11B) ∧
        (∀ o, admitted → f.instr = .posadv o → r.kind ≠ 0 → 64 ≤ q.nblk → traps 0x121) ∧
        (∀ o, admitted → f.instr = .posadv o → r.kind ≠ 0 → q.nblk < 64 →
          done { q with pos := q.pos + 1, nblk := q.nblk + 1, blk := q.blk.set q.nblk (blockEntry r) } (q.pos + 1).toNat (decide (q.nblk = 63))) ∧
        (∀ o, admitted → f.instr = .hallmark o → q.nblk ≠ 64 → traps 0x122) ∧
        (∀ o, admitted → f.instr = .hallmark o → q.nblk = 64 → f.a = 0 →
          let h := sha3_256 (q.hcur ++ q.blk.flatMap hashedEntry ++ if (q.blk.any fun b => b.headD 0 != 0) && !q.share then wordLe 8 q.salt else [])
          done { q with hcur := h, nblk := 0 } (leNat (h.take 8)) false) ∧
        (∀ o, admitted → f.instr = .gmask o → f.a = 0 → done { q with mask := List.replicate 32 0 } 0 false) ∧
        (∀ o, admitted → f.instr = .kvfind o ∨ f.instr = .kvins o → s.seq.kvcfg.getLsbD 0 = false → traps 0x123) ∧
        (∀ o, admitted → f.instr = .tokrec o → r.kind ≠ 1 → traps 0x11C) ∧
        (∀ o, admitted → f.instr = .logrec o → r.kind = 0 → traps 0x11B) ∧
        -- whatever the command, its fire ends as what the home makes of it says
        (∀ (u : State) (p : SeqSlot) (v : Nat) (pred : Bool) (fl : Flags), seqRun false ⟨g, f, n⟩ s q = .done u p v pred fl → u.flight? i = some f →
          Answers (.unitCommandAccept i) s fun t =>
            t.seqSlot n = { p with users := if p.users.contains f.region then p.users else p.users ++ [f.region] } ∧ t.mem = u.mem ∧
              ∃ (h : Flight) (x : Val), t.flight? i = some h ∧ h.ready = true ∧ h.due = some (u.tick + travel (seqTile (n / 4096)) (elemTile f.elem)) ∧
                h.res.pred = pred ∧ h.res.flags = fl ∧ h.res.d1 = some x ∧ IsScalar false 6 (BitVec.ofNat 64 v) x) ∧
        (∀ (tr : Trap) (a : Nat), seqRun false ⟨g, f, n⟩ s q = .trap tr a → tr ≠ .brk → traps tr.code) ∧
        (∀ (va cd : Nat) (wr : Bool) (x : LinkWord), seqRun false ⟨g, f, n⟩ s q = .held va cd wr x → Answers (.unitCommandAccept i) s fun t =>
          ∃ a ∈ t.accesses, a.fire = i ∧ a.va = va ∧ a.wr = wr ∧ a.data = x ∧ a.stage = .withheld cd s.tick) ∧
        (seqRun false ⟨g, f, n⟩ s q = .moving → Answers (.unitCommandAccept i) s fun t => t = s) ∧
        (∀ va, seqRun false ⟨g, f, n⟩ s q = .poison va → g.faultable = true → Answers (.unitCommandAccept i) s fun t =>
          (∃ x ∈ t.faults.records, x.code = cDataPoison ∧ x.region = g.id ∧ x.addr = va) ∧ ∀ h ∈ t.flights, h.id ≠ i) ∧
        (seqRun false ⟨g, f, n⟩ s q = .wait → s.maskAsk i = none → Answers (.unitCommandAccept i) s fun t =>
          ∃ a, t.maskAsk i = some a ∧ a.va = dbl q.mask 8 ∧ a.stage = .toOwner ∧ t.mem = s.mem))) ∧
  (
    ∀ (s : State) (i m obj gen dl : Nat) (f : Flight) (a : Access), s.dbg.stopped = false → s.flight? i = some f → s.maskAsk i = some a → f.wait = .mask m obj gen dl →
      s.holdsUnit i = false →
      (∀ p, a.stage = .answered p → a.due ≤ s.tick → a.poison = false → a.reply.toNat % 2 ^ 48 < gen → NoWaiters s → MemoryCanonical s → 2 ^ 48 ≤ s.double p →
        Answers (.collapseMaskGrant i) s fun t => t.double p = s.double p - 2 ^ 48 ∧ (∃ x : Access, t.access? a.id = some x ∧ x.stage = .tested p) ∧
          t.flights = s.flights) ∧
      (∀ p, a.stage = .tested p → s.double p ≠ a.reply.toNat → Answers (.collapseMaskGrant i) s fun t =>
        (∃ x : Access, t.access? a.id = some x ∧ x.stage = .toNode p ∧ x.due = s.tick + 1) ∧ t.mem = s.mem) ∧
      (∀ (p v : Nat) (g : Region) (u : State) (q : SeqSlot) (pred : Bool) (fl : Flags), a.stage = .answered p → a.due ≤ s.tick → a.poison = false → gen ≤ a.reply.toNat % 2 ^ 48 →
        s.region? f.region = some g → seqRun true ⟨g, f, s.slotOfFire f⟩ s (s.seqSlot (s.slotOfFire f)) = .done u q v pred fl → s.slotLost (s.slotOfFire f) = false →
        u.flight? i = some f → NoWaiters u →
        Answers (.collapseMaskGrant i) s fun t => ∃ (h : Flight) (x : Val), t.flight? i = some h ∧ h.ready = true ∧ h.res.pred = pred ∧ h.res.d1 = some x ∧
          IsScalar false 6 (BitVec.ofNat 64 v) x) ∧
      (∀ (p : Nat) (g : Region), a.stage = .answered p → a.due ≤ s.tick → a.poison = true → s.region? f.region = some g → g.faultable = true →
        Answers (.collapseMaskGrant i) s fun t => (∃ x ∈ t.faults.records, x.code = cDataPoison ∧ x.region = g.id ∧ x.addr = a.va) ∧
          t.access? a.id = none ∧ ∀ h ∈ t.flights, h.id ≠ i) ∧
      (dl < s.tick → f.granted = false → NoWaiters s → (∀ p, a.stage = .answered p → a.reply.toNat % 2 ^ 48 < gen) → Answers (.collapseDeadline i) s fun t =>
        (t.seqSlot m).mask = List.replicate 32 0 ∧ ∃ (h : Flight) (x : Val), t.flight? i = some h ∧ h.ready = true ∧ h.res.pred = false ∧ h.res.d1 = some x ∧
          IsScalar false 6 (BitVec.allOnes 64) x)) ∧
  -- what the home makes of each command (R344 to R357)
  (∀ (gr : Bool) (c : SeqCmd) (s : State) (q : SeqSlot), q.en = true → q.gid = 0 ∨ q.gid = c.g.hdr.gid →
    let a := c.f.a.toNat
    let j := c.f.b.toNat % 4
    let r := q.st.getD j {}
    let id := (r.pairs.headD 0).toNat
    let run := seqRun gr c s q
    let num := decodeIeee 7
    let size := 2 * q.h
    -- a read of the command, with the region's rights
    let reads := fun (u : State) (va len : Nat) (l : List Byte) (w : State) => u.unitRead c.g.id (len / 4096 + 2) va len = .done (l, false) w
    let put := fun (p : SeqSlot) (x : Soft) => { p with st := p.st.set j x }
    let hard := fun (id : Nat) => ({ kind := 1, np := 0, pairs := BitVec.ofNat 64 id :: List.replicate 7 0, digest := List.replicate 32 0 } : Soft)
    -- the addresses of a record, with their alignments (R343)
    let unsound := fun (l : List (Nat × Nat)) =>
      (∀ x, (l.find? fun x => decide (2 ^ 57 ≤ x.1)) = some x → run = .trap .badAddr x.1) ∧
      ((∀ x ∈ l, x.1 < 2 ^ 57) → ∀ x, (l.find? fun x => x.1 % x.2 != 0) = some x → run = .trap .misaligned x.1)
    let sound := fun (l : List (Nat × Nat)) => ∀ x ∈ l, x.1 < 2 ^ 57 ∧ x.1 % x.2 = 0
    let fp := fun (b : List Byte) (i : Nat) => leNat ((b.drop (4 * i)).take 4)
    let padded := fun (b : List Byte) => b ++ List.replicate ((b.length + 63) / 64 * 64 - b.length) 0
    -- entry x stands before entry y in a ranking (R150)
    let before := fun (x y : Nat × Nat) => ranksAbove (num x.1) (num y.1) = true ∨ (ranksAbove (num y.1) (num x.1) = false ∧ x.2 ≤ y.2)
    -- STM and STH (R344)
    (∀ (o : Op) (l : List Byte) (u : State), c.f.instr = .stm o → let np := bits c.f.b.toNat 6 4 + 1
      reads s a (8 * np) l u →
      ((∃ i < np, q.v ≤ dbl l (8 * i) % 2 ^ 32) → run = .trap .badToken 0) ∧
      ((∀ i < np, dbl l (8 * i) % 2 ^ 32 < q.v) →
        ((∃ i < np, bits (dbl l (8 * i)) 63 48 ≠ 0) → run = .trap .seqRange 0) ∧
        ((∀ i < np, bits (dbl l (8 * i)) 63 48 = 0) →
          ((∃ i < np, ∀ n m e, decodeIeee 8 (bits (dbl l (8 * i)) 47 32) ≠ .fin n m e) → run = .trap .badMix 0) ∧
          ((∀ i < np, ∃ n m e, decodeIeee 8 (bits (dbl l (8 * i)) 47 32) = .fin n m e) → ∃ x : Soft, run = .done u (put q x) np false 0 ∧ x.kind = 3 ∧ x.np = np ∧
            x.pairs.length = 8 ∧ ∀ i < 8, x.pairs.getD i 0 = if i < np then BitVec.ofNat 64 (dbl l (8 * i)) else 0)))) ∧
    (∀ (o : Op) (l : List Byte) (u : State), c.f.instr = .sth o → reads s a size l u →
      run = .done u (put q { kind := 2, np := 0, pairs := c.f.a :: List.replicate 7 0, digest := sha3_256 l }) (leNat ((sha3_256 l).take 8)) false 0) ∧
    -- STFEED (R345): the row of a token, the vector of a HIDDEN register if it is unchanged, the sum of a MIX rounded term by term
    (∀ o : Op, c.f.instr = .stfeed o →
      let feeds := fun (w : State) (b : List Byte) (fl : Flags) => run = seqStore c w a (padded b) fun z => .done z q ((size + 63) / 64 * 64) false fl
      (r.kind = 0 → run = .trap .stEmpty 0) ∧
      (∀ l u, r.kind = 1 → l.length = size → reads s (q.emb + id % 2 ^ 32 * ((size + 63) / 64 * 64)) size l u → feeds u l 0) ∧
      (∀ l u, r.kind = 2 → l.length = size → reads s id size l u → (sha3_256 l = r.digest → feeds u l 0) ∧ (sha3_256 l ≠ r.digest → run = .trap .softChanged 0)) ∧
      (∀ (row : Nat → List Byte) (u : Nat → State), r.kind = 3 → r.np ≤ r.pairs.length → u 0 = s →
        (∀ i < r.np, reads (u i) (q.emb + (r.pairs.getD i 0).toNat % 2 ^ 32 * ((size + 63) / 64 * 64)) size (row i) (u (i + 1))) →
        ∃ (acc : Nat → Nat → Nat) (b : List Byte) (fl : Flags), feeds (u r.np) b fl ∧ b.length = size ∧ ∀ h < q.h,
          acc h 0 = 0 ∧
          (∀ i < r.np, let f := fusedOut false false .rne 7 (bits (r.pairs.getD i 0).toNat 47 32 * 2 ^ 16) (leNat (((row i).drop (2 * h)).take 2) * 2 ^ 16) (acc h i)
            acc h (i + 1) = f.1 ∧ fl ||| f.2.2 = fl) ∧
          leNat ((b.drop (2 * h)).take 2) = (encodeFloat 8 .rne (num (acc h r.np))).1 ∧ fl ||| (encodeFloat 8 .rne (num (acc h r.np))).2 = fl)) ∧
    -- COLLAPSE (R346, R348): the best of the logits that the mask keeps, NaN lowest, ties to the lower index
    (∀ (o : Op) (l : List Byte) (u : State), c.f.instr = .collapse o → reads s a 64 l u →
      let logits := dbl l 0
      let base := bits (dbl l 8) 63 32
      let n := bits (dbl l 8) 31 0
      let shard := (dbl l 16).testBit 35
      let masked := (dbl l 16).testBit 34
      let mode := bits (dbl l 16) 33 32
      let temp := bits (dbl l 16) 31 0
      let pair := dbl l 24
      let wrong := bits (dbl l 16) 63 36 ≠ 0 ∨ zeroFrom l 32 = false ∨ n = 0 ∨ q.v < base + n ∨ 2 ≤ mode
      let places := (logits, 64) :: if shard then [(pair, 8)] else []
      let cold := mode = 1 ∧ ∀ m e, m ≠ 0 → num temp ≠ .fin false m e
      (wrong → run = .trap .seqRange 0) ∧ (¬ wrong → unsound places) ∧
      (¬ wrong → sound places → cold → run = .trap .badTemp 0) ∧
      (¬ wrong → sound places → ¬ cold → masked = true → (dbl q.mask 0 = 0 → run = .trap .noMask 0) ∧ (dbl q.mask 0 ≠ 0 → gr = false → run = .wait)) ∧
      ∀ (mb lb : List Byte) (v w : State), ¬ wrong → sound places → ¬ cold →
        (masked = true → gr = true ∧ dbl q.mask 0 ≠ 0 ∧ reads u (dbl q.mask 0 + base / 8) ((base + n - 1) / 8 - base / 8 + 1) mb v) → (masked = false → v = u) →
        reads v logits (4 * n) lb w →
        let p := if masked then { q with mask := List.replicate 32 0 } else q
        let x := fun (i : Nat) => if mode = 1 then c.perturb q temp (base + i) (fp lb i) else fp lb i
        let kept := fun (i : Nat) => i < n ∧ (masked = true → (mb.getD ((base + i) / 8 - base / 8) 0).getLsbD ((base + i) % 8) = true)
        ((∀ i, ¬ kept i) → run = if shard then seqStore c w pair (natLe 8 0xFFFFFFFF7FC00000) fun z => .done z p (2 ^ 64 - 1) false 0 else .done w p (2 ^ 64 - 1) false 0) ∧
        ((∃ i, kept i) → ∃ i, kept i ∧
          (∀ k, kept k → ranksAbove (num (x k)) (num (x i)) = false ∧ (k < i → ranksAbove (num (x i)) (num (x k)) = true)) ∧
          run = if shard then seqStore c w pair (natLe 8 ((base + i) * 2 ^ 32 + x i)) fun z => .done z p (base + i) true 0
            else .done w (put p (hard (base + i))) (base + i) true 0)) ∧
    (∀ t g x : Nat, c.perturb q t g x = (sumOut .rne 7 (num (divFp32 x t)) (num (negLn (negLn (c.uniform q g)))) 0).1 ∧
      c.uniform q g = (encodeFloat 7 .rtz (.fin false
        (2 * ((mix64 (mix64 q.pos (q.seed ^^^ BitVec.ofNat 64 c.n)) (BitVec.ofNat 64 g)).toNat % 2 ^ 24) + 1) (-25))).1) ∧
    -- ACCEPT (R349): the longest prefix whose product reaches the draw
    (∀ (o : Op) (l pb qb : List Byte) (u v w : State), c.f.instr = .accept o → reads s a 64 l u →
      let len := dbl l 16
      let places := [(dbl l 0, 4), (dbl l 8, 4)]
      let wrong := len = 0 ∨ 16 < len ∨ zeroFrom l 24 = false
      (wrong → run = .trap .seqRange 0) ∧ (¬ wrong → unsound places) ∧
      (¬ wrong → sound places → reads u (dbl l 0) (4 * len) pb v → reads v (dbl l 8) (4 * len) qb w →
        ∃ (prod : Nat → Nat) (n : Nat), prod 0 = 0x3F800000 ∧
          (∀ i < len, prod (i + 1) = (encodeFloat 7 .rne (Machine.Num.mul (num (prod i)) (num (divFp32 (fp pb i) (fp qb i))))).1) ∧
          let reaches := fun (i : Nat) => (num (prod i)).isNan = false ∧ (num (prod i)).cmp (num (c.uniform q (2 ^ 32))) ≠ .lt
          n ≤ len ∧ (n = 0 ∨ reaches n) ∧ (∀ i, n < i → i ≤ len → ¬ reaches i) ∧ run = .done w q n (decide (n = len)) 0)) ∧
    -- GMASK (R348)
    (∀ (o : Op) (l : List Byte) (u : State), c.f.instr = .gmask o → a ≠ 0 → reads s a 32 l u →
      let wrong := dbl l 0 = 0 ∨ bits (dbl l 16) 63 48 ≠ 0
      let places := [(dbl l 0, 64), (dbl l 8, 8)]
      (wrong → run = .trap .seqRange 0) ∧ (¬ wrong → unsound places) ∧ (¬ wrong → sound places → run = .done u { q with mask := l } 0 false 0)) ∧
    -- TOPN (R350): the first entries of the ranking, in order
    (∀ (o : Op) (l x : List Byte) (u w : State), c.f.instr = .topn o → reads s a 64 l u →
      let n := bits (dbl l 8) 31 0
      let pairs := (dbl l 16).testBit 8
      let nsel := dbl l 16 % 32
      let out := dbl l 24
      let wrong := bits (dbl l 16) 7 5 ≠ 0 ∨ bits (dbl l 16) 63 9 ≠ 0 ∨ zeroFrom l 32 = false ∨ n = 0 ∨ nsel = 0 ∨ 16 < nsel
      let places := (dbl l 0, 64) :: if out = 0 then [] else [(out, 8)]
      let entries := (List.range n).map fun i =>
        if pairs then (dbl x (8 * i) % 2 ^ 32, dbl x (8 * i) / 2 ^ 32) else (fp x i, (bits (dbl l 8) 63 32 + i) % 2 ^ 32)
      (wrong → run = .trap .seqRange 0) ∧ (¬ wrong → unsound places) ∧
      (¬ wrong → sound places → reads u (dbl l 0) ((if pairs then 8 else 4) * n) x w → ∃ keep rest : List (Nat × Nat),
        (keep ++ rest).Perm entries ∧ keep.length = min nsel n ∧ keep.Pairwise before ∧ (∀ y ∈ keep, ∀ z ∈ rest, before y z) ∧
        let words := keep.map fun y => y.2 * 2 ^ 32 + y.1
        let p := { q with ntop := keep.length, comp := words.map (BitVec.ofNat 64 ·) ++ List.replicate (16 - keep.length) 0 }
        run = if out = 0 then .done w p keep.length false 0 else seqStore c w out (words.flatMap (natLe 8)) fun z => .done z p keep.length false 0)) ∧
    -- TOKREC (R351): the 256 bytes of the record
    (∀ (o : Op) (p : Nat) (u : State), c.f.instr = .tokrec o → r.kind = 1 → q.ntop ≤ 16 → q.comp.length = 16 → MemoryCanonical u →
      s.translate (.region c.g.hdr.gid) a true false false = (.pa p, u) → (u.migrates a = true → run = .moving) ∧
      (u.migrates a = false → ∃ w, run = .done w { q with ntop := 0 } s.tick false 0 ∧ memRead w.mem p 256 =
        natLe 8 (2 ^ 63 + id % 2 ^ 32) ++ natLe 8 q.pos.toNat ++ natLe 8 (q.ntop * 2 ^ 16 + c.n) ++ natLe 8 s.tick ++ List.replicate 32 0 ++
          (q.comp.take q.ntop).flatMap (fun x => natLe 8 x.toNat) ++ List.replicate (192 - 8 * q.ntop) 0)) ∧
    -- LOGREC (R355)
    (∀ (o : Op) (l : List Byte) (u : State), c.f.instr = .logrec o →
      let logs := fun (w : State) (v : List Byte) => run = seqStore c w a (natLe 8 ((r.kind - 1) * 2 ^ 62 + c.n) ++ natLe 8 q.pos.toNat ++ natLe 8 s.tick ++
        natLe 8 (192 + v.length) ++ List.replicate 32 0 ++ (natLe 8 (r.np * 16 + r.kind) ++ r.pairs.flatMap (fun x => natLe 8 x.toNat) ++ List.replicate 24 0 ++ r.digest) ++ v)
        fun z => .done z q (192 + v.length) false 0
      (r.kind = 0 → run = .trap .stEmpty 0) ∧ (r.kind = 1 ∨ r.kind = 3 → logs s []) ∧
      (r.kind = 2 → l.length = size → u.tick = s.tick → reads s id size l u →
        (sha3_256 l = r.digest → logs u (padded l)) ∧ (sha3_256 l ≠ r.digest → run = .trap .softChanged 0))) ∧
    -- HALLMARK with an address (R353)
    (∀ o : Op, c.f.instr = .hallmark o → q.nblk = 64 → a ≠ 0 →
      let h := sha3_256 (q.hcur ++ q.blk.flatMap hashedEntry ++ if (q.blk.any fun b => b.headD 0 != 0) && !q.share then wordLe 8 q.salt else [])
      run = seqStore c s a h fun z => .done z { q with hcur := h, nblk := 0 } (leNat (h.take 8)) false 0) ∧
    -- KVFIND and KVINS (R354): the bucket of the key, its first match, its first free entry
    (∀ (o : Op) (key : List Byte) (u : State), s.seq.kvcfg.getLsbD 0 = true → reads s a 32 key u → key.length = 32 → MemoryCanonical u →
      let b := u.seq.kvbase.toNat + 256 * (leNat (key.take 8) % 2 ^ bits u.seq.kvcfg.toNat 5 1)
      let entry := fun (k : Nat) => b + 64 * k
      let free := fun (k : Nat) => (u.double (entry k + 40)).testBit 0 = false
      let hit := fun (k : Nat) => ¬ free k ∧ memRead u.mem (entry k) 32 = key ∧ bits (u.double (entry k + 40)) 63 52 = c.g.hdr.gid
      let none_ := 2 ^ 64 - 1
      (c.f.instr = .kvfind o → u.poisoned b 256 = false →
        (∀ k < 4, hit k → (∀ m < k, ¬ hit m) → run = .done u q (u.double (entry k + 32)) true 0) ∧ ((∀ k < 4, ¬ hit k) → run = .done u q none_ false 0)) ∧
      (c.f.instr = .kvins o → c.f.b = BitVec.allOnes 64 → run = .trap .seqRange 0) ∧
      (c.f.instr = .kvins o → c.f.b ≠ BitVec.allOnes 64 → u.poisoned b 256 = false →
        (∀ k < 4, hit k → (∀ m < k, ¬ hit m) → run = .done u q (u.double (entry k + 32)) false 0) ∧
        ((∀ k < 4, ¬ hit k ∧ ¬ free k) → run = .done u q none_ false 0) ∧
        (∀ k < 4, (∀ m < 4, ¬ hit m) → free k → (∀ m < k, ¬ free m) → ∃ w, run = .done w q c.f.b.toNat true 0 ∧
          SameMemory u w (fun x => entry k ≤ x ∧ x < entry k + 64) ∧
          memRead w.mem (entry k) 64 = key ++ natLe 8 c.f.b.toNat ++ natLe 8 (c.g.hdr.gid * 2 ^ 52 + 1) ++ List.replicate 16 0))) ∧
    -- PQEXP (R357): each code that of 2^(x - m), 84 to a word, and their sum
    (∀ (o : Op) (l x : List Byte) (u w : State), c.f.instr = .pqexp o → reads s a 64 l u →
      let n := bits (dbl l 16) 31 0
      let auto := (dbl l 24).testBit 0
      let wrong := 2 ≤ dbl l 24 ∨ zeroFrom l 32 = false ∨ n = 0 ∨ 2 ^ 20 < n
      let places := [(dbl l 0, 64), (dbl l 8, 64)]
      (wrong → run = .trap .seqRange 0) ∧ (¬ wrong → unsound places) ∧
      (¬ wrong → sound places → reads u (dbl l 0) (4 * n) x w → ∃ (m sum : Nat) (codes : List Nat) (out : List Byte),
        (auto = false → m = bits (dbl l 16) 63 32) ∧ (auto = true → (∃ i < n, m = fp x i) ∧ ∀ i < n, ranksAbove (num (fp x i)) (num m) = false) ∧
        codes.length = n ∧ (∀ i < n, let y := num (fp x i)
          let code := codes.getD i 0
          (y.isNan = true ∨ y = .inf true → code = 0x3C) ∧
          (∀ k p e g f h, y = .fin k p e → num m = .fin g f h → let d : ℝ := ((ratOf y - ratOf (num m) : ℚ) : ℝ)
            ∃ z : Machine.Num, code = (encodeFloat 13 .rne z).1 ∧ (-32 ≤ d → d ≤ 2 → |((ratOf z : ℚ) : ℝ) - (2 : ℝ) ^ d| ≤ 2 ^ (-100 : ℤ)) ∧
              (d < -32 → 0 < ratOf z ∧ ratOf z ≤ 2 ^ (-32 : ℤ)) ∧ (2 < d → 4 ≤ ratOf z))) ∧
        out.length = (n + 83) / 84 * 64 ∧
        (∀ k < (n + 83) / 84, let word := leNat ((out.drop (64 * k)).take 64)
          word < 2 ^ 504 ∧ ∀ i < 84, word / 2 ^ (6 * i) % 2 ^ 6 = codes.getD (84 * k + i) 0) ∧
        (auto = true → (num m).isNan = true → sum = canonNan 7) ∧
        (auto = false ∨ (num m).isNan = false → ∃ z : Machine.Num, ratOf z = (codes.map fun y => ratOf (decodePq6 y)).sum ∧ sum = (encodeFloat 7 .rne z).1 ∧ z.neg? = false) ∧
        run = seqStore c w (dbl l 8) out fun z => .done z q sum false 0))) ∧
  -- the quotient and the logarithm of R346, rounded once
  (∀ x y : Nat, let num := decodeIeee 7
    ((num x).isNan = true ∨ (num y).isNan = true → divFp32 x y = canonNan 7) ∧
    (∀ n m e k f, num x = .fin n m e → num y = .fin k 0 f → divFp32 x y = if m = 0 then canonNan 7 else ieeeInf 7 (xor n k)) ∧
    (∀ n m e k j f, num x = .fin n m e → num y = .fin k j f → j ≠ 0 → ∃ z : Machine.Num, divFp32 x y = (encodeFloat 7 .rne z).1 ∧
      |ratOf z - ratOf (num x) / ratOf (num y)| ≤ 2 ^ (-90 : ℤ) * |ratOf (num x) / ratOf (num y)|) ∧
    (∀ m e, num x = .fin false m e → m ≠ 0 → ∃ z : Machine.Num, negLn x = (encodeFloat 7 .rne z).1 ∧
      |((ratOf z : ℚ) : ℝ) + Real.log ((ratOf (num x) : ℚ) : ℝ)| ≤ 2 ^ (-140 : ℤ))) ∧
  -- the stores of a command (R254, R345): one for each 64-byte block, in order, each what its region then reads there
  ∀ (c : SeqCmd) (s : State) (va : Nat) (b : List Byte) (k : State → SeqOut), b ≠ [] →
    let block := b.take (64 - va % 64)
    (∀ cd u, s.translate (.region c.g.hdr.gid) va true false false = (.fail cd, u) → seqStore c s va b k = .held va cd true (BitVec.ofNat 512 (leNat block))) ∧
    (∀ p u, s.translate (.region c.g.hdr.gid) va true false false = (.pa p, u) →
      (u.migrates va = true → seqStore c s va b k = .moving) ∧
      (u.migrates va = false →
        (∀ w, u.storeAt c.g c.f.elem c.f.ctx c.f.slot c.f.inv c.f.id p va block = (w, false) → seqStore c s va b k = .over w) ∧
        (∀ w, u.storeAt c.g c.f.elem c.f.ctx c.f.slot c.f.inv c.f.id p va block = (w, true) →
          seqStore c s va b k = (if b.length ≤ 64 - va % 64 then k w else seqStore c w (va + (64 - va % 64)) (b.drop (64 - va % 64)) k) ∧
          (MemoryCanonical u → NoWaiters u → ∀ i < block.length, w.byteFor c.g.id (p + i) = block.getD i 0))))


/-! ## Cuts, saves and dispositions -/

/-- The cut, the save, pre-emption, the restore and the dispositions (R359, R364, R365, R371 to R373, R376 to R378): a cut begins once its region is frozen; an element
whose work stands still takes its snapshot, a MARK behind the tokens of each wired output but one whose only routes are advance words' (log 39), its registers unchanged; an input closes; the cut's
end gives the launch its save, with no fire of the region left, and a pre-empted launch is READY, or thaws where no save can be made; the victims of an
impatient launch freeze, and one that is still loading is abandoned and READY; a saved launch is loaded at the place that serves it, and thaws there with
its fires, once its weights have been read again without poison; ABORT completes a launch, RESUME makes it READY, and its region leaves its place (log 41), RETRY loads it afresh where it stands, or has it wait for another place. What a region that cannot be
saved keeps is log 38, RETRY's wait and the abandoned load are log 41, and what a restore reads again log 42. -/
def Obligations.CutSteps : Prop :=
  ∀ s : State, s.dbg.stopped = false →
    (∀ (gi : Nat) (g : Region), s.region? gi = some g → s.cutReady g = true → Answers (.cutStart gi) s fun t =>
      (∃ r : Region, t.region? gi = some r ∧ r.cut = .running s.tick ∧ r.cutno = g.cutno + 1 ∧ r.freeze = g.freeze) ∧
        ((∀ a ∈ s.accesses, a.kind ≠ .mask) → t.mem = s.mem)) ∧
    (∀ (e : Nat) (g : Region), elemIdx e ≠ 6 → s.regionOf e = some g → s.inCut g = true → (s.elem e).loaded = true → (s.elem e).snapped = false →
      s.snapReady e = true → Shaped (s.elem e) → Answers (.elementSnapshot e) s fun t =>
        (t.elem e).snapped = true ∧ (t.elem e).ctxs = (s.elem e).ctxs ∧ ((∀ a ∈ s.accesses, a.kind ≠ .mask) → t.mem = s.mem) ∧
          (∀ c < 4, ((t.elem e).in_ c).q = ((s.elem e).in_ c).q.filter (·.tag != 4)) ∧
          ∀ c ∈ g.markedOuts e, ((t.elem e).out c).q.getLast? = some (.tok { val := {}, tag := 4, seen := s.tick })) ∧
    (∀ (e n : Nat) (g : Region), elemIdx e = 6 → nodeOf (elemTile e) = some n → (s.tile (elemTile e)).region.bind s.region? = some g → s.inCut g = true →
      (g.claimed 1).contains n = true → (s.node n).cuttable = true → Answers (.elementSnapshot e) s fun t =>
        (t.node n).marks = 1 ∧ (t.node n).acc = (s.node n).acc ∧ t.mem = s.mem) ∧
    (∀ (e c : Nat) (g : Region), s.regionOf e = some g → s.inCut g = true → (s.elem e).snapped = true → (s.elem e).saved = false → c ∈ g.wiredIns e →
      ((s.elem e).in_ c).closed = false → (g.into e c).length ≤ ((s.elem e).in_ c).marks → Shaped (s.elem e) → Answers (.inputClose e c) s fun t =>
        ((t.elem e).in_ c).closed = true ∧ ((∀ k ∈ g.wiredIns e, k ≠ c → ((s.elem e).in_ k).closed = true) → (t.elem e).saved = true) ∧ t.mem = s.mem) ∧
    (∀ (gi c k : Nat) (g : Region) (l : Launch), s.region? gi = some g → g.cut = .running c → s.cutDone g = true → s.launch? g.launch = some l →
      (g.freeze = some (.fault k) → Answers (.cutComplete gi) s fun t =>
        (∃ r : Region, t.region? gi = some r ∧ r.cut = .complete c) ∧
          (s.savable g = true → (∃ v ∈ t.faults.saves, v.launch = g.launch ∧ v.cutno = g.cutno ∧ v.since = c) ∧ ∀ f ∈ t.flights, f.region ≠ gi) ∧
          (s.savable g = false → t.flights.map (·.id) = s.flights.map (·.id))) ∧
      (g.freeze = some .preempt → s.savable g = true → Answers (.cutComplete gi) s fun t =>
        t.region? gi = none ∧ (∀ f ∈ t.flights, f.region ≠ gi) ∧ (∃ v ∈ t.faults.saves, v.launch = g.launch ∧ v.cutno = g.cutno) ∧
          ∃ x : Launch, t.launch? g.launch = some x ∧ x.state = .ready s.tick ∧ x.save ≠ none) ∧
      (g.freeze = some .preempt → s.savable g = false → Answers (.cutComplete gi) s fun t =>
        ∃ r : Region, t.region? gi = some r ∧ r.freeze = g.brk.map Freeze.brk ∧ r.cut = .none)) ∧
    (∀ (li : Nat) (l : Launch) (c : List Region), s.launch? li = some l → s.impatient l = true → (∀ g ∈ s.regions, g.live = true → g.freeze ≠ some .preempt) →
      s.placing l.lrec l.img = .wait → s.enough l s.victims s.victims.length = some c → Answers (.preempt li) s fun t =>
        ((∀ v ∈ c, s.loadingAt v = false) → (∀ v ∈ c, ∃ r : Region, t.region? v.id = some r ∧ r.freeze = some .preempt) ∧ t = { s with regions := t.regions }) ∧
        ∀ v, c = [v] → s.loadingAt v = true → t.region? v.id = none ∧ ∃ x : Launch, t.launch? v.launch = some x ∧ x.state = .ready s.tick) ∧
    (∀ (li n : Nat) (l : Launch) (v : Save), s.launch? li = some l → s.saveOf l = some v → l.state = .ready n → n ≤ s.tick → l.again = none → s.saveSound v = true →
      ∀ ox oy : Nat, s.placeAgain l v.region = .place ox oy → s.netHeld l { v.region with ox := ox, oy := oy } = false → Answers (.restore li) s fun t =>
        (∃ (x : Launch) (till : Nat), t.launch? li = some x ∧ x.state = .loading till ∧ s.tick + 360 ≤ till ∧ x.save = l.save) ∧
          ∃ g : Region, t.region? v.region.id = some g ∧ g.ox = ox ∧ g.oy = oy ∧ g.live = false ∧ g.passed = v.region.passed) ∧
    (∀ (li till : Nat) (l : Launch) (v : Save) (g : Region), s.launch? li = some l → s.saveOf l = some v → l.state = .loading till → till ≤ s.tick →
      s.region? l.region = some g → g.brk = none → s.fetchToken g.id = none → (∀ x ∈ v.planes g, ∃ w u, s.refetch g.id x.1 x.2 = .done (w, false) u) →
      (∀ f ∈ v.flights, ∀ w, f.wait ≠ .park w ∧ f.wait ≠ .withdrawn (.park w)) → Answers (.restore li) s fun t =>
        (∃ x : Launch, t.launch? li = some x ∧ x.state = .running ∧ x.save = none) ∧
          (∃ r : Region, t.region? g.id = some r ∧ r.live = true ∧ r.freeze = none ∧ r.cut = .none) ∧
          t.flights.map (·.id) = s.flights.map (·.id) ++ v.flights.map (·.id) ∧ ∀ x ∈ t.faults.saves, x.id ≠ v.id) ∧
    (∀ (k : Nat) (r : FaultRec) (g : Region), s.record? k = some r → s.region? r.region = some g → g.launch = r.launch →
      (s.dispositionOf r = some 2 → g.ending = none → Answers (.faultDisposition k 2) s fun t =>
        (∃ x : Region, t.region? r.region = some x ∧ x.ending = some (abortStatus r.code, 0, r.slotAddr)) ∧ t.record? k = none ∧ t.mem = s.mem) ∧
      (∀ l : Launch, s.dispositionOf r = some 0 → s.launch? r.launch = some l → r.saved = true → l.save ≠ none → l.stays g = false →
        g.stands r = true → l.state = .running → Answers (.faultDisposition k 0) s fun t => (∃ x : Launch, t.launch? r.launch = some x ∧ x.state = .ready s.tick ∧ x.save = l.save) ∧ t.region? g.id = none) ∧
      (∀ l : Launch, s.dispositionOf r = some 1 → s.launch? r.launch = some l → g.restartable = false → l.lrec.restart = true → g.follow = none →
        (s.fit l.img g.ox g.oy g.id = .ok → Answers (.faultDisposition k 1) s fun t =>
          (∃ (x : Launch) (n : Nat), t.launch? r.launch = some x ∧ x.state = .loading n ∧ s.tick + 360 ≤ n ∧ x.again = none) ∧
            ∃ x : Region, t.region? g.id = some x ∧ x.passed = 0 ∧ x.freeze = none ∧ x.ending = none) ∧
        (s.fit l.img g.ox g.oy g.id ≠ .ok → l.stays g = false → Answers (.faultDisposition k 1) s fun t => t.region? g.id = none ∧
          ∃ x : Launch, t.launch? r.launch = some x ∧ x.state = .ready s.tick ∧ x.again = some (g, 0))))

/-! ## The debugger -/

/-- The debugger (R277, R399, R404 to R406): ARM arms the stop; at STOPTICK every clock stops, no element changed, and a dump holds the state; RESUME runs on from the same tick; a walk begins at the latest
note of the element DBGPROBE names, and writes its number of entries and its end reason; CONTINUE thaws the region of the oldest break,
whose BRK passes once, unless a fault has frozen it too, and the save of that region, where it has one, holds no break any more; ABORT ends its launch with STATUS 4. The dump taken in the stop step is log 20; GO on an element
without a note, GO during a walk, and the whole buffer in one step are log 21. -/
def Obligations.DebugSteps : Prop :=
  ∀ (s : State) (v : Word),
    (s.mgmt.ready = true → Answers (.stopArm v) s fun t => t.dbg.arm = v.toNat.testBit 0 ∧ t.elems = s.elems ∧ t.mem = s.mem) ∧
    (s.dbg.arm = true → s.dbg.stopped = false → s.now = s.dbg.stoptick → s.phase = 0 → Answers .stop s fun t =>
      t.dbg.stopped = true ∧ t.tick = s.tick ∧ t.elems = s.elems ∧ t.flights = s.flights ∧ (s.dbg.trcfg.getLsbD 0 = false → t.mem = s.mem) ∧
        ∃ d : Dump, t.dbg.dump = some d ∧ d.tick = s.tick ∧ d.elems = s.elems ∧ d.tiles = s.tiles ∧ d.nodes = s.nodes ∧ d.flights = s.flights) ∧
    (s.mgmt.ready = true → s.dbg.stopped = true → Answers .stopResume s fun t =>
      t.dbg.stopped = false ∧ t.dbg.arm = false ∧ t.tick = s.tick ∧ t.elems = s.elems ∧ t.mem = s.mem) ∧
    (s.mgmt.ready = true → v.toNat.testBit 48 = true →
      let e := elemKey (tileKey (bits v.toNat 39 32) (bits v.toNat 47 40)) (bits v.toNat 31 29)
      let p := s.dbg.dbgpbuf.toNat
      (∀ n : Note, (s.elem e).walks = [] → (s.elem e).notes.getLast? = some n → Answers (.dbgprobeGo v) s fun t =>
        (∃ w : Walk, (t.elem e).walks = [w] ∧ w.note = n ∧ w.buf = p ∧ w.elem = e ∧ w.virt = false) ∧ t.dbg.dbgprobe.toNat.testBit 48 = true ∧ t.mem = s.mem) ∧
      ((s.elem e).walks ≠ [] → MemoryCanonical s → Answers (.dbgprobeGo v) s fun t =>
        t.double p = 2 ^ 64 - 1 ∧ t.dbg.dbgprobe.toNat.testBit 48 = false ∧ t.elems = s.elems) ∧
      ((s.elem e).walks = [] → (s.elem e).notes = [] → s.dbg.trcfg.getLsbD 0 = false → NoWaiters s → MemoryCanonical s → Answers (.dbgprobeGo v) s fun t =>
        t.double (p + 8) = 0 ∧ t.double (p + 16) = 2 ∧ t.dbg.dbgprobe.toNat.testBit 48 = false)) ∧
    (∀ (e : Nat) (w : Walk) (rest : List Walk), (s.elem e).walks = w :: rest → w.virt = false → s.dbg.trcfg.getLsbD 0 = false → NoWaiters s → MemoryCanonical s → Answers (.criticalPathWalk e) s fun t =>
      t.double w.buf = w.probe % 2 ^ 64 ∧ t.double (w.buf + 8) = (s.walkFrom' 126 w.elem w.note).1.length ∧ t.double (w.buf + 8) ≤ 126 ∧
        t.double (w.buf + 16) = (s.walkFrom' 126 w.elem w.note).2 ∧ (t.elem e).walks = rest ∧ t.dbg.dbgprobe.toNat.testBit 48 = false) ∧
    (∀ (r : FaultRec) (g : Region), s.mgmt.ready = true → s.oldestBreak = some r → s.region? r.region = some g →
      (r.ctx < 4 → Shaped (s.elem (elemKey (tileKey r.x r.y) r.elem)) → (s.elem (elemKey (tileKey r.x r.y) r.elem)).region = some r.region → Answers .brkresContinue s fun t =>
        (∃ x : Region, t.region? r.region = some x ∧ x.brk = none ∧
          (g.freeze = some (.brk r.id) → x.freeze = none ∧ x.cut = .none) ∧ (g.freeze ≠ some (.brk r.id) → x.freeze = g.freeze ∧ x.cut = g.cut)) ∧ (t.ctx (elemKey (tileKey r.x r.y) r.elem) r.ctx).breakPass = some r.slot ∧
          t.record? r.id = none ∧ t.mem = s.mem ∧ ∀ v ∈ t.faults.saves, v.region.id = r.region → v.region.brk = none) ∧
      (g.launch = r.launch → g.ending = none → r.code = 0x202 → Answers .brkresAbort s fun t =>
        (∃ x : Region, t.region? r.region = some x ∧ x.ending = some (4, 0, r.slotAddr)) ∧ t.record? r.id = none ∧ t.mem = s.mem))

/-! ## The host, the application cores, the package -/

/-- The host and the cores (R222, R386 to R392): a host write within HDM puts its bytes there and nowhere else, a read returns them; an address outside HDM is no access; an
access to the host window goes on to it; a core's load, store or AMO of device memory sets out for its owner, in two accesses where it crosses 4 KiB (log 26);
one of a reserved address and a misaligned AMO (log 26) fault, and one of a core that waits is put off with the core's later steps; a withheld access of a core faults after 50 µs; a store to a wake register fills it. That an address outside
HDM faults is log 25; that a core's later steps are put off, and other sizes fault, is log 26 too. -/
def Obligations.HostSteps : Prop :=
  ∀ s : State,
    (∀ (pa : Nat) (b : List Byte), pa + b.length ≤ Config.hbmSize ∨ (Config.scratchBase ≤ pa ∧ pa + b.length ≤ Config.scratchBase + Config.scratchSize) →
      NoWaiters s → MemoryCanonical s → Answers (.hostMemWrite pa b) s fun t =>
        (∀ n < b.length, memGet t.mem (pa + n) = b.getD n 0) ∧ SameMemory s t (fun x => pa ≤ x ∧ x < pa + b.length) ∧ SameHeld s t ∧ t.elems = s.elems) ∧
    (∀ pa n : Nat, pa + n ≤ Config.hbmSize ∨ (Config.scratchBase ≤ pa ∧ pa + n ≤ Config.scratchBase + Config.scratchSize) → s.poison = [] →
      Answers (.hostMemRead pa n) s fun t => t.hostReads = s.hostReads ++ [(pa, memRead s.mem pa n)] ∧ t.mem = s.mem) ∧
    (∀ (pa : Nat) (b : List Byte), hdmMapped pa b.length = false → exec (.hostMemWrite pa b) s = .fault (.hostUnmapped pa)) ∧
    (∀ pa n : Nat, hdmMapped pa n = false → exec (.hostMemRead pa n) s = .fault (.hostUnmapped pa)) ∧
    (∀ (ai p : Nat) (a : Access), s.access? ai = some a → a.stage = .hostWindow p → a.due ≤ s.tick → s.dbg.stopped = false → Answers (.hostWindowAccess ai) s fun t =>
      (∃ x : Access, t.access? ai = some x ∧ x.stage = .toNode p ∧ s.tick < x.due) ∧ t.mem = s.mem) ∧
    (∀ (c : Nat) (q : CoreReq), c < 32 →
      let p := q.pa % 2 ^ 56
      let sets := fun (t : State) (k : AccKind) (va : Nat) => ∃ a : Access, t.accesses = s.accesses ++ [a] ∧ a.kind = k ∧ a.va = va ∧ a.size = q.size ∧ a.core = some c ∧
        a.stage = .toOwner ∧ a.data = q.val.setWidth 512 ∧ s.tick < a.due
      let fails := fun (o : CoreOp) (t : State) => t = { s with coreDone := s.coreDone ++ [⟨c, 0, true, p, o⟩] }
      let op := if q.wr then CoreOp.store else CoreOp.load
      let behind := fun (x : Nat × Instr) => if coreOf x.2 = some c then (max x.1 (s.tick + 1), x.2) else x
      let waits := fun (i : Instr) (t : State) => t = { s with inputs := (s.tick + 1, i) :: s.inputs.map behind }
      (s.coreWaits c = true → Answers (.coreAccess c q) s (waits (.coreAccess c q)) ∧ Answers (.coreAmo c q) s (waits (.coreAmo c q))) ∧
      (∀ va, s.coreWaits c = false → s.coreTarget c q.pa = .device va → q.size ∈ [1, 2, 4, 8] →
        (va % 4096 + q.size ≤ 4096 → Answers (.coreAccess c q) s fun t => sets t (if q.wr then .coreStore else .coreLoad) va ∧ t.mem = s.mem) ∧
        (4096 < va % 4096 + q.size → Answers (.coreAccess c q) s fun t => t.mem = s.mem ∧ ∃ a b : Access, t.accesses = s.accesses ++ [a, b] ∧
          a.core = some c ∧ b.core = some c ∧ a.va = va ∧ a.size = 4096 - va % 4096 ∧ b.va = va + a.size ∧ b.size = q.size - a.size ∧
          a.data = q.val.setWidth 512 ∧ b.data = (q.val >>> (8 * a.size)).setWidth 512)) ∧
      (∀ va, s.coreWaits c = false → s.coreTarget c q.pa = .device va → q.size ∉ [1, 2, 4, 8] → Answers (.coreAccess c q) s (fails op)) ∧
      (s.coreWaits c = false → s.coreTarget c q.pa = .reserved → Answers (.coreAccess c q) s (fails op) ∧ Answers (.coreAmo c q) s (fails .amo)) ∧
      (∀ va, s.coreWaits c = false → s.coreTarget c q.pa = .device va →
        (q.size ∈ [4, 8] → va % q.size = 0 → q.amo < 9 → q.rl = false → Answers (.coreAmo c q) s fun t =>
          sets t (.coreAmo (if q.amo = 7 then 9 else if q.amo = 8 then 10 else q.amo)) va ∧ t.mem = s.mem) ∧
        (q.size ∈ [4, 8] → va % q.size ≠ 0 → Answers (.coreAmo c q) s (fails .amo))) ∧
      (p.testBit 55 = true → s.coreTarget c q.pa = .device (bits s.part.cwhome.toNat (2 * (c / 8) + 1) (2 * (c / 8)) * 2 ^ 55 + p % 2 ^ 55))) ∧
    (∀ (c cd since : Nat) (a : Access), s.accesses = [a] → a.core = some c → a.stage = .withheld cd since → since + s.holdTicks 0 cd ≤ s.tick → s.dbg.stopped = false →
      Answers (.coreAccessTimeout c) s fun t => t.accesses = [] ∧ ∃ o, t.coreDone = s.coreDone ++ [⟨c, 0, true, 2 ^ 55 + a.va % 2 ^ 55, o⟩] ∧
        (a.kind = .coreStore → o = .store) ∧ (a.kind = .coreLoad → o = .load) ∧ ∀ n, a.kind = .coreAmo n → o = .amo) ∧
    (∀ (c w : Nat) (v : Word), c < 32 → w < 4096 → s.coreWaits c = false → (∀ a ∈ s.accesses, a.core ≠ some c) → (s.wake w).state = 0 → Answers (.coreWakeStore c w v) s fun t =>
      t.wake w = { state := 1, fire := 0, val := v, count := 1 } ∧ t.coreDone = s.coreDone ++ [⟨c, 0, false, 0, .store⟩] ∧ t.mem = s.mem)

/-- Links between packages, power-up and reset (R369, R393 to R398, R408 to R411): a flit taken in order raises the SEQ its link expects, one out of order is dropped, one for another device is forwarded, one
that fails its CRC is answered once and fences its link the second time; the tick master is lost or sends; recovery unroutes a device, fences the links to it
and freezes the launches that run; power-up sets READY with memory zero and the image running, or FAIL with what the phases before have done; firmware is
staged only where it verifies; a report is written whole and
GO clears; RESET leaves the reset state but for what is still to come, and FWSTAGED 0. The log pair of a lost tick master is log 19, the SEQ of a NAK and flits
ahead of their turn log 29, the unmoved tick log 30, the recovery log 31, the open outcome of power-up and what RESET keeps log 32, READY beside the FAIL of a
failed staging log 33, the report in one step log 34. -/
def Obligations.PackageSteps : Prop :=
  ∀ s : State,
    (∀ (j : Nat) (x : Flit), s.dbg.stopped = false → s.linkRuns j = true → s.part.links.length = 18 →
      let forms : List (Instr × Nat) := [(.flitIdle j x, 0), (.flitCollectiveData j x, 1), (.flitTick j x, 2), (.flitControl j x, 3), (.flitNak j x, 4)]
      let sound := (flitCrc (x.toNat % 2 ^ 1984)).toNat = flitBits x 2047 1984
      -- a flit that had failed before leaves a record of a transient error where the trace runs (R369, R401)
      let quiet := (s.link j).rxSeq ∉ (s.link j).failed ∨ s.dbg.trcfg.getLsbD 0 = false
      ∀ p ∈ forms,
        (sound → flitKind x = p.2 → flitSeq x = (s.link j).rxSeq → flitDst x = s.part.devid ∨ p.2 ∈ [0, 4] → Answers p.1 s fun t =>
          (t.link j).rxSeq = (s.link j).rxSeq + 1 ∧ (t.link j).fenced = false ∧ (quiet → t.mem = s.mem) ∧ t.elems = s.elems ∧ t.tick = s.tick ∧
            (p.2 = 2 → t.part.tickLost = false)) ∧
        (sound → flitKind x = p.2 → flitSeq x ≠ (s.link j).rxSeq → Answers p.1 s fun t =>
          (t.link j).rxSeq = (s.link j).rxSeq ∧ t.colls = s.colls ∧ t.part.inbox = s.part.inbox ∧ t.mem = s.mem ∧ t.part.tickLost = s.part.tickLost) ∧
        (∀ k, sound → flitKind x = p.2 → flitSeq x = (s.link j).rxSeq → flitDst x ≠ s.part.devid → p.2 ∉ [0, 4] → s.routeTo (flitDst x) = some k → k ≠ j →
          s.linkRuns k = true → (s.link k).waiting = [] → (s.link k).retry.length < 512 → Answers p.1 s fun t =>
            (t.link j).rxSeq = (s.link j).rxSeq + 1 ∧ (t.link k).out.length = (s.link k).out.length + 1 ∧ t.colls = s.colls ∧ t.part.inbox = s.part.inbox ∧
              (quiet → t.mem = s.mem)) ∧
        let n := if (flitSeq x - (s.link j).rxSeq).toNat < 512 then flitSeq x else (s.link j).rxSeq
        (¬ sound → n ∉ (s.link j).failed → Answers p.1 s fun t =>
          (t.link j).failed = (s.link j).failed ++ [n] ∧ (t.link j).rxSeq = (s.link j).rxSeq ∧ t.mem = s.mem ∧
            ((s.link j).waiting = [] → (s.link j).retry.length < 512 → (t.link j).out.length = (s.link j).out.length + 1)) ∧
        (¬ sound → n ∈ (s.link j).failed → Answers p.1 s fun t => (t.link j).fenced = true ∧ (t.link j).up = false ∧ t.mem = s.mem)) ∧
    (s.mgmt.ready = true → s.dbg.stopped = false →
      (s.part.devid = 0 → s.tick % 65536 = 0 → 0 < s.tick → s.part.tickSent ≠ s.tick + 1 → Answers .tickFlitSend s fun t =>
        t.part.tickSent = s.tick + 1 ∧ t.mem = s.mem ∧ t.tick = s.tick) ∧
      (s.part.devid ≠ 0 → s.routeTo 0 = none → s.part.tickLost = false → Answers .tickMasterLoss s fun t =>
        t.part.tickLost = true ∧ t.mgmt.log = s.mgmt.log ++ [(10, s.tick)] ∧ t.tick = s.tick ∧ t.mem = s.mem) ∧
      (∀ d < 2048, s.part.recovering ≠ some d ∨ s.recoveryRuns = false → NoWaiters s → MemoryCanonical s → s.part.links.length = 18 → Answers (.partitionRecovery d) s fun t =>
        let b := s.part.rtbase.toNat
        memGet t.mem (b + d) = 0xFF ∧ SameMemory s t (fun a => b ≤ a ∧ a < b + 2048) ∧
          (∀ e < 2048, e ≠ d → (memGet s.mem (b + e)).toNat ∉ lostLinks d → memGet t.mem (b + e) = memGet s.mem (b + e)) ∧
          (∀ j < 18, Config.farEnd j = d → (t.link j).fenced = true) ∧ t.part.recovering = some d ∧
          ∀ g ∈ t.regions, g.live = true → g.freeze = none → g.ending ≠ none ∨ g.halt ≠ none)) ∧
    (s.mgmt.ready = false → s.mgmt.fail = 0 →
      let n := s.mgmt.boots
      let img := if s.mgmt.staged ≠ [] then s.mgmt.staged else if s.mgmt.running.isEmpty then Config.firmwareImage n else s.mgmt.running
      let runs := fun (t : State) => t.mgmt.running = img ∧ t.mgmt.fwsvn = Config.firmwareVersion (img.take 4096) % 2 ^ 32
      let signed := Config.firmwareVerifies (sha3_512 (img.take 64 ++ img.drop 4096)) (Config.firmwareSignature img) = true
      let fails := fun (c : Nat) (t : State) => t.mgmt.ready = false ∧ t.mgmt.fail = c
      (¬ signed → Answers .powerUp s (fails 1)) ∧
      (signed → Config.firmwareVersion (img.take 4096) < Config.firmwareFloor → Answers .powerUp s (fails 2)) ∧
      (signed → Config.firmwareFloor ≤ Config.firmwareVersion (img.take 4096) →
        (Config.bootFail n % 3 = 1 → Answers .powerUp s fun t => fails 3 t ∧ runs t) ∧
        (Config.bootFail n % 3 = 2 → Answers .powerUp s fun t => fails 4 t ∧ runs t ∧ ∀ j < t.part.links.length, (t.link j).up = true) ∧
        (Config.bootFail n % 3 = 0 → MemoryCanonical s → Answers .powerUp s fun t => t.mgmt.ready = true ∧ t.mgmt.fail = 0 ∧ runs t ∧ t.tick = 0 ∧
          t.mgmt.boots = n + 1 ∧ t.mgmt.ksave.length = 32 ∧ (∀ j < t.part.links.length, (t.link j).up = true) ∧
          ∀ a, memGet t.mem a = if isHostWin a then memGet s.mem a else 0))) ∧
    (s.mgmt.ready = true →
      let h := memRead s.mem s.mgmt.fwstage.toNat 4096
      let img := h ++ memRead s.mem (s.mgmt.fwstage.toNat + 4096) (Config.firmwareLength h)
      let ok := Config.firmwareVerifies (sha3_512 (img.take 64 ++ img.drop 4096)) (Config.firmwareSignature img) = true ∧
        Config.firmwareFloor ≤ Config.firmwareVersion (img.take 4096)
      (ok → Answers .firmwareStage s fun t => t.mgmt.fwstaged = true ∧ t.mgmt.staged = img ∧ t.mgmt.running = s.mgmt.running ∧ t.mgmt.fail = s.mgmt.fail ∧
        t.mem = s.mem) ∧
      (¬ ok → Answers .firmwareStage s fun t => t.mgmt.fwstaged = s.mgmt.fwstaged ∧ t.mgmt.fail ≠ 0 ∧ t.mgmt.ready = true)) ∧
    (s.mgmt.attGo = true → NoWaiters s → MemoryCanonical s → Answers .attestation s fun t =>
      t.mgmt.attGo = false ∧ memRead t.mem s.mgmt.attaddr.toNat s.attReport.length = s.attReport ∧
        SameMemory s t (fun a => s.mgmt.attaddr.toNat ≤ a ∧ a < s.mgmt.attaddr.toNat + s.attReport.length)) ∧
    Answers .reset s (fun t => t = { State.reset with inputs := s.inputs, free := s.free, mem := t.mem, poison := t.poison, mgmt := t.mgmt } ∧
      t.mgmt = { ({} : Mgmt) with boots := s.mgmt.boots, running := s.mgmt.running, staged := s.mgmt.staged } ∧ t.mgmt.fwstaged = false ∧
      (MemoryCanonical s → ∀ a, memGet t.mem a = if isHostWin a then memGet s.mem a else 0))
end

