-- ==== Sys2Proof/Laws/Lanes.lean ====
section
/-! SUPPORT. Lanes: what a packed word holds, what the lane-wise operations return, and the shape of a lane-wise result. -/

namespace Sys2Proof.Machine

open Sys2Proof.Safety

theorem packLanes_lt (w : Nat) (l : List Nat) : packLanes w l < 2 ^ (w * l.length) := by
  induction l with
  | nil => simp [packLanes]
  | cons r rs ih =>
    have h1 : r % 2 ^ w < 2 ^ w := Nat.mod_lt _ (Nat.two_pow_pos w)
    have h2 : 2 ^ (w * (r :: rs).length) = 2 ^ w * 2 ^ (w * rs.length) := by
      rw [← Nat.pow_add]; congr 1; simp; ring
    rw [h2]
    simp only [packLanes]
    calc r % 2 ^ w + 2 ^ w * packLanes w rs < 2 ^ w + 2 ^ w * packLanes w rs := by omega
      _ = 2 ^ w * (packLanes w rs + 1) := by ring
      _ ≤ 2 ^ w * 2 ^ (w * rs.length) := Nat.mul_le_mul_left _ ih

theorem laneAt_packLanes (w : Nat) (l : List Nat) (n : Nat) : laneAt (packLanes w l) w n = l.getD n 0 % 2 ^ w := by
  induction l generalizing n with
  | nil => simp [packLanes, laneAt]
  | cons r rs ih =>
    cases n with
    | zero => simp [packLanes, laneAt]
    | succ m =>
      have h1 : r % 2 ^ w < 2 ^ w := Nat.mod_lt _ (Nat.two_pow_pos w)
      have h : packLanes w (r :: rs) >>> (w * (m + 1)) = packLanes w rs >>> (w * m) := by
        rw [Nat.shiftRight_eq_div_pow, Nat.shiftRight_eq_div_pow, show w * (m + 1) = w + w * m by ring, Nat.pow_add,
          ← Nat.div_div_eq_div_mul]
        congr 1
        simp only [packLanes]
        rw [Nat.add_mul_div_left _ _ (Nat.two_pow_pos w), Nat.div_eq_of_lt h1, Nat.zero_add]
      have := ih m
      simp only [laneAt] at this ⊢
      rw [h, this]; simp

theorem laneAt_lt (x w l : Nat) : laneAt x w l < 2 ^ w := Nat.mod_lt _ (Nat.two_pow_pos w)

/-- A lane as a bit vector and as a number. -/
theorem lane_toNat (x : Val) (n l : Nat) : (lane x n l).toNat = laneAt x.bits.toNat n l := by
  simp [lane, laneAt, BitVec.extractLsb'_toNat]

theorem lane_eq_ofNat (x : Val) (n l : Nat) : lane x n l = BitVec.ofNat n (laneAt x.bits.toNat n l) := by
  apply BitVec.eq_of_toNat_eq
  rw [lane_toNat]; simp [Nat.mod_eq_of_lt (laneAt_lt _ _ _)]

theorem lanewise_fst (n : Nat) (f : Nat → Nat × Bool × Flags) : (lanewise n f).1 = (List.range n).map fun l => (f l).1 := by
  have : ∀ (l : List Nat), (l.foldr (fun l acc => let r := f l; (r.1 :: acc.1, r.2.1 || acc.2.1, r.2.2 ||| acc.2.2)) ([], false, (0 : Flags))).1
      = l.map fun l => (f l).1 := by
    intro l; induction l <;> simp_all
  exact this _

theorem lanewise_any (n : Nat) (f : Nat → Nat × Bool × Flags) : (lanewise n f).2.1 = true ↔ ∃ l < n, (f l).2.1 = true := by
  have : ∀ (l : List Nat), (l.foldr (fun l acc => let r := f l; (r.1 :: acc.1, r.2.1 || acc.2.1, r.2.2 ||| acc.2.2)) ([], false, (0 : Flags))).2.1 = true
      ↔ ∃ k ∈ l, (f k).2.1 = true := by
    intro l; induction l <;> simp_all
  simpa [lanewise] using this (List.range n)

theorem lanewise_flags (n : Nat) (f : Nat → Nat × Bool × Flags) : (lanewise n f).2.2 = flagsOver n fun l => (f l).2.2 := by
  have : ∀ (l : List Nat), (l.foldr (fun l acc => let r := f l; (r.1 :: acc.1, r.2.1 || acc.2.1, r.2.2 ||| acc.2.2)) ([], false, (0 : Flags))).2.2
      = l.foldr (fun l acc => (f l).2.2 ||| acc) 0 := by
    intro l; induction l <;> simp_all
  exact this _

theorem toNat_ofNat_lt {m x : Nat} (h : x < 2 ^ m) : (BitVec.ofNat m x).toNat = x := by
  rw [BitVec.toNat_ofNat, Nat.mod_eq_of_lt h]

/-- Lanes packed into a word are the lanes of its value. -/
theorem packed_isLanes (wide : Bool) (w fmt k : Nat) (f : Nat → BitVec w) (g : Nat → Nat) (hk : w * k ≤ 512)
    (hg : ∀ l < k, f l = BitVec.ofNat w (g l)) (hc : k ≤ laneCount w) :
    IsLanes wide w fmt k f
      { bits := BitVec.ofNat 512 (packLanes w ((List.range k).map g)), fmt := fmt, vl := if wide then countOf k (laneCount w) else 0 } := by
  have hlt : packLanes w ((List.range k).map g) < 2 ^ (w * k) := by simpa using packLanes_lt w ((List.range k).map g)
  have h512 : packLanes w ((List.range k).map g) < 2 ^ 512 := lt_of_lt_of_le hlt (Nat.pow_le_pow_right (by decide) hk)
  refine ⟨?_, ?_, rfl, ?_⟩
  · intro l hl
    rw [hg l hl]
    apply BitVec.eq_of_toNat_eq
    rw [lane_toNat, toNat_ofNat_lt h512, laneAt_packLanes, BitVec.toNat_ofNat]
    simp [List.getD, hl]
  · exact (toNat_ofNat_lt h512).le.trans_lt hlt
  · cases wide <;> simp [countOf]
    split <;> split <;> omega

theorem laneVal_isLanes (wide : Bool) (w fmt k : Nat) (f : Nat → BitVec w) (g : Nat → Nat) (hk : w * k ≤ 512)
    (hg : ∀ l < k, f l = BitVec.ofNat w (g l)) (hc : k ≤ laneCount w) :
    IsLanes wide w fmt k f (laneVal wide w fmt ((List.range k).map g)) := by
  have := packed_isLanes wide w fmt k f g hk hg hc
  simpa [laneVal] using this

theorem validOf_le (wide : Bool) (w : Nat) (srcs : List Val) (h : 1 ≤ laneCount w) : validOf wide w srcs ≤ laneCount w := by
  have : ∀ (l : List Nat) (a : Nat), l.foldl min a ≤ a := by
    intro l
    induction l with
    | nil => simp
    | cons x r ih => intro a; exact le_trans (ih _) (Nat.min_le_left _ _)
  unfold validOf
  cases wide
  · simpa using h
  · exact this _ _

theorem laneCount_mul (w : Nat) (h : w = 6 ∨ w = 4 ∨ w = 8 ∨ w = 16 ∨ w = 32 ∨ w = 64) : w * laneCount w ≤ 512 ∧ 1 ≤ laneCount w := by
  rcases h with rfl | rfl | rfl | rfl | rfl | rfl <;> decide

end Sys2Proof.Machine
end

