-- ==== Sys2Proof/Laws/State.lean ====
section
/-! SUPPORT. The fields of the state after each named update: one lemma for each field and update, so that a proof never
unfolds a record update. -/

namespace Sys2Proof.Machine

variable (s : State)

/-! ## State.setElem -/

@[simp] theorem State.setElem_tick (e : Nat) (x : Elem) : (s.setElem e x).tick = s.tick := rfl
@[simp] theorem State.setElem_phase (e : Nat) (x : Elem) : (s.setElem e x).phase = s.phase := rfl
@[simp] theorem State.setElem_cursor (e : Nat) (x : Elem) : (s.setElem e x).cursor = s.cursor := rfl
@[simp] theorem State.setElem_inputs (e : Nat) (x : Elem) : (s.setElem e x).inputs = s.inputs := rfl
@[simp] theorem State.setElem_free (e : Nat) (x : Elem) : (s.setElem e x).free = s.free := rfl
@[simp] theorem State.setElem_ids (e : Nat) (x : Elem) : (s.setElem e x).ids = s.ids := rfl
@[simp] theorem State.setElem_elems (e : Nat) (x : Elem) : (s.setElem e x).elems = tput s.elems e x := rfl
@[simp] theorem State.setElem_tiles (e : Nat) (x : Elem) : (s.setElem e x).tiles = s.tiles := rfl
@[simp] theorem State.setElem_swages (e : Nat) (x : Elem) : (s.setElem e x).swages = s.swages := rfl
@[simp] theorem State.setElem_flights (e : Nat) (x : Elem) : (s.setElem e x).flights = s.flights := rfl
@[simp] theorem State.setElem_mem (e : Nat) (x : Elem) : (s.setElem e x).mem = s.mem := rfl
@[simp] theorem State.setElem_poison (e : Nat) (x : Elem) : (s.setElem e x).poison = s.poison := rfl
@[simp] theorem State.setElem_held (e : Nat) (x : Elem) : (s.setElem e x).held = s.held := rfl
@[simp] theorem State.setElem_undo (e : Nat) (x : Elem) : (s.setElem e x).undo = s.undo := rfl
@[simp] theorem State.setElem_accesses (e : Nat) (x : Elem) : (s.setElem e x).accesses = s.accesses := rfl
@[simp] theorem State.setElem_turns (e : Nat) (x : Elem) : (s.setElem e x).turns = s.turns := rfl
@[simp] theorem State.setElem_shares (e : Nat) (x : Elem) : (s.setElem e x).shares = s.shares := rfl
@[simp] theorem State.setElem_xl (e : Nat) (x : Elem) : (s.setElem e x).xl = s.xl := rfl
@[simp] theorem State.setElem_sync (e : Nat) (x : Elem) : (s.setElem e x).sync = s.sync := rfl
@[simp] theorem State.setElem_waitv (e : Nat) (x : Elem) : (s.setElem e x).waitv = s.waitv := rfl
@[simp] theorem State.setElem_chains (e : Nat) (x : Elem) : (s.setElem e x).chains = s.chains := rfl
@[simp] theorem State.setElem_gapwin (e : Nat) (x : Elem) : (s.setElem e x).gapwin = s.gapwin := rfl
@[simp] theorem State.setElem_wakes (e : Nat) (x : Elem) : (s.setElem e x).wakes = s.wakes := rfl
@[simp] theorem State.setElem_tasks (e : Nat) (x : Elem) : (s.setElem e x).tasks = s.tasks := rfl
@[simp] theorem State.setElem_deplost (e : Nat) (x : Elem) : (s.setElem e x).deplost = s.deplost := rfl
@[simp] theorem State.setElem_queues (e : Nat) (x : Elem) : (s.setElem e x).queues = s.queues := rfl
@[simp] theorem State.setElem_decoder (e : Nat) (x : Elem) : (s.setElem e x).decoder = s.decoder := rfl
@[simp] theorem State.setElem_launches (e : Nat) (x : Elem) : (s.setElem e x).launches = s.launches := rfl
@[simp] theorem State.setElem_regions (e : Nat) (x : Elem) : (s.setElem e x).regions = s.regions := rfl
@[simp] theorem State.setElem_nodes (e : Nat) (x : Elem) : (s.setElem e x).nodes = s.nodes := rfl
@[simp] theorem State.setElem_engines (e : Nat) (x : Elem) : (s.setElem e x).engines = s.engines := rfl
@[simp] theorem State.setElem_frames (e : Nat) (x : Elem) : (s.setElem e x).frames = s.frames := rfl
@[simp] theorem State.setElem_colls (e : Nat) (x : Elem) : (s.setElem e x).colls = s.colls := rfl
@[simp] theorem State.setElem_seq (e : Nat) (x : Elem) : (s.setElem e x).seq = s.seq := rfl
@[simp] theorem State.setElem_faults (e : Nat) (x : Elem) : (s.setElem e x).faults = s.faults := rfl
@[simp] theorem State.setElem_dbg (e : Nat) (x : Elem) : (s.setElem e x).dbg = s.dbg := rfl
@[simp] theorem State.setElem_part (e : Nat) (x : Elem) : (s.setElem e x).part = s.part := rfl
@[simp] theorem State.setElem_mgmt (e : Nat) (x : Elem) : (s.setElem e x).mgmt = s.mgmt := rfl
@[simp] theorem State.setElem_coreDone (e : Nat) (x : Elem) : (s.setElem e x).coreDone = s.coreDone := rfl
@[simp] theorem State.setElem_hostReads (e : Nat) (x : Elem) : (s.setElem e x).hostReads = s.hostReads := rfl

/-! ## State.modElem -/

@[simp] theorem State.modElem_tick (e : Nat) (f : Elem → Elem) : (s.modElem e f).tick = s.tick := rfl
@[simp] theorem State.modElem_phase (e : Nat) (f : Elem → Elem) : (s.modElem e f).phase = s.phase := rfl
@[simp] theorem State.modElem_cursor (e : Nat) (f : Elem → Elem) : (s.modElem e f).cursor = s.cursor := rfl
@[simp] theorem State.modElem_inputs (e : Nat) (f : Elem → Elem) : (s.modElem e f).inputs = s.inputs := rfl
@[simp] theorem State.modElem_free (e : Nat) (f : Elem → Elem) : (s.modElem e f).free = s.free := rfl
@[simp] theorem State.modElem_ids (e : Nat) (f : Elem → Elem) : (s.modElem e f).ids = s.ids := rfl
@[simp] theorem State.modElem_elems (e : Nat) (f : Elem → Elem) : (s.modElem e f).elems = tput s.elems e (f (s.elem e)) := rfl
@[simp] theorem State.modElem_tiles (e : Nat) (f : Elem → Elem) : (s.modElem e f).tiles = s.tiles := rfl
@[simp] theorem State.modElem_swages (e : Nat) (f : Elem → Elem) : (s.modElem e f).swages = s.swages := rfl
@[simp] theorem State.modElem_flights (e : Nat) (f : Elem → Elem) : (s.modElem e f).flights = s.flights := rfl
@[simp] theorem State.modElem_mem (e : Nat) (f : Elem → Elem) : (s.modElem e f).mem = s.mem := rfl
@[simp] theorem State.modElem_poison (e : Nat) (f : Elem → Elem) : (s.modElem e f).poison = s.poison := rfl
@[simp] theorem State.modElem_held (e : Nat) (f : Elem → Elem) : (s.modElem e f).held = s.held := rfl
@[simp] theorem State.modElem_undo (e : Nat) (f : Elem → Elem) : (s.modElem e f).undo = s.undo := rfl
@[simp] theorem State.modElem_accesses (e : Nat) (f : Elem → Elem) : (s.modElem e f).accesses = s.accesses := rfl
@[simp] theorem State.modElem_turns (e : Nat) (f : Elem → Elem) : (s.modElem e f).turns = s.turns := rfl
@[simp] theorem State.modElem_shares (e : Nat) (f : Elem → Elem) : (s.modElem e f).shares = s.shares := rfl
@[simp] theorem State.modElem_xl (e : Nat) (f : Elem → Elem) : (s.modElem e f).xl = s.xl := rfl
@[simp] theorem State.modElem_sync (e : Nat) (f : Elem → Elem) : (s.modElem e f).sync = s.sync := rfl
@[simp] theorem State.modElem_waitv (e : Nat) (f : Elem → Elem) : (s.modElem e f).waitv = s.waitv := rfl
@[simp] theorem State.modElem_chains (e : Nat) (f : Elem → Elem) : (s.modElem e f).chains = s.chains := rfl
@[simp] theorem State.modElem_gapwin (e : Nat) (f : Elem → Elem) : (s.modElem e f).gapwin = s.gapwin := rfl
@[simp] theorem State.modElem_wakes (e : Nat) (f : Elem → Elem) : (s.modElem e f).wakes = s.wakes := rfl
@[simp] theorem State.modElem_tasks (e : Nat) (f : Elem → Elem) : (s.modElem e f).tasks = s.tasks := rfl
@[simp] theorem State.modElem_deplost (e : Nat) (f : Elem → Elem) : (s.modElem e f).deplost = s.deplost := rfl
@[simp] theorem State.modElem_queues (e : Nat) (f : Elem → Elem) : (s.modElem e f).queues = s.queues := rfl
@[simp] theorem State.modElem_decoder (e : Nat) (f : Elem → Elem) : (s.modElem e f).decoder = s.decoder := rfl
@[simp] theorem State.modElem_launches (e : Nat) (f : Elem → Elem) : (s.modElem e f).launches = s.launches := rfl
@[simp] theorem State.modElem_regions (e : Nat) (f : Elem → Elem) : (s.modElem e f).regions = s.regions := rfl
@[simp] theorem State.modElem_nodes (e : Nat) (f : Elem → Elem) : (s.modElem e f).nodes = s.nodes := rfl
@[simp] theorem State.modElem_engines (e : Nat) (f : Elem → Elem) : (s.modElem e f).engines = s.engines := rfl
@[simp] theorem State.modElem_frames (e : Nat) (f : Elem → Elem) : (s.modElem e f).frames = s.frames := rfl
@[simp] theorem State.modElem_colls (e : Nat) (f : Elem → Elem) : (s.modElem e f).colls = s.colls := rfl
@[simp] theorem State.modElem_seq (e : Nat) (f : Elem → Elem) : (s.modElem e f).seq = s.seq := rfl
@[simp] theorem State.modElem_faults (e : Nat) (f : Elem → Elem) : (s.modElem e f).faults = s.faults := rfl
@[simp] theorem State.modElem_dbg (e : Nat) (f : Elem → Elem) : (s.modElem e f).dbg = s.dbg := rfl
@[simp] theorem State.modElem_part (e : Nat) (f : Elem → Elem) : (s.modElem e f).part = s.part := rfl
@[simp] theorem State.modElem_mgmt (e : Nat) (f : Elem → Elem) : (s.modElem e f).mgmt = s.mgmt := rfl
@[simp] theorem State.modElem_coreDone (e : Nat) (f : Elem → Elem) : (s.modElem e f).coreDone = s.coreDone := rfl
@[simp] theorem State.modElem_hostReads (e : Nat) (f : Elem → Elem) : (s.modElem e f).hostReads = s.hostReads := rfl

/-! ## State.modCtx -/

@[simp] theorem State.modCtx_tick (e c : Nat) (f : Ctx → Ctx) : (s.modCtx e c f).tick = s.tick := rfl
@[simp] theorem State.modCtx_phase (e c : Nat) (f : Ctx → Ctx) : (s.modCtx e c f).phase = s.phase := rfl
@[simp] theorem State.modCtx_cursor (e c : Nat) (f : Ctx → Ctx) : (s.modCtx e c f).cursor = s.cursor := rfl
@[simp] theorem State.modCtx_inputs (e c : Nat) (f : Ctx → Ctx) : (s.modCtx e c f).inputs = s.inputs := rfl
@[simp] theorem State.modCtx_free (e c : Nat) (f : Ctx → Ctx) : (s.modCtx e c f).free = s.free := rfl
@[simp] theorem State.modCtx_ids (e c : Nat) (f : Ctx → Ctx) : (s.modCtx e c f).ids = s.ids := rfl
@[simp] theorem State.modCtx_elems (e c : Nat) (f : Ctx → Ctx) : (s.modCtx e c f).elems = tput s.elems e ((s.elem e).modCtx c f) := rfl
@[simp] theorem State.modCtx_tiles (e c : Nat) (f : Ctx → Ctx) : (s.modCtx e c f).tiles = s.tiles := rfl
@[simp] theorem State.modCtx_swages (e c : Nat) (f : Ctx → Ctx) : (s.modCtx e c f).swages = s.swages := rfl
@[simp] theorem State.modCtx_flights (e c : Nat) (f : Ctx → Ctx) : (s.modCtx e c f).flights = s.flights := rfl
@[simp] theorem State.modCtx_mem (e c : Nat) (f : Ctx → Ctx) : (s.modCtx e c f).mem = s.mem := rfl
@[simp] theorem State.modCtx_poison (e c : Nat) (f : Ctx → Ctx) : (s.modCtx e c f).poison = s.poison := rfl
@[simp] theorem State.modCtx_held (e c : Nat) (f : Ctx → Ctx) : (s.modCtx e c f).held = s.held := rfl
@[simp] theorem State.modCtx_undo (e c : Nat) (f : Ctx → Ctx) : (s.modCtx e c f).undo = s.undo := rfl
@[simp] theorem State.modCtx_accesses (e c : Nat) (f : Ctx → Ctx) : (s.modCtx e c f).accesses = s.accesses := rfl
@[simp] theorem State.modCtx_turns (e c : Nat) (f : Ctx → Ctx) : (s.modCtx e c f).turns = s.turns := rfl
@[simp] theorem State.modCtx_shares (e c : Nat) (f : Ctx → Ctx) : (s.modCtx e c f).shares = s.shares := rfl
@[simp] theorem State.modCtx_xl (e c : Nat) (f : Ctx → Ctx) : (s.modCtx e c f).xl = s.xl := rfl
@[simp] theorem State.modCtx_sync (e c : Nat) (f : Ctx → Ctx) : (s.modCtx e c f).sync = s.sync := rfl
@[simp] theorem State.modCtx_waitv (e c : Nat) (f : Ctx → Ctx) : (s.modCtx e c f).waitv = s.waitv := rfl
@[simp] theorem State.modCtx_chains (e c : Nat) (f : Ctx → Ctx) : (s.modCtx e c f).chains = s.chains := rfl
@[simp] theorem State.modCtx_gapwin (e c : Nat) (f : Ctx → Ctx) : (s.modCtx e c f).gapwin = s.gapwin := rfl
@[simp] theorem State.modCtx_wakes (e c : Nat) (f : Ctx → Ctx) : (s.modCtx e c f).wakes = s.wakes := rfl
@[simp] theorem State.modCtx_tasks (e c : Nat) (f : Ctx → Ctx) : (s.modCtx e c f).tasks = s.tasks := rfl
@[simp] theorem State.modCtx_deplost (e c : Nat) (f : Ctx → Ctx) : (s.modCtx e c f).deplost = s.deplost := rfl
@[simp] theorem State.modCtx_queues (e c : Nat) (f : Ctx → Ctx) : (s.modCtx e c f).queues = s.queues := rfl
@[simp] theorem State.modCtx_decoder (e c : Nat) (f : Ctx → Ctx) : (s.modCtx e c f).decoder = s.decoder := rfl
@[simp] theorem State.modCtx_launches (e c : Nat) (f : Ctx → Ctx) : (s.modCtx e c f).launches = s.launches := rfl
@[simp] theorem State.modCtx_regions (e c : Nat) (f : Ctx → Ctx) : (s.modCtx e c f).regions = s.regions := rfl
@[simp] theorem State.modCtx_nodes (e c : Nat) (f : Ctx → Ctx) : (s.modCtx e c f).nodes = s.nodes := rfl
@[simp] theorem State.modCtx_engines (e c : Nat) (f : Ctx → Ctx) : (s.modCtx e c f).engines = s.engines := rfl
@[simp] theorem State.modCtx_frames (e c : Nat) (f : Ctx → Ctx) : (s.modCtx e c f).frames = s.frames := rfl
@[simp] theorem State.modCtx_colls (e c : Nat) (f : Ctx → Ctx) : (s.modCtx e c f).colls = s.colls := rfl
@[simp] theorem State.modCtx_seq (e c : Nat) (f : Ctx → Ctx) : (s.modCtx e c f).seq = s.seq := rfl
@[simp] theorem State.modCtx_faults (e c : Nat) (f : Ctx → Ctx) : (s.modCtx e c f).faults = s.faults := rfl
@[simp] theorem State.modCtx_dbg (e c : Nat) (f : Ctx → Ctx) : (s.modCtx e c f).dbg = s.dbg := rfl
@[simp] theorem State.modCtx_part (e c : Nat) (f : Ctx → Ctx) : (s.modCtx e c f).part = s.part := rfl
@[simp] theorem State.modCtx_mgmt (e c : Nat) (f : Ctx → Ctx) : (s.modCtx e c f).mgmt = s.mgmt := rfl
@[simp] theorem State.modCtx_coreDone (e c : Nat) (f : Ctx → Ctx) : (s.modCtx e c f).coreDone = s.coreDone := rfl
@[simp] theorem State.modCtx_hostReads (e c : Nat) (f : Ctx → Ctx) : (s.modCtx e c f).hostReads = s.hostReads := rfl

/-! ## State.modTile -/

@[simp] theorem State.modTile_tick (n : Nat) (f : Tile → Tile) : (s.modTile n f).tick = s.tick := rfl
@[simp] theorem State.modTile_phase (n : Nat) (f : Tile → Tile) : (s.modTile n f).phase = s.phase := rfl
@[simp] theorem State.modTile_cursor (n : Nat) (f : Tile → Tile) : (s.modTile n f).cursor = s.cursor := rfl
@[simp] theorem State.modTile_inputs (n : Nat) (f : Tile → Tile) : (s.modTile n f).inputs = s.inputs := rfl
@[simp] theorem State.modTile_free (n : Nat) (f : Tile → Tile) : (s.modTile n f).free = s.free := rfl
@[simp] theorem State.modTile_ids (n : Nat) (f : Tile → Tile) : (s.modTile n f).ids = s.ids := rfl
@[simp] theorem State.modTile_elems (n : Nat) (f : Tile → Tile) : (s.modTile n f).elems = s.elems := rfl
@[simp] theorem State.modTile_tiles (n : Nat) (f : Tile → Tile) : (s.modTile n f).tiles = tput s.tiles n (f (s.tile n)) := rfl
@[simp] theorem State.modTile_swages (n : Nat) (f : Tile → Tile) : (s.modTile n f).swages = s.swages := rfl
@[simp] theorem State.modTile_flights (n : Nat) (f : Tile → Tile) : (s.modTile n f).flights = s.flights := rfl
@[simp] theorem State.modTile_mem (n : Nat) (f : Tile → Tile) : (s.modTile n f).mem = s.mem := rfl
@[simp] theorem State.modTile_poison (n : Nat) (f : Tile → Tile) : (s.modTile n f).poison = s.poison := rfl
@[simp] theorem State.modTile_held (n : Nat) (f : Tile → Tile) : (s.modTile n f).held = s.held := rfl
@[simp] theorem State.modTile_undo (n : Nat) (f : Tile → Tile) : (s.modTile n f).undo = s.undo := rfl
@[simp] theorem State.modTile_accesses (n : Nat) (f : Tile → Tile) : (s.modTile n f).accesses = s.accesses := rfl
@[simp] theorem State.modTile_turns (n : Nat) (f : Tile → Tile) : (s.modTile n f).turns = s.turns := rfl
@[simp] theorem State.modTile_shares (n : Nat) (f : Tile → Tile) : (s.modTile n f).shares = s.shares := rfl
@[simp] theorem State.modTile_xl (n : Nat) (f : Tile → Tile) : (s.modTile n f).xl = s.xl := rfl
@[simp] theorem State.modTile_sync (n : Nat) (f : Tile → Tile) : (s.modTile n f).sync = s.sync := rfl
@[simp] theorem State.modTile_waitv (n : Nat) (f : Tile → Tile) : (s.modTile n f).waitv = s.waitv := rfl
@[simp] theorem State.modTile_chains (n : Nat) (f : Tile → Tile) : (s.modTile n f).chains = s.chains := rfl
@[simp] theorem State.modTile_gapwin (n : Nat) (f : Tile → Tile) : (s.modTile n f).gapwin = s.gapwin := rfl
@[simp] theorem State.modTile_wakes (n : Nat) (f : Tile → Tile) : (s.modTile n f).wakes = s.wakes := rfl
@[simp] theorem State.modTile_tasks (n : Nat) (f : Tile → Tile) : (s.modTile n f).tasks = s.tasks := rfl
@[simp] theorem State.modTile_deplost (n : Nat) (f : Tile → Tile) : (s.modTile n f).deplost = s.deplost := rfl
@[simp] theorem State.modTile_queues (n : Nat) (f : Tile → Tile) : (s.modTile n f).queues = s.queues := rfl
@[simp] theorem State.modTile_decoder (n : Nat) (f : Tile → Tile) : (s.modTile n f).decoder = s.decoder := rfl
@[simp] theorem State.modTile_launches (n : Nat) (f : Tile → Tile) : (s.modTile n f).launches = s.launches := rfl
@[simp] theorem State.modTile_regions (n : Nat) (f : Tile → Tile) : (s.modTile n f).regions = s.regions := rfl
@[simp] theorem State.modTile_nodes (n : Nat) (f : Tile → Tile) : (s.modTile n f).nodes = s.nodes := rfl
@[simp] theorem State.modTile_engines (n : Nat) (f : Tile → Tile) : (s.modTile n f).engines = s.engines := rfl
@[simp] theorem State.modTile_frames (n : Nat) (f : Tile → Tile) : (s.modTile n f).frames = s.frames := rfl
@[simp] theorem State.modTile_colls (n : Nat) (f : Tile → Tile) : (s.modTile n f).colls = s.colls := rfl
@[simp] theorem State.modTile_seq (n : Nat) (f : Tile → Tile) : (s.modTile n f).seq = s.seq := rfl
@[simp] theorem State.modTile_faults (n : Nat) (f : Tile → Tile) : (s.modTile n f).faults = s.faults := rfl
@[simp] theorem State.modTile_dbg (n : Nat) (f : Tile → Tile) : (s.modTile n f).dbg = s.dbg := rfl
@[simp] theorem State.modTile_part (n : Nat) (f : Tile → Tile) : (s.modTile n f).part = s.part := rfl
@[simp] theorem State.modTile_mgmt (n : Nat) (f : Tile → Tile) : (s.modTile n f).mgmt = s.mgmt := rfl
@[simp] theorem State.modTile_coreDone (n : Nat) (f : Tile → Tile) : (s.modTile n f).coreDone = s.coreDone := rfl
@[simp] theorem State.modTile_hostReads (n : Nat) (f : Tile → Tile) : (s.modTile n f).hostReads = s.hostReads := rfl

/-! ## State.modNode -/

@[simp] theorem State.modNode_tick (n : Nat) (f : MxNode → MxNode) : (s.modNode n f).tick = s.tick := rfl
@[simp] theorem State.modNode_phase (n : Nat) (f : MxNode → MxNode) : (s.modNode n f).phase = s.phase := rfl
@[simp] theorem State.modNode_cursor (n : Nat) (f : MxNode → MxNode) : (s.modNode n f).cursor = s.cursor := rfl
@[simp] theorem State.modNode_inputs (n : Nat) (f : MxNode → MxNode) : (s.modNode n f).inputs = s.inputs := rfl
@[simp] theorem State.modNode_free (n : Nat) (f : MxNode → MxNode) : (s.modNode n f).free = s.free := rfl
@[simp] theorem State.modNode_ids (n : Nat) (f : MxNode → MxNode) : (s.modNode n f).ids = s.ids := rfl
@[simp] theorem State.modNode_elems (n : Nat) (f : MxNode → MxNode) : (s.modNode n f).elems = s.elems := rfl
@[simp] theorem State.modNode_tiles (n : Nat) (f : MxNode → MxNode) : (s.modNode n f).tiles = s.tiles := rfl
@[simp] theorem State.modNode_swages (n : Nat) (f : MxNode → MxNode) : (s.modNode n f).swages = s.swages := rfl
@[simp] theorem State.modNode_flights (n : Nat) (f : MxNode → MxNode) : (s.modNode n f).flights = s.flights := rfl
@[simp] theorem State.modNode_mem (n : Nat) (f : MxNode → MxNode) : (s.modNode n f).mem = s.mem := rfl
@[simp] theorem State.modNode_poison (n : Nat) (f : MxNode → MxNode) : (s.modNode n f).poison = s.poison := rfl
@[simp] theorem State.modNode_held (n : Nat) (f : MxNode → MxNode) : (s.modNode n f).held = s.held := rfl
@[simp] theorem State.modNode_undo (n : Nat) (f : MxNode → MxNode) : (s.modNode n f).undo = s.undo := rfl
@[simp] theorem State.modNode_accesses (n : Nat) (f : MxNode → MxNode) : (s.modNode n f).accesses = s.accesses := rfl
@[simp] theorem State.modNode_turns (n : Nat) (f : MxNode → MxNode) : (s.modNode n f).turns = s.turns := rfl
@[simp] theorem State.modNode_shares (n : Nat) (f : MxNode → MxNode) : (s.modNode n f).shares = s.shares := rfl
@[simp] theorem State.modNode_xl (n : Nat) (f : MxNode → MxNode) : (s.modNode n f).xl = s.xl := rfl
@[simp] theorem State.modNode_sync (n : Nat) (f : MxNode → MxNode) : (s.modNode n f).sync = s.sync := rfl
@[simp] theorem State.modNode_waitv (n : Nat) (f : MxNode → MxNode) : (s.modNode n f).waitv = s.waitv := rfl
@[simp] theorem State.modNode_chains (n : Nat) (f : MxNode → MxNode) : (s.modNode n f).chains = s.chains := rfl
@[simp] theorem State.modNode_gapwin (n : Nat) (f : MxNode → MxNode) : (s.modNode n f).gapwin = s.gapwin := rfl
@[simp] theorem State.modNode_wakes (n : Nat) (f : MxNode → MxNode) : (s.modNode n f).wakes = s.wakes := rfl
@[simp] theorem State.modNode_tasks (n : Nat) (f : MxNode → MxNode) : (s.modNode n f).tasks = s.tasks := rfl
@[simp] theorem State.modNode_deplost (n : Nat) (f : MxNode → MxNode) : (s.modNode n f).deplost = s.deplost := rfl
@[simp] theorem State.modNode_queues (n : Nat) (f : MxNode → MxNode) : (s.modNode n f).queues = s.queues := rfl
@[simp] theorem State.modNode_decoder (n : Nat) (f : MxNode → MxNode) : (s.modNode n f).decoder = s.decoder := rfl
@[simp] theorem State.modNode_launches (n : Nat) (f : MxNode → MxNode) : (s.modNode n f).launches = s.launches := rfl
@[simp] theorem State.modNode_regions (n : Nat) (f : MxNode → MxNode) : (s.modNode n f).regions = s.regions := rfl
@[simp] theorem State.modNode_nodes (n : Nat) (f : MxNode → MxNode) : (s.modNode n f).nodes = tput s.nodes n (f (s.node n)) := rfl
@[simp] theorem State.modNode_engines (n : Nat) (f : MxNode → MxNode) : (s.modNode n f).engines = s.engines := rfl
@[simp] theorem State.modNode_frames (n : Nat) (f : MxNode → MxNode) : (s.modNode n f).frames = s.frames := rfl
@[simp] theorem State.modNode_colls (n : Nat) (f : MxNode → MxNode) : (s.modNode n f).colls = s.colls := rfl
@[simp] theorem State.modNode_seq (n : Nat) (f : MxNode → MxNode) : (s.modNode n f).seq = s.seq := rfl
@[simp] theorem State.modNode_faults (n : Nat) (f : MxNode → MxNode) : (s.modNode n f).faults = s.faults := rfl
@[simp] theorem State.modNode_dbg (n : Nat) (f : MxNode → MxNode) : (s.modNode n f).dbg = s.dbg := rfl
@[simp] theorem State.modNode_part (n : Nat) (f : MxNode → MxNode) : (s.modNode n f).part = s.part := rfl
@[simp] theorem State.modNode_mgmt (n : Nat) (f : MxNode → MxNode) : (s.modNode n f).mgmt = s.mgmt := rfl
@[simp] theorem State.modNode_coreDone (n : Nat) (f : MxNode → MxNode) : (s.modNode n f).coreDone = s.coreDone := rfl
@[simp] theorem State.modNode_hostReads (n : Nat) (f : MxNode → MxNode) : (s.modNode n f).hostReads = s.hostReads := rfl

/-! ## State.modEngine -/

@[simp] theorem State.modEngine_tick (n : Nat) (f : CopyEngine → CopyEngine) : (s.modEngine n f).tick = s.tick := rfl
@[simp] theorem State.modEngine_phase (n : Nat) (f : CopyEngine → CopyEngine) : (s.modEngine n f).phase = s.phase := rfl
@[simp] theorem State.modEngine_cursor (n : Nat) (f : CopyEngine → CopyEngine) : (s.modEngine n f).cursor = s.cursor := rfl
@[simp] theorem State.modEngine_inputs (n : Nat) (f : CopyEngine → CopyEngine) : (s.modEngine n f).inputs = s.inputs := rfl
@[simp] theorem State.modEngine_free (n : Nat) (f : CopyEngine → CopyEngine) : (s.modEngine n f).free = s.free := rfl
@[simp] theorem State.modEngine_ids (n : Nat) (f : CopyEngine → CopyEngine) : (s.modEngine n f).ids = s.ids := rfl
@[simp] theorem State.modEngine_elems (n : Nat) (f : CopyEngine → CopyEngine) : (s.modEngine n f).elems = s.elems := rfl
@[simp] theorem State.modEngine_tiles (n : Nat) (f : CopyEngine → CopyEngine) : (s.modEngine n f).tiles = s.tiles := rfl
@[simp] theorem State.modEngine_swages (n : Nat) (f : CopyEngine → CopyEngine) : (s.modEngine n f).swages = s.swages := rfl
@[simp] theorem State.modEngine_flights (n : Nat) (f : CopyEngine → CopyEngine) : (s.modEngine n f).flights = s.flights := rfl
@[simp] theorem State.modEngine_mem (n : Nat) (f : CopyEngine → CopyEngine) : (s.modEngine n f).mem = s.mem := rfl
@[simp] theorem State.modEngine_poison (n : Nat) (f : CopyEngine → CopyEngine) : (s.modEngine n f).poison = s.poison := rfl
@[simp] theorem State.modEngine_held (n : Nat) (f : CopyEngine → CopyEngine) : (s.modEngine n f).held = s.held := rfl
@[simp] theorem State.modEngine_undo (n : Nat) (f : CopyEngine → CopyEngine) : (s.modEngine n f).undo = s.undo := rfl
@[simp] theorem State.modEngine_accesses (n : Nat) (f : CopyEngine → CopyEngine) : (s.modEngine n f).accesses = s.accesses := rfl
@[simp] theorem State.modEngine_turns (n : Nat) (f : CopyEngine → CopyEngine) : (s.modEngine n f).turns = s.turns := rfl
@[simp] theorem State.modEngine_shares (n : Nat) (f : CopyEngine → CopyEngine) : (s.modEngine n f).shares = s.shares := rfl
@[simp] theorem State.modEngine_xl (n : Nat) (f : CopyEngine → CopyEngine) : (s.modEngine n f).xl = s.xl := rfl
@[simp] theorem State.modEngine_sync (n : Nat) (f : CopyEngine → CopyEngine) : (s.modEngine n f).sync = s.sync := rfl
@[simp] theorem State.modEngine_waitv (n : Nat) (f : CopyEngine → CopyEngine) : (s.modEngine n f).waitv = s.waitv := rfl
@[simp] theorem State.modEngine_chains (n : Nat) (f : CopyEngine → CopyEngine) : (s.modEngine n f).chains = s.chains := rfl
@[simp] theorem State.modEngine_gapwin (n : Nat) (f : CopyEngine → CopyEngine) : (s.modEngine n f).gapwin = s.gapwin := rfl
@[simp] theorem State.modEngine_wakes (n : Nat) (f : CopyEngine → CopyEngine) : (s.modEngine n f).wakes = s.wakes := rfl
@[simp] theorem State.modEngine_tasks (n : Nat) (f : CopyEngine → CopyEngine) : (s.modEngine n f).tasks = s.tasks := rfl
@[simp] theorem State.modEngine_deplost (n : Nat) (f : CopyEngine → CopyEngine) : (s.modEngine n f).deplost = s.deplost := rfl
@[simp] theorem State.modEngine_queues (n : Nat) (f : CopyEngine → CopyEngine) : (s.modEngine n f).queues = s.queues := rfl
@[simp] theorem State.modEngine_decoder (n : Nat) (f : CopyEngine → CopyEngine) : (s.modEngine n f).decoder = s.decoder := rfl
@[simp] theorem State.modEngine_launches (n : Nat) (f : CopyEngine → CopyEngine) : (s.modEngine n f).launches = s.launches := rfl
@[simp] theorem State.modEngine_regions (n : Nat) (f : CopyEngine → CopyEngine) : (s.modEngine n f).regions = s.regions := rfl
@[simp] theorem State.modEngine_nodes (n : Nat) (f : CopyEngine → CopyEngine) : (s.modEngine n f).nodes = s.nodes := rfl
@[simp] theorem State.modEngine_engines (n : Nat) (f : CopyEngine → CopyEngine) : (s.modEngine n f).engines = tput s.engines n (f (s.engine n)) := rfl
@[simp] theorem State.modEngine_frames (n : Nat) (f : CopyEngine → CopyEngine) : (s.modEngine n f).frames = s.frames := rfl
@[simp] theorem State.modEngine_colls (n : Nat) (f : CopyEngine → CopyEngine) : (s.modEngine n f).colls = s.colls := rfl
@[simp] theorem State.modEngine_seq (n : Nat) (f : CopyEngine → CopyEngine) : (s.modEngine n f).seq = s.seq := rfl
@[simp] theorem State.modEngine_faults (n : Nat) (f : CopyEngine → CopyEngine) : (s.modEngine n f).faults = s.faults := rfl
@[simp] theorem State.modEngine_dbg (n : Nat) (f : CopyEngine → CopyEngine) : (s.modEngine n f).dbg = s.dbg := rfl
@[simp] theorem State.modEngine_part (n : Nat) (f : CopyEngine → CopyEngine) : (s.modEngine n f).part = s.part := rfl
@[simp] theorem State.modEngine_mgmt (n : Nat) (f : CopyEngine → CopyEngine) : (s.modEngine n f).mgmt = s.mgmt := rfl
@[simp] theorem State.modEngine_coreDone (n : Nat) (f : CopyEngine → CopyEngine) : (s.modEngine n f).coreDone = s.coreDone := rfl
@[simp] theorem State.modEngine_hostReads (n : Nat) (f : CopyEngine → CopyEngine) : (s.modEngine n f).hostReads = s.hostReads := rfl

/-! ## State.modFrame -/

@[simp] theorem State.modFrame_tick (n : Nat) (f : Frames → Frames) : (s.modFrame n f).tick = s.tick := rfl
@[simp] theorem State.modFrame_phase (n : Nat) (f : Frames → Frames) : (s.modFrame n f).phase = s.phase := rfl
@[simp] theorem State.modFrame_cursor (n : Nat) (f : Frames → Frames) : (s.modFrame n f).cursor = s.cursor := rfl
@[simp] theorem State.modFrame_inputs (n : Nat) (f : Frames → Frames) : (s.modFrame n f).inputs = s.inputs := rfl
@[simp] theorem State.modFrame_free (n : Nat) (f : Frames → Frames) : (s.modFrame n f).free = s.free := rfl
@[simp] theorem State.modFrame_ids (n : Nat) (f : Frames → Frames) : (s.modFrame n f).ids = s.ids := rfl
@[simp] theorem State.modFrame_elems (n : Nat) (f : Frames → Frames) : (s.modFrame n f).elems = s.elems := rfl
@[simp] theorem State.modFrame_tiles (n : Nat) (f : Frames → Frames) : (s.modFrame n f).tiles = s.tiles := rfl
@[simp] theorem State.modFrame_swages (n : Nat) (f : Frames → Frames) : (s.modFrame n f).swages = s.swages := rfl
@[simp] theorem State.modFrame_flights (n : Nat) (f : Frames → Frames) : (s.modFrame n f).flights = s.flights := rfl
@[simp] theorem State.modFrame_mem (n : Nat) (f : Frames → Frames) : (s.modFrame n f).mem = s.mem := rfl
@[simp] theorem State.modFrame_poison (n : Nat) (f : Frames → Frames) : (s.modFrame n f).poison = s.poison := rfl
@[simp] theorem State.modFrame_held (n : Nat) (f : Frames → Frames) : (s.modFrame n f).held = s.held := rfl
@[simp] theorem State.modFrame_undo (n : Nat) (f : Frames → Frames) : (s.modFrame n f).undo = s.undo := rfl
@[simp] theorem State.modFrame_accesses (n : Nat) (f : Frames → Frames) : (s.modFrame n f).accesses = s.accesses := rfl
@[simp] theorem State.modFrame_turns (n : Nat) (f : Frames → Frames) : (s.modFrame n f).turns = s.turns := rfl
@[simp] theorem State.modFrame_shares (n : Nat) (f : Frames → Frames) : (s.modFrame n f).shares = s.shares := rfl
@[simp] theorem State.modFrame_xl (n : Nat) (f : Frames → Frames) : (s.modFrame n f).xl = s.xl := rfl
@[simp] theorem State.modFrame_sync (n : Nat) (f : Frames → Frames) : (s.modFrame n f).sync = s.sync := rfl
@[simp] theorem State.modFrame_waitv (n : Nat) (f : Frames → Frames) : (s.modFrame n f).waitv = s.waitv := rfl
@[simp] theorem State.modFrame_chains (n : Nat) (f : Frames → Frames) : (s.modFrame n f).chains = s.chains := rfl
@[simp] theorem State.modFrame_gapwin (n : Nat) (f : Frames → Frames) : (s.modFrame n f).gapwin = s.gapwin := rfl
@[simp] theorem State.modFrame_wakes (n : Nat) (f : Frames → Frames) : (s.modFrame n f).wakes = s.wakes := rfl
@[simp] theorem State.modFrame_tasks (n : Nat) (f : Frames → Frames) : (s.modFrame n f).tasks = s.tasks := rfl
@[simp] theorem State.modFrame_deplost (n : Nat) (f : Frames → Frames) : (s.modFrame n f).deplost = s.deplost := rfl
@[simp] theorem State.modFrame_queues (n : Nat) (f : Frames → Frames) : (s.modFrame n f).queues = s.queues := rfl
@[simp] theorem State.modFrame_decoder (n : Nat) (f : Frames → Frames) : (s.modFrame n f).decoder = s.decoder := rfl
@[simp] theorem State.modFrame_launches (n : Nat) (f : Frames → Frames) : (s.modFrame n f).launches = s.launches := rfl
@[simp] theorem State.modFrame_regions (n : Nat) (f : Frames → Frames) : (s.modFrame n f).regions = s.regions := rfl
@[simp] theorem State.modFrame_nodes (n : Nat) (f : Frames → Frames) : (s.modFrame n f).nodes = s.nodes := rfl
@[simp] theorem State.modFrame_engines (n : Nat) (f : Frames → Frames) : (s.modFrame n f).engines = s.engines := rfl
@[simp] theorem State.modFrame_frames (n : Nat) (f : Frames → Frames) : (s.modFrame n f).frames = tput s.frames n (f (s.frame n)) := rfl
@[simp] theorem State.modFrame_colls (n : Nat) (f : Frames → Frames) : (s.modFrame n f).colls = s.colls := rfl
@[simp] theorem State.modFrame_seq (n : Nat) (f : Frames → Frames) : (s.modFrame n f).seq = s.seq := rfl
@[simp] theorem State.modFrame_faults (n : Nat) (f : Frames → Frames) : (s.modFrame n f).faults = s.faults := rfl
@[simp] theorem State.modFrame_dbg (n : Nat) (f : Frames → Frames) : (s.modFrame n f).dbg = s.dbg := rfl
@[simp] theorem State.modFrame_part (n : Nat) (f : Frames → Frames) : (s.modFrame n f).part = s.part := rfl
@[simp] theorem State.modFrame_mgmt (n : Nat) (f : Frames → Frames) : (s.modFrame n f).mgmt = s.mgmt := rfl
@[simp] theorem State.modFrame_coreDone (n : Nat) (f : Frames → Frames) : (s.modFrame n f).coreDone = s.coreDone := rfl
@[simp] theorem State.modFrame_hostReads (n : Nat) (f : Frames → Frames) : (s.modFrame n f).hostReads = s.hostReads := rfl

/-! ## State.modTask -/

@[simp] theorem State.modTask_tick (n : Nat) (f : Task → Task) : (s.modTask n f).tick = s.tick := rfl
@[simp] theorem State.modTask_phase (n : Nat) (f : Task → Task) : (s.modTask n f).phase = s.phase := rfl
@[simp] theorem State.modTask_cursor (n : Nat) (f : Task → Task) : (s.modTask n f).cursor = s.cursor := rfl
@[simp] theorem State.modTask_inputs (n : Nat) (f : Task → Task) : (s.modTask n f).inputs = s.inputs := rfl
@[simp] theorem State.modTask_free (n : Nat) (f : Task → Task) : (s.modTask n f).free = s.free := rfl
@[simp] theorem State.modTask_ids (n : Nat) (f : Task → Task) : (s.modTask n f).ids = s.ids := rfl
@[simp] theorem State.modTask_elems (n : Nat) (f : Task → Task) : (s.modTask n f).elems = s.elems := rfl
@[simp] theorem State.modTask_tiles (n : Nat) (f : Task → Task) : (s.modTask n f).tiles = s.tiles := rfl
@[simp] theorem State.modTask_swages (n : Nat) (f : Task → Task) : (s.modTask n f).swages = s.swages := rfl
@[simp] theorem State.modTask_flights (n : Nat) (f : Task → Task) : (s.modTask n f).flights = s.flights := rfl
@[simp] theorem State.modTask_mem (n : Nat) (f : Task → Task) : (s.modTask n f).mem = s.mem := rfl
@[simp] theorem State.modTask_poison (n : Nat) (f : Task → Task) : (s.modTask n f).poison = s.poison := rfl
@[simp] theorem State.modTask_held (n : Nat) (f : Task → Task) : (s.modTask n f).held = s.held := rfl
@[simp] theorem State.modTask_undo (n : Nat) (f : Task → Task) : (s.modTask n f).undo = s.undo := rfl
@[simp] theorem State.modTask_accesses (n : Nat) (f : Task → Task) : (s.modTask n f).accesses = s.accesses := rfl
@[simp] theorem State.modTask_turns (n : Nat) (f : Task → Task) : (s.modTask n f).turns = s.turns := rfl
@[simp] theorem State.modTask_shares (n : Nat) (f : Task → Task) : (s.modTask n f).shares = s.shares := rfl
@[simp] theorem State.modTask_xl (n : Nat) (f : Task → Task) : (s.modTask n f).xl = s.xl := rfl
@[simp] theorem State.modTask_sync (n : Nat) (f : Task → Task) : (s.modTask n f).sync = s.sync := rfl
@[simp] theorem State.modTask_waitv (n : Nat) (f : Task → Task) : (s.modTask n f).waitv = s.waitv := rfl
@[simp] theorem State.modTask_chains (n : Nat) (f : Task → Task) : (s.modTask n f).chains = s.chains := rfl
@[simp] theorem State.modTask_gapwin (n : Nat) (f : Task → Task) : (s.modTask n f).gapwin = s.gapwin := rfl
@[simp] theorem State.modTask_wakes (n : Nat) (f : Task → Task) : (s.modTask n f).wakes = s.wakes := rfl
@[simp] theorem State.modTask_tasks (n : Nat) (f : Task → Task) : (s.modTask n f).tasks = tput s.tasks n (f (s.task n)) := rfl
@[simp] theorem State.modTask_deplost (n : Nat) (f : Task → Task) : (s.modTask n f).deplost = s.deplost := rfl
@[simp] theorem State.modTask_queues (n : Nat) (f : Task → Task) : (s.modTask n f).queues = s.queues := rfl
@[simp] theorem State.modTask_decoder (n : Nat) (f : Task → Task) : (s.modTask n f).decoder = s.decoder := rfl
@[simp] theorem State.modTask_launches (n : Nat) (f : Task → Task) : (s.modTask n f).launches = s.launches := rfl
@[simp] theorem State.modTask_regions (n : Nat) (f : Task → Task) : (s.modTask n f).regions = s.regions := rfl
@[simp] theorem State.modTask_nodes (n : Nat) (f : Task → Task) : (s.modTask n f).nodes = s.nodes := rfl
@[simp] theorem State.modTask_engines (n : Nat) (f : Task → Task) : (s.modTask n f).engines = s.engines := rfl
@[simp] theorem State.modTask_frames (n : Nat) (f : Task → Task) : (s.modTask n f).frames = s.frames := rfl
@[simp] theorem State.modTask_colls (n : Nat) (f : Task → Task) : (s.modTask n f).colls = s.colls := rfl
@[simp] theorem State.modTask_seq (n : Nat) (f : Task → Task) : (s.modTask n f).seq = s.seq := rfl
@[simp] theorem State.modTask_faults (n : Nat) (f : Task → Task) : (s.modTask n f).faults = s.faults := rfl
@[simp] theorem State.modTask_dbg (n : Nat) (f : Task → Task) : (s.modTask n f).dbg = s.dbg := rfl
@[simp] theorem State.modTask_part (n : Nat) (f : Task → Task) : (s.modTask n f).part = s.part := rfl
@[simp] theorem State.modTask_mgmt (n : Nat) (f : Task → Task) : (s.modTask n f).mgmt = s.mgmt := rfl
@[simp] theorem State.modTask_coreDone (n : Nat) (f : Task → Task) : (s.modTask n f).coreDone = s.coreDone := rfl
@[simp] theorem State.modTask_hostReads (n : Nat) (f : Task → Task) : (s.modTask n f).hostReads = s.hostReads := rfl

/-! ## State.modQueue -/

@[simp] theorem State.modQueue_tick (n : Nat) (f : Queue → Queue) : (s.modQueue n f).tick = s.tick := rfl
@[simp] theorem State.modQueue_phase (n : Nat) (f : Queue → Queue) : (s.modQueue n f).phase = s.phase := rfl
@[simp] theorem State.modQueue_cursor (n : Nat) (f : Queue → Queue) : (s.modQueue n f).cursor = s.cursor := rfl
@[simp] theorem State.modQueue_inputs (n : Nat) (f : Queue → Queue) : (s.modQueue n f).inputs = s.inputs := rfl
@[simp] theorem State.modQueue_free (n : Nat) (f : Queue → Queue) : (s.modQueue n f).free = s.free := rfl
@[simp] theorem State.modQueue_ids (n : Nat) (f : Queue → Queue) : (s.modQueue n f).ids = s.ids := rfl
@[simp] theorem State.modQueue_elems (n : Nat) (f : Queue → Queue) : (s.modQueue n f).elems = s.elems := rfl
@[simp] theorem State.modQueue_tiles (n : Nat) (f : Queue → Queue) : (s.modQueue n f).tiles = s.tiles := rfl
@[simp] theorem State.modQueue_swages (n : Nat) (f : Queue → Queue) : (s.modQueue n f).swages = s.swages := rfl
@[simp] theorem State.modQueue_flights (n : Nat) (f : Queue → Queue) : (s.modQueue n f).flights = s.flights := rfl
@[simp] theorem State.modQueue_mem (n : Nat) (f : Queue → Queue) : (s.modQueue n f).mem = s.mem := rfl
@[simp] theorem State.modQueue_poison (n : Nat) (f : Queue → Queue) : (s.modQueue n f).poison = s.poison := rfl
@[simp] theorem State.modQueue_held (n : Nat) (f : Queue → Queue) : (s.modQueue n f).held = s.held := rfl
@[simp] theorem State.modQueue_undo (n : Nat) (f : Queue → Queue) : (s.modQueue n f).undo = s.undo := rfl
@[simp] theorem State.modQueue_accesses (n : Nat) (f : Queue → Queue) : (s.modQueue n f).accesses = s.accesses := rfl
@[simp] theorem State.modQueue_turns (n : Nat) (f : Queue → Queue) : (s.modQueue n f).turns = s.turns := rfl
@[simp] theorem State.modQueue_shares (n : Nat) (f : Queue → Queue) : (s.modQueue n f).shares = s.shares := rfl
@[simp] theorem State.modQueue_xl (n : Nat) (f : Queue → Queue) : (s.modQueue n f).xl = s.xl := rfl
@[simp] theorem State.modQueue_sync (n : Nat) (f : Queue → Queue) : (s.modQueue n f).sync = s.sync := rfl
@[simp] theorem State.modQueue_waitv (n : Nat) (f : Queue → Queue) : (s.modQueue n f).waitv = s.waitv := rfl
@[simp] theorem State.modQueue_chains (n : Nat) (f : Queue → Queue) : (s.modQueue n f).chains = s.chains := rfl
@[simp] theorem State.modQueue_gapwin (n : Nat) (f : Queue → Queue) : (s.modQueue n f).gapwin = s.gapwin := rfl
@[simp] theorem State.modQueue_wakes (n : Nat) (f : Queue → Queue) : (s.modQueue n f).wakes = s.wakes := rfl
@[simp] theorem State.modQueue_tasks (n : Nat) (f : Queue → Queue) : (s.modQueue n f).tasks = s.tasks := rfl
@[simp] theorem State.modQueue_deplost (n : Nat) (f : Queue → Queue) : (s.modQueue n f).deplost = s.deplost := rfl
@[simp] theorem State.modQueue_queues (n : Nat) (f : Queue → Queue) : (s.modQueue n f).queues = tput s.queues n (f (s.queue n)) := rfl
@[simp] theorem State.modQueue_decoder (n : Nat) (f : Queue → Queue) : (s.modQueue n f).decoder = s.decoder := rfl
@[simp] theorem State.modQueue_launches (n : Nat) (f : Queue → Queue) : (s.modQueue n f).launches = s.launches := rfl
@[simp] theorem State.modQueue_regions (n : Nat) (f : Queue → Queue) : (s.modQueue n f).regions = s.regions := rfl
@[simp] theorem State.modQueue_nodes (n : Nat) (f : Queue → Queue) : (s.modQueue n f).nodes = s.nodes := rfl
@[simp] theorem State.modQueue_engines (n : Nat) (f : Queue → Queue) : (s.modQueue n f).engines = s.engines := rfl
@[simp] theorem State.modQueue_frames (n : Nat) (f : Queue → Queue) : (s.modQueue n f).frames = s.frames := rfl
@[simp] theorem State.modQueue_colls (n : Nat) (f : Queue → Queue) : (s.modQueue n f).colls = s.colls := rfl
@[simp] theorem State.modQueue_seq (n : Nat) (f : Queue → Queue) : (s.modQueue n f).seq = s.seq := rfl
@[simp] theorem State.modQueue_faults (n : Nat) (f : Queue → Queue) : (s.modQueue n f).faults = s.faults := rfl
@[simp] theorem State.modQueue_dbg (n : Nat) (f : Queue → Queue) : (s.modQueue n f).dbg = s.dbg := rfl
@[simp] theorem State.modQueue_part (n : Nat) (f : Queue → Queue) : (s.modQueue n f).part = s.part := rfl
@[simp] theorem State.modQueue_mgmt (n : Nat) (f : Queue → Queue) : (s.modQueue n f).mgmt = s.mgmt := rfl
@[simp] theorem State.modQueue_coreDone (n : Nat) (f : Queue → Queue) : (s.modQueue n f).coreDone = s.coreDone := rfl
@[simp] theorem State.modQueue_hostReads (n : Nat) (f : Queue → Queue) : (s.modQueue n f).hostReads = s.hostReads := rfl

/-! ## State.setWake -/

@[simp] theorem State.setWake_tick (n : Nat) (x : Wake) : (s.setWake n x).tick = s.tick := rfl
@[simp] theorem State.setWake_phase (n : Nat) (x : Wake) : (s.setWake n x).phase = s.phase := rfl
@[simp] theorem State.setWake_cursor (n : Nat) (x : Wake) : (s.setWake n x).cursor = s.cursor := rfl
@[simp] theorem State.setWake_inputs (n : Nat) (x : Wake) : (s.setWake n x).inputs = s.inputs := rfl
@[simp] theorem State.setWake_free (n : Nat) (x : Wake) : (s.setWake n x).free = s.free := rfl
@[simp] theorem State.setWake_ids (n : Nat) (x : Wake) : (s.setWake n x).ids = s.ids := rfl
@[simp] theorem State.setWake_elems (n : Nat) (x : Wake) : (s.setWake n x).elems = s.elems := rfl
@[simp] theorem State.setWake_tiles (n : Nat) (x : Wake) : (s.setWake n x).tiles = s.tiles := rfl
@[simp] theorem State.setWake_swages (n : Nat) (x : Wake) : (s.setWake n x).swages = s.swages := rfl
@[simp] theorem State.setWake_flights (n : Nat) (x : Wake) : (s.setWake n x).flights = s.flights := rfl
@[simp] theorem State.setWake_mem (n : Nat) (x : Wake) : (s.setWake n x).mem = s.mem := rfl
@[simp] theorem State.setWake_poison (n : Nat) (x : Wake) : (s.setWake n x).poison = s.poison := rfl
@[simp] theorem State.setWake_held (n : Nat) (x : Wake) : (s.setWake n x).held = s.held := rfl
@[simp] theorem State.setWake_undo (n : Nat) (x : Wake) : (s.setWake n x).undo = s.undo := rfl
@[simp] theorem State.setWake_accesses (n : Nat) (x : Wake) : (s.setWake n x).accesses = s.accesses := rfl
@[simp] theorem State.setWake_turns (n : Nat) (x : Wake) : (s.setWake n x).turns = s.turns := rfl
@[simp] theorem State.setWake_shares (n : Nat) (x : Wake) : (s.setWake n x).shares = s.shares := rfl
@[simp] theorem State.setWake_xl (n : Nat) (x : Wake) : (s.setWake n x).xl = s.xl := rfl
@[simp] theorem State.setWake_sync (n : Nat) (x : Wake) : (s.setWake n x).sync = s.sync := rfl
@[simp] theorem State.setWake_waitv (n : Nat) (x : Wake) : (s.setWake n x).waitv = s.waitv := rfl
@[simp] theorem State.setWake_chains (n : Nat) (x : Wake) : (s.setWake n x).chains = s.chains := rfl
@[simp] theorem State.setWake_gapwin (n : Nat) (x : Wake) : (s.setWake n x).gapwin = s.gapwin := rfl
@[simp] theorem State.setWake_wakes (n : Nat) (x : Wake) : (s.setWake n x).wakes = tput s.wakes n x := rfl
@[simp] theorem State.setWake_tasks (n : Nat) (x : Wake) : (s.setWake n x).tasks = s.tasks := rfl
@[simp] theorem State.setWake_deplost (n : Nat) (x : Wake) : (s.setWake n x).deplost = s.deplost := rfl
@[simp] theorem State.setWake_queues (n : Nat) (x : Wake) : (s.setWake n x).queues = s.queues := rfl
@[simp] theorem State.setWake_decoder (n : Nat) (x : Wake) : (s.setWake n x).decoder = s.decoder := rfl
@[simp] theorem State.setWake_launches (n : Nat) (x : Wake) : (s.setWake n x).launches = s.launches := rfl
@[simp] theorem State.setWake_regions (n : Nat) (x : Wake) : (s.setWake n x).regions = s.regions := rfl
@[simp] theorem State.setWake_nodes (n : Nat) (x : Wake) : (s.setWake n x).nodes = s.nodes := rfl
@[simp] theorem State.setWake_engines (n : Nat) (x : Wake) : (s.setWake n x).engines = s.engines := rfl
@[simp] theorem State.setWake_frames (n : Nat) (x : Wake) : (s.setWake n x).frames = s.frames := rfl
@[simp] theorem State.setWake_colls (n : Nat) (x : Wake) : (s.setWake n x).colls = s.colls := rfl
@[simp] theorem State.setWake_seq (n : Nat) (x : Wake) : (s.setWake n x).seq = s.seq := rfl
@[simp] theorem State.setWake_faults (n : Nat) (x : Wake) : (s.setWake n x).faults = s.faults := rfl
@[simp] theorem State.setWake_dbg (n : Nat) (x : Wake) : (s.setWake n x).dbg = s.dbg := rfl
@[simp] theorem State.setWake_part (n : Nat) (x : Wake) : (s.setWake n x).part = s.part := rfl
@[simp] theorem State.setWake_mgmt (n : Nat) (x : Wake) : (s.setWake n x).mgmt = s.mgmt := rfl
@[simp] theorem State.setWake_coreDone (n : Nat) (x : Wake) : (s.setWake n x).coreDone = s.coreDone := rfl
@[simp] theorem State.setWake_hostReads (n : Nat) (x : Wake) : (s.setWake n x).hostReads = s.hostReads := rfl

/-! ## State.modRegion -/

@[simp] theorem State.modRegion_tick (n : Nat) (f : Region → Region) : (s.modRegion n f).tick = s.tick := rfl
@[simp] theorem State.modRegion_phase (n : Nat) (f : Region → Region) : (s.modRegion n f).phase = s.phase := rfl
@[simp] theorem State.modRegion_cursor (n : Nat) (f : Region → Region) : (s.modRegion n f).cursor = s.cursor := rfl
@[simp] theorem State.modRegion_inputs (n : Nat) (f : Region → Region) : (s.modRegion n f).inputs = s.inputs := rfl
@[simp] theorem State.modRegion_free (n : Nat) (f : Region → Region) : (s.modRegion n f).free = s.free := rfl
@[simp] theorem State.modRegion_ids (n : Nat) (f : Region → Region) : (s.modRegion n f).ids = s.ids := rfl
@[simp] theorem State.modRegion_elems (n : Nat) (f : Region → Region) : (s.modRegion n f).elems = s.elems := rfl
@[simp] theorem State.modRegion_tiles (n : Nat) (f : Region → Region) : (s.modRegion n f).tiles = s.tiles := rfl
@[simp] theorem State.modRegion_swages (n : Nat) (f : Region → Region) : (s.modRegion n f).swages = s.swages := rfl
@[simp] theorem State.modRegion_flights (n : Nat) (f : Region → Region) : (s.modRegion n f).flights = s.flights := rfl
@[simp] theorem State.modRegion_mem (n : Nat) (f : Region → Region) : (s.modRegion n f).mem = s.mem := rfl
@[simp] theorem State.modRegion_poison (n : Nat) (f : Region → Region) : (s.modRegion n f).poison = s.poison := rfl
@[simp] theorem State.modRegion_held (n : Nat) (f : Region → Region) : (s.modRegion n f).held = s.held := rfl
@[simp] theorem State.modRegion_undo (n : Nat) (f : Region → Region) : (s.modRegion n f).undo = s.undo := rfl
@[simp] theorem State.modRegion_accesses (n : Nat) (f : Region → Region) : (s.modRegion n f).accesses = s.accesses := rfl
@[simp] theorem State.modRegion_turns (n : Nat) (f : Region → Region) : (s.modRegion n f).turns = s.turns := rfl
@[simp] theorem State.modRegion_shares (n : Nat) (f : Region → Region) : (s.modRegion n f).shares = s.shares := rfl
@[simp] theorem State.modRegion_xl (n : Nat) (f : Region → Region) : (s.modRegion n f).xl = s.xl := rfl
@[simp] theorem State.modRegion_sync (n : Nat) (f : Region → Region) : (s.modRegion n f).sync = s.sync := rfl
@[simp] theorem State.modRegion_waitv (n : Nat) (f : Region → Region) : (s.modRegion n f).waitv = s.waitv := rfl
@[simp] theorem State.modRegion_chains (n : Nat) (f : Region → Region) : (s.modRegion n f).chains = s.chains := rfl
@[simp] theorem State.modRegion_gapwin (n : Nat) (f : Region → Region) : (s.modRegion n f).gapwin = s.gapwin := rfl
@[simp] theorem State.modRegion_wakes (n : Nat) (f : Region → Region) : (s.modRegion n f).wakes = s.wakes := rfl
@[simp] theorem State.modRegion_tasks (n : Nat) (f : Region → Region) : (s.modRegion n f).tasks = s.tasks := rfl
@[simp] theorem State.modRegion_deplost (n : Nat) (f : Region → Region) : (s.modRegion n f).deplost = s.deplost := rfl
@[simp] theorem State.modRegion_queues (n : Nat) (f : Region → Region) : (s.modRegion n f).queues = s.queues := rfl
@[simp] theorem State.modRegion_decoder (n : Nat) (f : Region → Region) : (s.modRegion n f).decoder = s.decoder := rfl
@[simp] theorem State.modRegion_launches (n : Nat) (f : Region → Region) : (s.modRegion n f).launches = s.launches := rfl
@[simp] theorem State.modRegion_regions (n : Nat) (f : Region → Region) : (s.modRegion n f).regions = s.regions.map fun r => if r.id == n then f r else r := rfl
@[simp] theorem State.modRegion_nodes (n : Nat) (f : Region → Region) : (s.modRegion n f).nodes = s.nodes := rfl
@[simp] theorem State.modRegion_engines (n : Nat) (f : Region → Region) : (s.modRegion n f).engines = s.engines := rfl
@[simp] theorem State.modRegion_frames (n : Nat) (f : Region → Region) : (s.modRegion n f).frames = s.frames := rfl
@[simp] theorem State.modRegion_colls (n : Nat) (f : Region → Region) : (s.modRegion n f).colls = s.colls := rfl
@[simp] theorem State.modRegion_seq (n : Nat) (f : Region → Region) : (s.modRegion n f).seq = s.seq := rfl
@[simp] theorem State.modRegion_faults (n : Nat) (f : Region → Region) : (s.modRegion n f).faults = s.faults := rfl
@[simp] theorem State.modRegion_dbg (n : Nat) (f : Region → Region) : (s.modRegion n f).dbg = s.dbg := rfl
@[simp] theorem State.modRegion_part (n : Nat) (f : Region → Region) : (s.modRegion n f).part = s.part := rfl
@[simp] theorem State.modRegion_mgmt (n : Nat) (f : Region → Region) : (s.modRegion n f).mgmt = s.mgmt := rfl
@[simp] theorem State.modRegion_coreDone (n : Nat) (f : Region → Region) : (s.modRegion n f).coreDone = s.coreDone := rfl
@[simp] theorem State.modRegion_hostReads (n : Nat) (f : Region → Region) : (s.modRegion n f).hostReads = s.hostReads := rfl

/-! ## State.modLaunch -/

@[simp] theorem State.modLaunch_tick (n : Nat) (f : Launch → Launch) : (s.modLaunch n f).tick = s.tick := rfl
@[simp] theorem State.modLaunch_phase (n : Nat) (f : Launch → Launch) : (s.modLaunch n f).phase = s.phase := rfl
@[simp] theorem State.modLaunch_cursor (n : Nat) (f : Launch → Launch) : (s.modLaunch n f).cursor = s.cursor := rfl
@[simp] theorem State.modLaunch_inputs (n : Nat) (f : Launch → Launch) : (s.modLaunch n f).inputs = s.inputs := rfl
@[simp] theorem State.modLaunch_free (n : Nat) (f : Launch → Launch) : (s.modLaunch n f).free = s.free := rfl
@[simp] theorem State.modLaunch_ids (n : Nat) (f : Launch → Launch) : (s.modLaunch n f).ids = s.ids := rfl
@[simp] theorem State.modLaunch_elems (n : Nat) (f : Launch → Launch) : (s.modLaunch n f).elems = s.elems := rfl
@[simp] theorem State.modLaunch_tiles (n : Nat) (f : Launch → Launch) : (s.modLaunch n f).tiles = s.tiles := rfl
@[simp] theorem State.modLaunch_swages (n : Nat) (f : Launch → Launch) : (s.modLaunch n f).swages = s.swages := rfl
@[simp] theorem State.modLaunch_flights (n : Nat) (f : Launch → Launch) : (s.modLaunch n f).flights = s.flights := rfl
@[simp] theorem State.modLaunch_mem (n : Nat) (f : Launch → Launch) : (s.modLaunch n f).mem = s.mem := rfl
@[simp] theorem State.modLaunch_poison (n : Nat) (f : Launch → Launch) : (s.modLaunch n f).poison = s.poison := rfl
@[simp] theorem State.modLaunch_held (n : Nat) (f : Launch → Launch) : (s.modLaunch n f).held = s.held := rfl
@[simp] theorem State.modLaunch_undo (n : Nat) (f : Launch → Launch) : (s.modLaunch n f).undo = s.undo := rfl
@[simp] theorem State.modLaunch_accesses (n : Nat) (f : Launch → Launch) : (s.modLaunch n f).accesses = s.accesses := rfl
@[simp] theorem State.modLaunch_turns (n : Nat) (f : Launch → Launch) : (s.modLaunch n f).turns = s.turns := rfl
@[simp] theorem State.modLaunch_shares (n : Nat) (f : Launch → Launch) : (s.modLaunch n f).shares = s.shares := rfl
@[simp] theorem State.modLaunch_xl (n : Nat) (f : Launch → Launch) : (s.modLaunch n f).xl = s.xl := rfl
@[simp] theorem State.modLaunch_sync (n : Nat) (f : Launch → Launch) : (s.modLaunch n f).sync = s.sync := rfl
@[simp] theorem State.modLaunch_waitv (n : Nat) (f : Launch → Launch) : (s.modLaunch n f).waitv = s.waitv := rfl
@[simp] theorem State.modLaunch_chains (n : Nat) (f : Launch → Launch) : (s.modLaunch n f).chains = s.chains := rfl
@[simp] theorem State.modLaunch_gapwin (n : Nat) (f : Launch → Launch) : (s.modLaunch n f).gapwin = s.gapwin := rfl
@[simp] theorem State.modLaunch_wakes (n : Nat) (f : Launch → Launch) : (s.modLaunch n f).wakes = s.wakes := rfl
@[simp] theorem State.modLaunch_tasks (n : Nat) (f : Launch → Launch) : (s.modLaunch n f).tasks = s.tasks := rfl
@[simp] theorem State.modLaunch_deplost (n : Nat) (f : Launch → Launch) : (s.modLaunch n f).deplost = s.deplost := rfl
@[simp] theorem State.modLaunch_queues (n : Nat) (f : Launch → Launch) : (s.modLaunch n f).queues = s.queues := rfl
@[simp] theorem State.modLaunch_decoder (n : Nat) (f : Launch → Launch) : (s.modLaunch n f).decoder = s.decoder := rfl
@[simp] theorem State.modLaunch_launches (n : Nat) (f : Launch → Launch) : (s.modLaunch n f).launches = s.launches.map fun r => if r.id == n then f r else r := rfl
@[simp] theorem State.modLaunch_regions (n : Nat) (f : Launch → Launch) : (s.modLaunch n f).regions = s.regions := rfl
@[simp] theorem State.modLaunch_nodes (n : Nat) (f : Launch → Launch) : (s.modLaunch n f).nodes = s.nodes := rfl
@[simp] theorem State.modLaunch_engines (n : Nat) (f : Launch → Launch) : (s.modLaunch n f).engines = s.engines := rfl
@[simp] theorem State.modLaunch_frames (n : Nat) (f : Launch → Launch) : (s.modLaunch n f).frames = s.frames := rfl
@[simp] theorem State.modLaunch_colls (n : Nat) (f : Launch → Launch) : (s.modLaunch n f).colls = s.colls := rfl
@[simp] theorem State.modLaunch_seq (n : Nat) (f : Launch → Launch) : (s.modLaunch n f).seq = s.seq := rfl
@[simp] theorem State.modLaunch_faults (n : Nat) (f : Launch → Launch) : (s.modLaunch n f).faults = s.faults := rfl
@[simp] theorem State.modLaunch_dbg (n : Nat) (f : Launch → Launch) : (s.modLaunch n f).dbg = s.dbg := rfl
@[simp] theorem State.modLaunch_part (n : Nat) (f : Launch → Launch) : (s.modLaunch n f).part = s.part := rfl
@[simp] theorem State.modLaunch_mgmt (n : Nat) (f : Launch → Launch) : (s.modLaunch n f).mgmt = s.mgmt := rfl
@[simp] theorem State.modLaunch_coreDone (n : Nat) (f : Launch → Launch) : (s.modLaunch n f).coreDone = s.coreDone := rfl
@[simp] theorem State.modLaunch_hostReads (n : Nat) (f : Launch → Launch) : (s.modLaunch n f).hostReads = s.hostReads := rfl

/-! ## State.modFlight -/

@[simp] theorem State.modFlight_tick (n : Nat) (f : Flight → Flight) : (s.modFlight n f).tick = s.tick := rfl
@[simp] theorem State.modFlight_phase (n : Nat) (f : Flight → Flight) : (s.modFlight n f).phase = s.phase := rfl
@[simp] theorem State.modFlight_cursor (n : Nat) (f : Flight → Flight) : (s.modFlight n f).cursor = s.cursor := rfl
@[simp] theorem State.modFlight_inputs (n : Nat) (f : Flight → Flight) : (s.modFlight n f).inputs = s.inputs := rfl
@[simp] theorem State.modFlight_free (n : Nat) (f : Flight → Flight) : (s.modFlight n f).free = s.free := rfl
@[simp] theorem State.modFlight_ids (n : Nat) (f : Flight → Flight) : (s.modFlight n f).ids = s.ids := rfl
@[simp] theorem State.modFlight_elems (n : Nat) (f : Flight → Flight) : (s.modFlight n f).elems = s.elems := rfl
@[simp] theorem State.modFlight_tiles (n : Nat) (f : Flight → Flight) : (s.modFlight n f).tiles = s.tiles := rfl
@[simp] theorem State.modFlight_swages (n : Nat) (f : Flight → Flight) : (s.modFlight n f).swages = s.swages := rfl
@[simp] theorem State.modFlight_flights (n : Nat) (f : Flight → Flight) : (s.modFlight n f).flights = s.flights.map fun r => if r.id == n then f r else r := rfl
@[simp] theorem State.modFlight_mem (n : Nat) (f : Flight → Flight) : (s.modFlight n f).mem = s.mem := rfl
@[simp] theorem State.modFlight_poison (n : Nat) (f : Flight → Flight) : (s.modFlight n f).poison = s.poison := rfl
@[simp] theorem State.modFlight_held (n : Nat) (f : Flight → Flight) : (s.modFlight n f).held = s.held := rfl
@[simp] theorem State.modFlight_undo (n : Nat) (f : Flight → Flight) : (s.modFlight n f).undo = s.undo := rfl
@[simp] theorem State.modFlight_accesses (n : Nat) (f : Flight → Flight) : (s.modFlight n f).accesses = s.accesses := rfl
@[simp] theorem State.modFlight_turns (n : Nat) (f : Flight → Flight) : (s.modFlight n f).turns = s.turns := rfl
@[simp] theorem State.modFlight_shares (n : Nat) (f : Flight → Flight) : (s.modFlight n f).shares = s.shares := rfl
@[simp] theorem State.modFlight_xl (n : Nat) (f : Flight → Flight) : (s.modFlight n f).xl = s.xl := rfl
@[simp] theorem State.modFlight_sync (n : Nat) (f : Flight → Flight) : (s.modFlight n f).sync = s.sync := rfl
@[simp] theorem State.modFlight_waitv (n : Nat) (f : Flight → Flight) : (s.modFlight n f).waitv = s.waitv := rfl
@[simp] theorem State.modFlight_chains (n : Nat) (f : Flight → Flight) : (s.modFlight n f).chains = s.chains := rfl
@[simp] theorem State.modFlight_gapwin (n : Nat) (f : Flight → Flight) : (s.modFlight n f).gapwin = s.gapwin := rfl
@[simp] theorem State.modFlight_wakes (n : Nat) (f : Flight → Flight) : (s.modFlight n f).wakes = s.wakes := rfl
@[simp] theorem State.modFlight_tasks (n : Nat) (f : Flight → Flight) : (s.modFlight n f).tasks = s.tasks := rfl
@[simp] theorem State.modFlight_deplost (n : Nat) (f : Flight → Flight) : (s.modFlight n f).deplost = s.deplost := rfl
@[simp] theorem State.modFlight_queues (n : Nat) (f : Flight → Flight) : (s.modFlight n f).queues = s.queues := rfl
@[simp] theorem State.modFlight_decoder (n : Nat) (f : Flight → Flight) : (s.modFlight n f).decoder = s.decoder := rfl
@[simp] theorem State.modFlight_launches (n : Nat) (f : Flight → Flight) : (s.modFlight n f).launches = s.launches := rfl
@[simp] theorem State.modFlight_regions (n : Nat) (f : Flight → Flight) : (s.modFlight n f).regions = s.regions := rfl
@[simp] theorem State.modFlight_nodes (n : Nat) (f : Flight → Flight) : (s.modFlight n f).nodes = s.nodes := rfl
@[simp] theorem State.modFlight_engines (n : Nat) (f : Flight → Flight) : (s.modFlight n f).engines = s.engines := rfl
@[simp] theorem State.modFlight_frames (n : Nat) (f : Flight → Flight) : (s.modFlight n f).frames = s.frames := rfl
@[simp] theorem State.modFlight_colls (n : Nat) (f : Flight → Flight) : (s.modFlight n f).colls = s.colls := rfl
@[simp] theorem State.modFlight_seq (n : Nat) (f : Flight → Flight) : (s.modFlight n f).seq = s.seq := rfl
@[simp] theorem State.modFlight_faults (n : Nat) (f : Flight → Flight) : (s.modFlight n f).faults = s.faults := rfl
@[simp] theorem State.modFlight_dbg (n : Nat) (f : Flight → Flight) : (s.modFlight n f).dbg = s.dbg := rfl
@[simp] theorem State.modFlight_part (n : Nat) (f : Flight → Flight) : (s.modFlight n f).part = s.part := rfl
@[simp] theorem State.modFlight_mgmt (n : Nat) (f : Flight → Flight) : (s.modFlight n f).mgmt = s.mgmt := rfl
@[simp] theorem State.modFlight_coreDone (n : Nat) (f : Flight → Flight) : (s.modFlight n f).coreDone = s.coreDone := rfl
@[simp] theorem State.modFlight_hostReads (n : Nat) (f : Flight → Flight) : (s.modFlight n f).hostReads = s.hostReads := rfl

/-! ## State.modAccess -/

@[simp] theorem State.modAccess_tick (n : Nat) (f : Access → Access) : (s.modAccess n f).tick = s.tick := rfl
@[simp] theorem State.modAccess_phase (n : Nat) (f : Access → Access) : (s.modAccess n f).phase = s.phase := rfl
@[simp] theorem State.modAccess_cursor (n : Nat) (f : Access → Access) : (s.modAccess n f).cursor = s.cursor := rfl
@[simp] theorem State.modAccess_inputs (n : Nat) (f : Access → Access) : (s.modAccess n f).inputs = s.inputs := rfl
@[simp] theorem State.modAccess_free (n : Nat) (f : Access → Access) : (s.modAccess n f).free = s.free := rfl
@[simp] theorem State.modAccess_ids (n : Nat) (f : Access → Access) : (s.modAccess n f).ids = s.ids := rfl
@[simp] theorem State.modAccess_elems (n : Nat) (f : Access → Access) : (s.modAccess n f).elems = s.elems := rfl
@[simp] theorem State.modAccess_tiles (n : Nat) (f : Access → Access) : (s.modAccess n f).tiles = s.tiles := rfl
@[simp] theorem State.modAccess_swages (n : Nat) (f : Access → Access) : (s.modAccess n f).swages = s.swages := rfl
@[simp] theorem State.modAccess_flights (n : Nat) (f : Access → Access) : (s.modAccess n f).flights = s.flights := rfl
@[simp] theorem State.modAccess_mem (n : Nat) (f : Access → Access) : (s.modAccess n f).mem = s.mem := rfl
@[simp] theorem State.modAccess_poison (n : Nat) (f : Access → Access) : (s.modAccess n f).poison = s.poison := rfl
@[simp] theorem State.modAccess_held (n : Nat) (f : Access → Access) : (s.modAccess n f).held = s.held := rfl
@[simp] theorem State.modAccess_undo (n : Nat) (f : Access → Access) : (s.modAccess n f).undo = s.undo := rfl
@[simp] theorem State.modAccess_accesses (n : Nat) (f : Access → Access) : (s.modAccess n f).accesses = s.accesses.map fun r => if r.id == n then f r else r := rfl
@[simp] theorem State.modAccess_turns (n : Nat) (f : Access → Access) : (s.modAccess n f).turns = s.turns := rfl
@[simp] theorem State.modAccess_shares (n : Nat) (f : Access → Access) : (s.modAccess n f).shares = s.shares := rfl
@[simp] theorem State.modAccess_xl (n : Nat) (f : Access → Access) : (s.modAccess n f).xl = s.xl := rfl
@[simp] theorem State.modAccess_sync (n : Nat) (f : Access → Access) : (s.modAccess n f).sync = s.sync := rfl
@[simp] theorem State.modAccess_waitv (n : Nat) (f : Access → Access) : (s.modAccess n f).waitv = s.waitv := rfl
@[simp] theorem State.modAccess_chains (n : Nat) (f : Access → Access) : (s.modAccess n f).chains = s.chains := rfl
@[simp] theorem State.modAccess_gapwin (n : Nat) (f : Access → Access) : (s.modAccess n f).gapwin = s.gapwin := rfl
@[simp] theorem State.modAccess_wakes (n : Nat) (f : Access → Access) : (s.modAccess n f).wakes = s.wakes := rfl
@[simp] theorem State.modAccess_tasks (n : Nat) (f : Access → Access) : (s.modAccess n f).tasks = s.tasks := rfl
@[simp] theorem State.modAccess_deplost (n : Nat) (f : Access → Access) : (s.modAccess n f).deplost = s.deplost := rfl
@[simp] theorem State.modAccess_queues (n : Nat) (f : Access → Access) : (s.modAccess n f).queues = s.queues := rfl
@[simp] theorem State.modAccess_decoder (n : Nat) (f : Access → Access) : (s.modAccess n f).decoder = s.decoder := rfl
@[simp] theorem State.modAccess_launches (n : Nat) (f : Access → Access) : (s.modAccess n f).launches = s.launches := rfl
@[simp] theorem State.modAccess_regions (n : Nat) (f : Access → Access) : (s.modAccess n f).regions = s.regions := rfl
@[simp] theorem State.modAccess_nodes (n : Nat) (f : Access → Access) : (s.modAccess n f).nodes = s.nodes := rfl
@[simp] theorem State.modAccess_engines (n : Nat) (f : Access → Access) : (s.modAccess n f).engines = s.engines := rfl
@[simp] theorem State.modAccess_frames (n : Nat) (f : Access → Access) : (s.modAccess n f).frames = s.frames := rfl
@[simp] theorem State.modAccess_colls (n : Nat) (f : Access → Access) : (s.modAccess n f).colls = s.colls := rfl
@[simp] theorem State.modAccess_seq (n : Nat) (f : Access → Access) : (s.modAccess n f).seq = s.seq := rfl
@[simp] theorem State.modAccess_faults (n : Nat) (f : Access → Access) : (s.modAccess n f).faults = s.faults := rfl
@[simp] theorem State.modAccess_dbg (n : Nat) (f : Access → Access) : (s.modAccess n f).dbg = s.dbg := rfl
@[simp] theorem State.modAccess_part (n : Nat) (f : Access → Access) : (s.modAccess n f).part = s.part := rfl
@[simp] theorem State.modAccess_mgmt (n : Nat) (f : Access → Access) : (s.modAccess n f).mgmt = s.mgmt := rfl
@[simp] theorem State.modAccess_coreDone (n : Nat) (f : Access → Access) : (s.modAccess n f).coreDone = s.coreDone := rfl
@[simp] theorem State.modAccess_hostReads (n : Nat) (f : Access → Access) : (s.modAccess n f).hostReads = s.hostReads := rfl

/-! ## State.dropAccess -/

@[simp] theorem State.dropAccess_tick (n : Nat) : (s.dropAccess n).tick = s.tick := rfl
@[simp] theorem State.dropAccess_phase (n : Nat) : (s.dropAccess n).phase = s.phase := rfl
@[simp] theorem State.dropAccess_cursor (n : Nat) : (s.dropAccess n).cursor = s.cursor := rfl
@[simp] theorem State.dropAccess_inputs (n : Nat) : (s.dropAccess n).inputs = s.inputs := rfl
@[simp] theorem State.dropAccess_free (n : Nat) : (s.dropAccess n).free = s.free := rfl
@[simp] theorem State.dropAccess_ids (n : Nat) : (s.dropAccess n).ids = s.ids := rfl
@[simp] theorem State.dropAccess_elems (n : Nat) : (s.dropAccess n).elems = s.elems := rfl
@[simp] theorem State.dropAccess_tiles (n : Nat) : (s.dropAccess n).tiles = s.tiles := rfl
@[simp] theorem State.dropAccess_swages (n : Nat) : (s.dropAccess n).swages = s.swages := rfl
@[simp] theorem State.dropAccess_flights (n : Nat) : (s.dropAccess n).flights = s.flights := rfl
@[simp] theorem State.dropAccess_mem (n : Nat) : (s.dropAccess n).mem = s.mem := rfl
@[simp] theorem State.dropAccess_poison (n : Nat) : (s.dropAccess n).poison = s.poison := rfl
@[simp] theorem State.dropAccess_held (n : Nat) : (s.dropAccess n).held = s.held := rfl
@[simp] theorem State.dropAccess_undo (n : Nat) : (s.dropAccess n).undo = s.undo := rfl
@[simp] theorem State.dropAccess_accesses (n : Nat) : (s.dropAccess n).accesses = s.accesses.filter (·.id != n) := rfl
@[simp] theorem State.dropAccess_turns (n : Nat) : (s.dropAccess n).turns = s.turns := rfl
@[simp] theorem State.dropAccess_shares (n : Nat) : (s.dropAccess n).shares = s.shares := rfl
@[simp] theorem State.dropAccess_xl (n : Nat) : (s.dropAccess n).xl = s.xl := rfl
@[simp] theorem State.dropAccess_sync (n : Nat) : (s.dropAccess n).sync = s.sync := rfl
@[simp] theorem State.dropAccess_waitv (n : Nat) : (s.dropAccess n).waitv = s.waitv := rfl
@[simp] theorem State.dropAccess_chains (n : Nat) : (s.dropAccess n).chains = s.chains := rfl
@[simp] theorem State.dropAccess_gapwin (n : Nat) : (s.dropAccess n).gapwin = s.gapwin := rfl
@[simp] theorem State.dropAccess_wakes (n : Nat) : (s.dropAccess n).wakes = s.wakes := rfl
@[simp] theorem State.dropAccess_tasks (n : Nat) : (s.dropAccess n).tasks = s.tasks := rfl
@[simp] theorem State.dropAccess_deplost (n : Nat) : (s.dropAccess n).deplost = s.deplost := rfl
@[simp] theorem State.dropAccess_queues (n : Nat) : (s.dropAccess n).queues = s.queues := rfl
@[simp] theorem State.dropAccess_decoder (n : Nat) : (s.dropAccess n).decoder = s.decoder := rfl
@[simp] theorem State.dropAccess_launches (n : Nat) : (s.dropAccess n).launches = s.launches := rfl
@[simp] theorem State.dropAccess_regions (n : Nat) : (s.dropAccess n).regions = s.regions := rfl
@[simp] theorem State.dropAccess_nodes (n : Nat) : (s.dropAccess n).nodes = s.nodes := rfl
@[simp] theorem State.dropAccess_engines (n : Nat) : (s.dropAccess n).engines = s.engines := rfl
@[simp] theorem State.dropAccess_frames (n : Nat) : (s.dropAccess n).frames = s.frames := rfl
@[simp] theorem State.dropAccess_colls (n : Nat) : (s.dropAccess n).colls = s.colls := rfl
@[simp] theorem State.dropAccess_seq (n : Nat) : (s.dropAccess n).seq = s.seq := rfl
@[simp] theorem State.dropAccess_faults (n : Nat) : (s.dropAccess n).faults = s.faults := rfl
@[simp] theorem State.dropAccess_dbg (n : Nat) : (s.dropAccess n).dbg = s.dbg := rfl
@[simp] theorem State.dropAccess_part (n : Nat) : (s.dropAccess n).part = s.part := rfl
@[simp] theorem State.dropAccess_mgmt (n : Nat) : (s.dropAccess n).mgmt = s.mgmt := rfl
@[simp] theorem State.dropAccess_coreDone (n : Nat) : (s.dropAccess n).coreDone = s.coreDone := rfl
@[simp] theorem State.dropAccess_hostReads (n : Nat) : (s.dropAccess n).hostReads = s.hostReads := rfl

/-! ## State.modRecord -/

@[simp] theorem State.modRecord_tick (n : Nat) (f : FaultRec → FaultRec) : (s.modRecord n f).tick = s.tick := rfl
@[simp] theorem State.modRecord_phase (n : Nat) (f : FaultRec → FaultRec) : (s.modRecord n f).phase = s.phase := rfl
@[simp] theorem State.modRecord_cursor (n : Nat) (f : FaultRec → FaultRec) : (s.modRecord n f).cursor = s.cursor := rfl
@[simp] theorem State.modRecord_inputs (n : Nat) (f : FaultRec → FaultRec) : (s.modRecord n f).inputs = s.inputs := rfl
@[simp] theorem State.modRecord_free (n : Nat) (f : FaultRec → FaultRec) : (s.modRecord n f).free = s.free := rfl
@[simp] theorem State.modRecord_ids (n : Nat) (f : FaultRec → FaultRec) : (s.modRecord n f).ids = s.ids := rfl
@[simp] theorem State.modRecord_elems (n : Nat) (f : FaultRec → FaultRec) : (s.modRecord n f).elems = s.elems := rfl
@[simp] theorem State.modRecord_tiles (n : Nat) (f : FaultRec → FaultRec) : (s.modRecord n f).tiles = s.tiles := rfl
@[simp] theorem State.modRecord_swages (n : Nat) (f : FaultRec → FaultRec) : (s.modRecord n f).swages = s.swages := rfl
@[simp] theorem State.modRecord_flights (n : Nat) (f : FaultRec → FaultRec) : (s.modRecord n f).flights = s.flights := rfl
@[simp] theorem State.modRecord_mem (n : Nat) (f : FaultRec → FaultRec) : (s.modRecord n f).mem = s.mem := rfl
@[simp] theorem State.modRecord_poison (n : Nat) (f : FaultRec → FaultRec) : (s.modRecord n f).poison = s.poison := rfl
@[simp] theorem State.modRecord_held (n : Nat) (f : FaultRec → FaultRec) : (s.modRecord n f).held = s.held := rfl
@[simp] theorem State.modRecord_undo (n : Nat) (f : FaultRec → FaultRec) : (s.modRecord n f).undo = s.undo := rfl
@[simp] theorem State.modRecord_accesses (n : Nat) (f : FaultRec → FaultRec) : (s.modRecord n f).accesses = s.accesses := rfl
@[simp] theorem State.modRecord_turns (n : Nat) (f : FaultRec → FaultRec) : (s.modRecord n f).turns = s.turns := rfl
@[simp] theorem State.modRecord_shares (n : Nat) (f : FaultRec → FaultRec) : (s.modRecord n f).shares = s.shares := rfl
@[simp] theorem State.modRecord_xl (n : Nat) (f : FaultRec → FaultRec) : (s.modRecord n f).xl = s.xl := rfl
@[simp] theorem State.modRecord_sync (n : Nat) (f : FaultRec → FaultRec) : (s.modRecord n f).sync = s.sync := rfl
@[simp] theorem State.modRecord_waitv (n : Nat) (f : FaultRec → FaultRec) : (s.modRecord n f).waitv = s.waitv := rfl
@[simp] theorem State.modRecord_chains (n : Nat) (f : FaultRec → FaultRec) : (s.modRecord n f).chains = s.chains := rfl
@[simp] theorem State.modRecord_gapwin (n : Nat) (f : FaultRec → FaultRec) : (s.modRecord n f).gapwin = s.gapwin := rfl
@[simp] theorem State.modRecord_wakes (n : Nat) (f : FaultRec → FaultRec) : (s.modRecord n f).wakes = s.wakes := rfl
@[simp] theorem State.modRecord_tasks (n : Nat) (f : FaultRec → FaultRec) : (s.modRecord n f).tasks = s.tasks := rfl
@[simp] theorem State.modRecord_deplost (n : Nat) (f : FaultRec → FaultRec) : (s.modRecord n f).deplost = s.deplost := rfl
@[simp] theorem State.modRecord_queues (n : Nat) (f : FaultRec → FaultRec) : (s.modRecord n f).queues = s.queues := rfl
@[simp] theorem State.modRecord_decoder (n : Nat) (f : FaultRec → FaultRec) : (s.modRecord n f).decoder = s.decoder := rfl
@[simp] theorem State.modRecord_launches (n : Nat) (f : FaultRec → FaultRec) : (s.modRecord n f).launches = s.launches := rfl
@[simp] theorem State.modRecord_regions (n : Nat) (f : FaultRec → FaultRec) : (s.modRecord n f).regions = s.regions := rfl
@[simp] theorem State.modRecord_nodes (n : Nat) (f : FaultRec → FaultRec) : (s.modRecord n f).nodes = s.nodes := rfl
@[simp] theorem State.modRecord_engines (n : Nat) (f : FaultRec → FaultRec) : (s.modRecord n f).engines = s.engines := rfl
@[simp] theorem State.modRecord_frames (n : Nat) (f : FaultRec → FaultRec) : (s.modRecord n f).frames = s.frames := rfl
@[simp] theorem State.modRecord_colls (n : Nat) (f : FaultRec → FaultRec) : (s.modRecord n f).colls = s.colls := rfl
@[simp] theorem State.modRecord_seq (n : Nat) (f : FaultRec → FaultRec) : (s.modRecord n f).seq = s.seq := rfl
@[simp] theorem State.modRecord_faults (n : Nat) (f : FaultRec → FaultRec) : (s.modRecord n f).faults = { s.faults with records := s.faults.records.map fun r => if r.id == n then f r else r } := rfl
@[simp] theorem State.modRecord_dbg (n : Nat) (f : FaultRec → FaultRec) : (s.modRecord n f).dbg = s.dbg := rfl
@[simp] theorem State.modRecord_part (n : Nat) (f : FaultRec → FaultRec) : (s.modRecord n f).part = s.part := rfl
@[simp] theorem State.modRecord_mgmt (n : Nat) (f : FaultRec → FaultRec) : (s.modRecord n f).mgmt = s.mgmt := rfl
@[simp] theorem State.modRecord_coreDone (n : Nat) (f : FaultRec → FaultRec) : (s.modRecord n f).coreDone = s.coreDone := rfl
@[simp] theorem State.modRecord_hostReads (n : Nat) (f : FaultRec → FaultRec) : (s.modRecord n f).hostReads = s.hostReads := rfl

/-! ## State.log -/

@[simp] theorem State.log_tick (k x : Nat) : (s.log k x).tick = s.tick := rfl
@[simp] theorem State.log_phase (k x : Nat) : (s.log k x).phase = s.phase := rfl
@[simp] theorem State.log_cursor (k x : Nat) : (s.log k x).cursor = s.cursor := rfl
@[simp] theorem State.log_inputs (k x : Nat) : (s.log k x).inputs = s.inputs := rfl
@[simp] theorem State.log_free (k x : Nat) : (s.log k x).free = s.free := rfl
@[simp] theorem State.log_ids (k x : Nat) : (s.log k x).ids = s.ids := rfl
@[simp] theorem State.log_elems (k x : Nat) : (s.log k x).elems = s.elems := rfl
@[simp] theorem State.log_tiles (k x : Nat) : (s.log k x).tiles = s.tiles := rfl
@[simp] theorem State.log_swages (k x : Nat) : (s.log k x).swages = s.swages := rfl
@[simp] theorem State.log_flights (k x : Nat) : (s.log k x).flights = s.flights := rfl
@[simp] theorem State.log_mem (k x : Nat) : (s.log k x).mem = s.mem := rfl
@[simp] theorem State.log_poison (k x : Nat) : (s.log k x).poison = s.poison := rfl
@[simp] theorem State.log_held (k x : Nat) : (s.log k x).held = s.held := rfl
@[simp] theorem State.log_undo (k x : Nat) : (s.log k x).undo = s.undo := rfl
@[simp] theorem State.log_accesses (k x : Nat) : (s.log k x).accesses = s.accesses := rfl
@[simp] theorem State.log_turns (k x : Nat) : (s.log k x).turns = s.turns := rfl
@[simp] theorem State.log_shares (k x : Nat) : (s.log k x).shares = s.shares := rfl
@[simp] theorem State.log_xl (k x : Nat) : (s.log k x).xl = s.xl := rfl
@[simp] theorem State.log_sync (k x : Nat) : (s.log k x).sync = s.sync := rfl
@[simp] theorem State.log_waitv (k x : Nat) : (s.log k x).waitv = s.waitv := rfl
@[simp] theorem State.log_chains (k x : Nat) : (s.log k x).chains = s.chains := rfl
@[simp] theorem State.log_gapwin (k x : Nat) : (s.log k x).gapwin = s.gapwin := rfl
@[simp] theorem State.log_wakes (k x : Nat) : (s.log k x).wakes = s.wakes := rfl
@[simp] theorem State.log_tasks (k x : Nat) : (s.log k x).tasks = s.tasks := rfl
@[simp] theorem State.log_deplost (k x : Nat) : (s.log k x).deplost = s.deplost := rfl
@[simp] theorem State.log_queues (k x : Nat) : (s.log k x).queues = s.queues := rfl
@[simp] theorem State.log_decoder (k x : Nat) : (s.log k x).decoder = s.decoder := rfl
@[simp] theorem State.log_launches (k x : Nat) : (s.log k x).launches = s.launches := rfl
@[simp] theorem State.log_regions (k x : Nat) : (s.log k x).regions = s.regions := rfl
@[simp] theorem State.log_nodes (k x : Nat) : (s.log k x).nodes = s.nodes := rfl
@[simp] theorem State.log_engines (k x : Nat) : (s.log k x).engines = s.engines := rfl
@[simp] theorem State.log_frames (k x : Nat) : (s.log k x).frames = s.frames := rfl
@[simp] theorem State.log_colls (k x : Nat) : (s.log k x).colls = s.colls := rfl
@[simp] theorem State.log_seq (k x : Nat) : (s.log k x).seq = s.seq := rfl
@[simp] theorem State.log_faults (k x : Nat) : (s.log k x).faults = s.faults := rfl
@[simp] theorem State.log_dbg (k x : Nat) : (s.log k x).dbg = s.dbg := rfl
@[simp] theorem State.log_part (k x : Nat) : (s.log k x).part = s.part := rfl
@[simp] theorem State.log_mgmt (k x : Nat) : (s.log k x).mgmt = { s.mgmt with log := s.mgmt.log ++ [(k, x)] } := rfl
@[simp] theorem State.log_coreDone (k x : Nat) : (s.log k x).coreDone = s.coreDone := rfl
@[simp] theorem State.log_hostReads (k x : Nat) : (s.log k x).hostReads = s.hostReads := rfl

/-! ## State.newId -/

@[simp] theorem State.newId_tick : (s.newId).tick = s.tick := rfl
@[simp] theorem State.newId_phase : (s.newId).phase = s.phase := rfl
@[simp] theorem State.newId_cursor : (s.newId).cursor = s.cursor := rfl
@[simp] theorem State.newId_inputs : (s.newId).inputs = s.inputs := rfl
@[simp] theorem State.newId_free : (s.newId).free = s.free := rfl
@[simp] theorem State.newId_ids : (s.newId).ids = s.ids + 1 := rfl
@[simp] theorem State.newId_elems : (s.newId).elems = s.elems := rfl
@[simp] theorem State.newId_tiles : (s.newId).tiles = s.tiles := rfl
@[simp] theorem State.newId_swages : (s.newId).swages = s.swages := rfl
@[simp] theorem State.newId_flights : (s.newId).flights = s.flights := rfl
@[simp] theorem State.newId_mem : (s.newId).mem = s.mem := rfl
@[simp] theorem State.newId_poison : (s.newId).poison = s.poison := rfl
@[simp] theorem State.newId_held : (s.newId).held = s.held := rfl
@[simp] theorem State.newId_undo : (s.newId).undo = s.undo := rfl
@[simp] theorem State.newId_accesses : (s.newId).accesses = s.accesses := rfl
@[simp] theorem State.newId_turns : (s.newId).turns = s.turns := rfl
@[simp] theorem State.newId_shares : (s.newId).shares = s.shares := rfl
@[simp] theorem State.newId_xl : (s.newId).xl = s.xl := rfl
@[simp] theorem State.newId_sync : (s.newId).sync = s.sync := rfl
@[simp] theorem State.newId_waitv : (s.newId).waitv = s.waitv := rfl
@[simp] theorem State.newId_chains : (s.newId).chains = s.chains := rfl
@[simp] theorem State.newId_gapwin : (s.newId).gapwin = s.gapwin := rfl
@[simp] theorem State.newId_wakes : (s.newId).wakes = s.wakes := rfl
@[simp] theorem State.newId_tasks : (s.newId).tasks = s.tasks := rfl
@[simp] theorem State.newId_deplost : (s.newId).deplost = s.deplost := rfl
@[simp] theorem State.newId_queues : (s.newId).queues = s.queues := rfl
@[simp] theorem State.newId_decoder : (s.newId).decoder = s.decoder := rfl
@[simp] theorem State.newId_launches : (s.newId).launches = s.launches := rfl
@[simp] theorem State.newId_regions : (s.newId).regions = s.regions := rfl
@[simp] theorem State.newId_nodes : (s.newId).nodes = s.nodes := rfl
@[simp] theorem State.newId_engines : (s.newId).engines = s.engines := rfl
@[simp] theorem State.newId_frames : (s.newId).frames = s.frames := rfl
@[simp] theorem State.newId_colls : (s.newId).colls = s.colls := rfl
@[simp] theorem State.newId_seq : (s.newId).seq = s.seq := rfl
@[simp] theorem State.newId_faults : (s.newId).faults = s.faults := rfl
@[simp] theorem State.newId_dbg : (s.newId).dbg = s.dbg := rfl
@[simp] theorem State.newId_part : (s.newId).part = s.part := rfl
@[simp] theorem State.newId_mgmt : (s.newId).mgmt = s.mgmt := rfl
@[simp] theorem State.newId_coreDone : (s.newId).coreDone = s.coreDone := rfl
@[simp] theorem State.newId_hostReads : (s.newId).hostReads = s.hostReads := rfl

/-! ## State.useFree -/

@[simp] theorem State.useFree_tick : (s.useFree).tick = s.tick := rfl
@[simp] theorem State.useFree_phase : (s.useFree).phase = s.phase := rfl
@[simp] theorem State.useFree_cursor : (s.useFree).cursor = s.cursor := rfl
@[simp] theorem State.useFree_inputs : (s.useFree).inputs = s.inputs := rfl
@[simp] theorem State.useFree_free : (s.useFree).free = s.free + 1 := rfl
@[simp] theorem State.useFree_ids : (s.useFree).ids = s.ids := rfl
@[simp] theorem State.useFree_elems : (s.useFree).elems = s.elems := rfl
@[simp] theorem State.useFree_tiles : (s.useFree).tiles = s.tiles := rfl
@[simp] theorem State.useFree_swages : (s.useFree).swages = s.swages := rfl
@[simp] theorem State.useFree_flights : (s.useFree).flights = s.flights := rfl
@[simp] theorem State.useFree_mem : (s.useFree).mem = s.mem := rfl
@[simp] theorem State.useFree_poison : (s.useFree).poison = s.poison := rfl
@[simp] theorem State.useFree_held : (s.useFree).held = s.held := rfl
@[simp] theorem State.useFree_undo : (s.useFree).undo = s.undo := rfl
@[simp] theorem State.useFree_accesses : (s.useFree).accesses = s.accesses := rfl
@[simp] theorem State.useFree_turns : (s.useFree).turns = s.turns := rfl
@[simp] theorem State.useFree_shares : (s.useFree).shares = s.shares := rfl
@[simp] theorem State.useFree_xl : (s.useFree).xl = s.xl := rfl
@[simp] theorem State.useFree_sync : (s.useFree).sync = s.sync := rfl
@[simp] theorem State.useFree_waitv : (s.useFree).waitv = s.waitv := rfl
@[simp] theorem State.useFree_chains : (s.useFree).chains = s.chains := rfl
@[simp] theorem State.useFree_gapwin : (s.useFree).gapwin = s.gapwin := rfl
@[simp] theorem State.useFree_wakes : (s.useFree).wakes = s.wakes := rfl
@[simp] theorem State.useFree_tasks : (s.useFree).tasks = s.tasks := rfl
@[simp] theorem State.useFree_deplost : (s.useFree).deplost = s.deplost := rfl
@[simp] theorem State.useFree_queues : (s.useFree).queues = s.queues := rfl
@[simp] theorem State.useFree_decoder : (s.useFree).decoder = s.decoder := rfl
@[simp] theorem State.useFree_launches : (s.useFree).launches = s.launches := rfl
@[simp] theorem State.useFree_regions : (s.useFree).regions = s.regions := rfl
@[simp] theorem State.useFree_nodes : (s.useFree).nodes = s.nodes := rfl
@[simp] theorem State.useFree_engines : (s.useFree).engines = s.engines := rfl
@[simp] theorem State.useFree_frames : (s.useFree).frames = s.frames := rfl
@[simp] theorem State.useFree_colls : (s.useFree).colls = s.colls := rfl
@[simp] theorem State.useFree_seq : (s.useFree).seq = s.seq := rfl
@[simp] theorem State.useFree_faults : (s.useFree).faults = s.faults := rfl
@[simp] theorem State.useFree_dbg : (s.useFree).dbg = s.dbg := rfl
@[simp] theorem State.useFree_part : (s.useFree).part = s.part := rfl
@[simp] theorem State.useFree_mgmt : (s.useFree).mgmt = s.mgmt := rfl
@[simp] theorem State.useFree_coreDone : (s.useFree).coreDone = s.coreDone := rfl
@[simp] theorem State.useFree_hostReads : (s.useFree).hostReads = s.hostReads := rfl

/-! ## State.perform -/

@[simp] theorem State.perform_tick (pa : Nat) (b : List Byte) : (s.perform pa b).tick = s.tick := rfl
@[simp] theorem State.perform_phase (pa : Nat) (b : List Byte) : (s.perform pa b).phase = s.phase := rfl
@[simp] theorem State.perform_cursor (pa : Nat) (b : List Byte) : (s.perform pa b).cursor = s.cursor := rfl
@[simp] theorem State.perform_inputs (pa : Nat) (b : List Byte) : (s.perform pa b).inputs = s.inputs := rfl
@[simp] theorem State.perform_free (pa : Nat) (b : List Byte) : (s.perform pa b).free = s.free := rfl
@[simp] theorem State.perform_ids (pa : Nat) (b : List Byte) : (s.perform pa b).ids = s.ids := rfl
@[simp] theorem State.perform_elems (pa : Nat) (b : List Byte) : (s.perform pa b).elems = s.elems := rfl
@[simp] theorem State.perform_tiles (pa : Nat) (b : List Byte) : (s.perform pa b).tiles = s.tiles := rfl
@[simp] theorem State.perform_swages (pa : Nat) (b : List Byte) : (s.perform pa b).swages = s.swages := rfl
@[simp] theorem State.perform_flights (pa : Nat) (b : List Byte) : (s.perform pa b).flights = s.flights := rfl
@[simp] theorem State.perform_mem (pa : Nat) (b : List Byte) : (s.perform pa b).mem = memWrite s.mem pa b := rfl
@[simp] theorem State.perform_poison (pa : Nat) (b : List Byte) : (s.perform pa b).poison = s.poison.filter fun k => !(decide (pa ≤ 64 * k) && decide (64 * k + 64 ≤ pa + b.length)) := rfl
@[simp] theorem State.perform_held (pa : Nat) (b : List Byte) : (s.perform pa b).held = s.held.map fun h => h.over fun a => decide (pa ≤ a) && decide (a < pa + b.length) := rfl
@[simp] theorem State.perform_undo (pa : Nat) (b : List Byte) : (s.perform pa b).undo = s.undo := rfl
@[simp] theorem State.perform_accesses (pa : Nat) (b : List Byte) : (s.perform pa b).accesses = s.accesses := rfl
@[simp] theorem State.perform_turns (pa : Nat) (b : List Byte) : (s.perform pa b).turns = s.turns := rfl
@[simp] theorem State.perform_shares (pa : Nat) (b : List Byte) : (s.perform pa b).shares = s.shares := rfl
@[simp] theorem State.perform_xl (pa : Nat) (b : List Byte) : (s.perform pa b).xl = s.xl := rfl
@[simp] theorem State.perform_sync (pa : Nat) (b : List Byte) : (s.perform pa b).sync = s.sync := rfl
@[simp] theorem State.perform_waitv (pa : Nat) (b : List Byte) : (s.perform pa b).waitv = s.waitv := rfl
@[simp] theorem State.perform_chains (pa : Nat) (b : List Byte) : (s.perform pa b).chains = s.chains := rfl
@[simp] theorem State.perform_gapwin (pa : Nat) (b : List Byte) : (s.perform pa b).gapwin = s.gapwin := rfl
@[simp] theorem State.perform_wakes (pa : Nat) (b : List Byte) : (s.perform pa b).wakes = s.wakes := rfl
@[simp] theorem State.perform_tasks (pa : Nat) (b : List Byte) : (s.perform pa b).tasks = s.tasks := rfl
@[simp] theorem State.perform_deplost (pa : Nat) (b : List Byte) : (s.perform pa b).deplost = s.deplost := rfl
@[simp] theorem State.perform_queues (pa : Nat) (b : List Byte) : (s.perform pa b).queues = s.queues := rfl
@[simp] theorem State.perform_decoder (pa : Nat) (b : List Byte) : (s.perform pa b).decoder = s.decoder := rfl
@[simp] theorem State.perform_launches (pa : Nat) (b : List Byte) : (s.perform pa b).launches = s.launches := rfl
@[simp] theorem State.perform_regions (pa : Nat) (b : List Byte) : (s.perform pa b).regions = s.regions := rfl
@[simp] theorem State.perform_nodes (pa : Nat) (b : List Byte) : (s.perform pa b).nodes = s.nodes := rfl
@[simp] theorem State.perform_engines (pa : Nat) (b : List Byte) : (s.perform pa b).engines = s.engines := rfl
@[simp] theorem State.perform_frames (pa : Nat) (b : List Byte) : (s.perform pa b).frames = s.frames := rfl
@[simp] theorem State.perform_colls (pa : Nat) (b : List Byte) : (s.perform pa b).colls = s.colls := rfl
@[simp] theorem State.perform_seq (pa : Nat) (b : List Byte) : (s.perform pa b).seq = s.seq := rfl
@[simp] theorem State.perform_faults (pa : Nat) (b : List Byte) : (s.perform pa b).faults = s.faults := rfl
@[simp] theorem State.perform_dbg (pa : Nat) (b : List Byte) : (s.perform pa b).dbg = s.dbg := rfl
@[simp] theorem State.perform_part (pa : Nat) (b : List Byte) : (s.perform pa b).part = s.part := rfl
@[simp] theorem State.perform_mgmt (pa : Nat) (b : List Byte) : (s.perform pa b).mgmt = s.mgmt := rfl
@[simp] theorem State.perform_coreDone (pa : Nat) (b : List Byte) : (s.perform pa b).coreDone = s.coreDone := rfl
@[simp] theorem State.perform_hostReads (pa : Nat) (b : List Byte) : (s.perform pa b).hostReads = s.hostReads := rfl

/-! ## State.discardHeld -/

@[simp] theorem State.discardHeld_tick (p : Held → Bool) : (s.discardHeld p).tick = s.tick := rfl
@[simp] theorem State.discardHeld_phase (p : Held → Bool) : (s.discardHeld p).phase = s.phase := rfl
@[simp] theorem State.discardHeld_cursor (p : Held → Bool) : (s.discardHeld p).cursor = s.cursor := rfl
@[simp] theorem State.discardHeld_inputs (p : Held → Bool) : (s.discardHeld p).inputs = s.inputs := rfl
@[simp] theorem State.discardHeld_free (p : Held → Bool) : (s.discardHeld p).free = s.free := rfl
@[simp] theorem State.discardHeld_ids (p : Held → Bool) : (s.discardHeld p).ids = s.ids := rfl
@[simp] theorem State.discardHeld_elems (p : Held → Bool) : (s.discardHeld p).elems = s.elems := rfl
@[simp] theorem State.discardHeld_tiles (p : Held → Bool) : (s.discardHeld p).tiles = s.tiles := rfl
@[simp] theorem State.discardHeld_swages (p : Held → Bool) : (s.discardHeld p).swages = s.swages := rfl
@[simp] theorem State.discardHeld_flights (p : Held → Bool) : (s.discardHeld p).flights = s.flights := rfl
@[simp] theorem State.discardHeld_mem (p : Held → Bool) : (s.discardHeld p).mem = s.mem := rfl
@[simp] theorem State.discardHeld_poison (p : Held → Bool) : (s.discardHeld p).poison = s.poison := rfl
@[simp] theorem State.discardHeld_held (p : Held → Bool) : (s.discardHeld p).held = s.held.filter fun h => !p h := rfl
@[simp] theorem State.discardHeld_undo (p : Held → Bool) : (s.discardHeld p).undo = s.undo := rfl
@[simp] theorem State.discardHeld_accesses (p : Held → Bool) : (s.discardHeld p).accesses = s.accesses := rfl
@[simp] theorem State.discardHeld_turns (p : Held → Bool) : (s.discardHeld p).turns = s.turns := rfl
@[simp] theorem State.discardHeld_shares (p : Held → Bool) : (s.discardHeld p).shares = s.shares := rfl
@[simp] theorem State.discardHeld_xl (p : Held → Bool) : (s.discardHeld p).xl = s.xl := rfl
@[simp] theorem State.discardHeld_sync (p : Held → Bool) : (s.discardHeld p).sync = s.sync := rfl
@[simp] theorem State.discardHeld_waitv (p : Held → Bool) : (s.discardHeld p).waitv = s.waitv := rfl
@[simp] theorem State.discardHeld_chains (p : Held → Bool) : (s.discardHeld p).chains = s.chains := rfl
@[simp] theorem State.discardHeld_gapwin (p : Held → Bool) : (s.discardHeld p).gapwin = s.gapwin := rfl
@[simp] theorem State.discardHeld_wakes (p : Held → Bool) : (s.discardHeld p).wakes = s.wakes := rfl
@[simp] theorem State.discardHeld_tasks (p : Held → Bool) : (s.discardHeld p).tasks = s.tasks := rfl
@[simp] theorem State.discardHeld_deplost (p : Held → Bool) : (s.discardHeld p).deplost = s.deplost := rfl
@[simp] theorem State.discardHeld_queues (p : Held → Bool) : (s.discardHeld p).queues = s.queues := rfl
@[simp] theorem State.discardHeld_decoder (p : Held → Bool) : (s.discardHeld p).decoder = s.decoder := rfl
@[simp] theorem State.discardHeld_launches (p : Held → Bool) : (s.discardHeld p).launches = s.launches := rfl
@[simp] theorem State.discardHeld_regions (p : Held → Bool) : (s.discardHeld p).regions = s.regions := rfl
@[simp] theorem State.discardHeld_nodes (p : Held → Bool) : (s.discardHeld p).nodes = s.nodes := rfl
@[simp] theorem State.discardHeld_engines (p : Held → Bool) : (s.discardHeld p).engines = s.engines := rfl
@[simp] theorem State.discardHeld_frames (p : Held → Bool) : (s.discardHeld p).frames = s.frames := rfl
@[simp] theorem State.discardHeld_colls (p : Held → Bool) : (s.discardHeld p).colls = s.colls := rfl
@[simp] theorem State.discardHeld_seq (p : Held → Bool) : (s.discardHeld p).seq = s.seq := rfl
@[simp] theorem State.discardHeld_faults (p : Held → Bool) : (s.discardHeld p).faults = s.faults := rfl
@[simp] theorem State.discardHeld_dbg (p : Held → Bool) : (s.discardHeld p).dbg = s.dbg := rfl
@[simp] theorem State.discardHeld_part (p : Held → Bool) : (s.discardHeld p).part = s.part := rfl
@[simp] theorem State.discardHeld_mgmt (p : Held → Bool) : (s.discardHeld p).mgmt = s.mgmt := rfl
@[simp] theorem State.discardHeld_coreDone (p : Held → Bool) : (s.discardHeld p).coreDone = s.coreDone := rfl
@[simp] theorem State.discardHeld_hostReads (p : Held → Bool) : (s.discardHeld p).hostReads = s.hostReads := rfl

/-! ## State.issue -/

@[simp] theorem State.issue_tick (a : Access) : (s.issue a).tick = s.tick := rfl
@[simp] theorem State.issue_phase (a : Access) : (s.issue a).phase = s.phase := rfl
@[simp] theorem State.issue_cursor (a : Access) : (s.issue a).cursor = s.cursor := rfl
@[simp] theorem State.issue_inputs (a : Access) : (s.issue a).inputs = s.inputs := rfl
@[simp] theorem State.issue_free (a : Access) : (s.issue a).free = s.free := rfl
@[simp] theorem State.issue_ids (a : Access) : (s.issue a).ids = s.ids + 1 := rfl
@[simp] theorem State.issue_elems (a : Access) : (s.issue a).elems = s.elems := rfl
@[simp] theorem State.issue_tiles (a : Access) : (s.issue a).tiles = s.tiles := rfl
@[simp] theorem State.issue_swages (a : Access) : (s.issue a).swages = s.swages := rfl
@[simp] theorem State.issue_flights (a : Access) : (s.issue a).flights = s.flights := rfl
@[simp] theorem State.issue_mem (a : Access) : (s.issue a).mem = s.mem := rfl
@[simp] theorem State.issue_poison (a : Access) : (s.issue a).poison = s.poison := rfl
@[simp] theorem State.issue_held (a : Access) : (s.issue a).held = s.held := rfl
@[simp] theorem State.issue_undo (a : Access) : (s.issue a).undo = s.undo := rfl
@[simp] theorem State.issue_accesses (a : Access) : (s.issue a).accesses = s.accesses ++ [a] := rfl
@[simp] theorem State.issue_turns (a : Access) : (s.issue a).turns = s.turns := rfl
@[simp] theorem State.issue_shares (a : Access) : (s.issue a).shares = s.shares := rfl
@[simp] theorem State.issue_xl (a : Access) : (s.issue a).xl = s.xl := rfl
@[simp] theorem State.issue_sync (a : Access) : (s.issue a).sync = s.sync := rfl
@[simp] theorem State.issue_waitv (a : Access) : (s.issue a).waitv = s.waitv := rfl
@[simp] theorem State.issue_chains (a : Access) : (s.issue a).chains = s.chains := rfl
@[simp] theorem State.issue_gapwin (a : Access) : (s.issue a).gapwin = s.gapwin := rfl
@[simp] theorem State.issue_wakes (a : Access) : (s.issue a).wakes = s.wakes := rfl
@[simp] theorem State.issue_tasks (a : Access) : (s.issue a).tasks = s.tasks := rfl
@[simp] theorem State.issue_deplost (a : Access) : (s.issue a).deplost = s.deplost := rfl
@[simp] theorem State.issue_queues (a : Access) : (s.issue a).queues = s.queues := rfl
@[simp] theorem State.issue_decoder (a : Access) : (s.issue a).decoder = s.decoder := rfl
@[simp] theorem State.issue_launches (a : Access) : (s.issue a).launches = s.launches := rfl
@[simp] theorem State.issue_regions (a : Access) : (s.issue a).regions = s.regions := rfl
@[simp] theorem State.issue_nodes (a : Access) : (s.issue a).nodes = s.nodes := rfl
@[simp] theorem State.issue_engines (a : Access) : (s.issue a).engines = s.engines := rfl
@[simp] theorem State.issue_frames (a : Access) : (s.issue a).frames = s.frames := rfl
@[simp] theorem State.issue_colls (a : Access) : (s.issue a).colls = s.colls := rfl
@[simp] theorem State.issue_seq (a : Access) : (s.issue a).seq = s.seq := rfl
@[simp] theorem State.issue_faults (a : Access) : (s.issue a).faults = s.faults := rfl
@[simp] theorem State.issue_dbg (a : Access) : (s.issue a).dbg = s.dbg := rfl
@[simp] theorem State.issue_part (a : Access) : (s.issue a).part = s.part := rfl
@[simp] theorem State.issue_mgmt (a : Access) : (s.issue a).mgmt = s.mgmt := rfl
@[simp] theorem State.issue_coreDone (a : Access) : (s.issue a).coreDone = s.coreDone := rfl
@[simp] theorem State.issue_hostReads (a : Access) : (s.issue a).hostReads = s.hostReads := rfl

/-! ## State.resolve -/

@[simp] theorem State.resolve_tick (n : Nat) (d1 d2 : Option Val) (p : Bool) (due : Nat) : (s.resolve n d1 d2 p due).tick = s.tick := rfl
@[simp] theorem State.resolve_phase (n : Nat) (d1 d2 : Option Val) (p : Bool) (due : Nat) : (s.resolve n d1 d2 p due).phase = s.phase := rfl
@[simp] theorem State.resolve_cursor (n : Nat) (d1 d2 : Option Val) (p : Bool) (due : Nat) : (s.resolve n d1 d2 p due).cursor = s.cursor := rfl
@[simp] theorem State.resolve_inputs (n : Nat) (d1 d2 : Option Val) (p : Bool) (due : Nat) : (s.resolve n d1 d2 p due).inputs = s.inputs := rfl
@[simp] theorem State.resolve_free (n : Nat) (d1 d2 : Option Val) (p : Bool) (due : Nat) : (s.resolve n d1 d2 p due).free = s.free := rfl
@[simp] theorem State.resolve_ids (n : Nat) (d1 d2 : Option Val) (p : Bool) (due : Nat) : (s.resolve n d1 d2 p due).ids = s.ids := rfl
@[simp] theorem State.resolve_elems (n : Nat) (d1 d2 : Option Val) (p : Bool) (due : Nat) : (s.resolve n d1 d2 p due).elems = s.elems := rfl
@[simp] theorem State.resolve_tiles (n : Nat) (d1 d2 : Option Val) (p : Bool) (due : Nat) : (s.resolve n d1 d2 p due).tiles = s.tiles := rfl
@[simp] theorem State.resolve_swages (n : Nat) (d1 d2 : Option Val) (p : Bool) (due : Nat) : (s.resolve n d1 d2 p due).swages = s.swages := rfl
@[simp] theorem State.resolve_flights (n : Nat) (d1 d2 : Option Val) (p : Bool) (due : Nat) : (s.resolve n d1 d2 p due).flights = s.flights.map fun r => if r.id == n then { r with ready := true, due := some due, res := { r.res with d1 := d1, d2 := d2, pred := p } } else r := rfl
@[simp] theorem State.resolve_mem (n : Nat) (d1 d2 : Option Val) (p : Bool) (due : Nat) : (s.resolve n d1 d2 p due).mem = s.mem := rfl
@[simp] theorem State.resolve_poison (n : Nat) (d1 d2 : Option Val) (p : Bool) (due : Nat) : (s.resolve n d1 d2 p due).poison = s.poison := rfl
@[simp] theorem State.resolve_held (n : Nat) (d1 d2 : Option Val) (p : Bool) (due : Nat) : (s.resolve n d1 d2 p due).held = s.held := rfl
@[simp] theorem State.resolve_undo (n : Nat) (d1 d2 : Option Val) (p : Bool) (due : Nat) : (s.resolve n d1 d2 p due).undo = s.undo := rfl
@[simp] theorem State.resolve_accesses (n : Nat) (d1 d2 : Option Val) (p : Bool) (due : Nat) : (s.resolve n d1 d2 p due).accesses = s.accesses := rfl
@[simp] theorem State.resolve_turns (n : Nat) (d1 d2 : Option Val) (p : Bool) (due : Nat) : (s.resolve n d1 d2 p due).turns = s.turns := rfl
@[simp] theorem State.resolve_shares (n : Nat) (d1 d2 : Option Val) (p : Bool) (due : Nat) : (s.resolve n d1 d2 p due).shares = s.shares := rfl
@[simp] theorem State.resolve_xl (n : Nat) (d1 d2 : Option Val) (p : Bool) (due : Nat) : (s.resolve n d1 d2 p due).xl = s.xl := rfl
@[simp] theorem State.resolve_sync (n : Nat) (d1 d2 : Option Val) (p : Bool) (due : Nat) : (s.resolve n d1 d2 p due).sync = s.sync := rfl
@[simp] theorem State.resolve_waitv (n : Nat) (d1 d2 : Option Val) (p : Bool) (due : Nat) : (s.resolve n d1 d2 p due).waitv = s.waitv := rfl
@[simp] theorem State.resolve_chains (n : Nat) (d1 d2 : Option Val) (p : Bool) (due : Nat) : (s.resolve n d1 d2 p due).chains = s.chains := rfl
@[simp] theorem State.resolve_gapwin (n : Nat) (d1 d2 : Option Val) (p : Bool) (due : Nat) : (s.resolve n d1 d2 p due).gapwin = s.gapwin := rfl
@[simp] theorem State.resolve_wakes (n : Nat) (d1 d2 : Option Val) (p : Bool) (due : Nat) : (s.resolve n d1 d2 p due).wakes = s.wakes := rfl
@[simp] theorem State.resolve_tasks (n : Nat) (d1 d2 : Option Val) (p : Bool) (due : Nat) : (s.resolve n d1 d2 p due).tasks = s.tasks := rfl
@[simp] theorem State.resolve_deplost (n : Nat) (d1 d2 : Option Val) (p : Bool) (due : Nat) : (s.resolve n d1 d2 p due).deplost = s.deplost := rfl
@[simp] theorem State.resolve_queues (n : Nat) (d1 d2 : Option Val) (p : Bool) (due : Nat) : (s.resolve n d1 d2 p due).queues = s.queues := rfl
@[simp] theorem State.resolve_decoder (n : Nat) (d1 d2 : Option Val) (p : Bool) (due : Nat) : (s.resolve n d1 d2 p due).decoder = s.decoder := rfl
@[simp] theorem State.resolve_launches (n : Nat) (d1 d2 : Option Val) (p : Bool) (due : Nat) : (s.resolve n d1 d2 p due).launches = s.launches := rfl
@[simp] theorem State.resolve_regions (n : Nat) (d1 d2 : Option Val) (p : Bool) (due : Nat) : (s.resolve n d1 d2 p due).regions = s.regions := rfl
@[simp] theorem State.resolve_nodes (n : Nat) (d1 d2 : Option Val) (p : Bool) (due : Nat) : (s.resolve n d1 d2 p due).nodes = s.nodes := rfl
@[simp] theorem State.resolve_engines (n : Nat) (d1 d2 : Option Val) (p : Bool) (due : Nat) : (s.resolve n d1 d2 p due).engines = s.engines := rfl
@[simp] theorem State.resolve_frames (n : Nat) (d1 d2 : Option Val) (p : Bool) (due : Nat) : (s.resolve n d1 d2 p due).frames = s.frames := rfl
@[simp] theorem State.resolve_colls (n : Nat) (d1 d2 : Option Val) (p : Bool) (due : Nat) : (s.resolve n d1 d2 p due).colls = s.colls := rfl
@[simp] theorem State.resolve_seq (n : Nat) (d1 d2 : Option Val) (p : Bool) (due : Nat) : (s.resolve n d1 d2 p due).seq = s.seq := rfl
@[simp] theorem State.resolve_faults (n : Nat) (d1 d2 : Option Val) (p : Bool) (due : Nat) : (s.resolve n d1 d2 p due).faults = s.faults := rfl
@[simp] theorem State.resolve_dbg (n : Nat) (d1 d2 : Option Val) (p : Bool) (due : Nat) : (s.resolve n d1 d2 p due).dbg = s.dbg := rfl
@[simp] theorem State.resolve_part (n : Nat) (d1 d2 : Option Val) (p : Bool) (due : Nat) : (s.resolve n d1 d2 p due).part = s.part := rfl
@[simp] theorem State.resolve_mgmt (n : Nat) (d1 d2 : Option Val) (p : Bool) (due : Nat) : (s.resolve n d1 d2 p due).mgmt = s.mgmt := rfl
@[simp] theorem State.resolve_coreDone (n : Nat) (d1 d2 : Option Val) (p : Bool) (due : Nat) : (s.resolve n d1 d2 p due).coreDone = s.coreDone := rfl
@[simp] theorem State.resolve_hostReads (n : Nat) (d1 d2 : Option Val) (p : Bool) (due : Nat) : (s.resolve n d1 d2 p due).hostReads = s.hostReads := rfl

/-! ## State.markX -/

@[simp] theorem State.markX_tick (g inv : Nat) : (s.markX g inv).tick = s.tick := rfl
@[simp] theorem State.markX_phase (g inv : Nat) : (s.markX g inv).phase = s.phase := rfl
@[simp] theorem State.markX_cursor (g inv : Nat) : (s.markX g inv).cursor = s.cursor := rfl
@[simp] theorem State.markX_inputs (g inv : Nat) : (s.markX g inv).inputs = s.inputs := rfl
@[simp] theorem State.markX_free (g inv : Nat) : (s.markX g inv).free = s.free := rfl
@[simp] theorem State.markX_ids (g inv : Nat) : (s.markX g inv).ids = s.ids := rfl
@[simp] theorem State.markX_elems (g inv : Nat) : (s.markX g inv).elems = s.elems := rfl
@[simp] theorem State.markX_tiles (g inv : Nat) : (s.markX g inv).tiles = s.tiles := rfl
@[simp] theorem State.markX_swages (g inv : Nat) : (s.markX g inv).swages = s.swages := rfl
@[simp] theorem State.markX_flights (g inv : Nat) : (s.markX g inv).flights = s.flights := rfl
@[simp] theorem State.markX_mem (g inv : Nat) : (s.markX g inv).mem = s.mem := rfl
@[simp] theorem State.markX_poison (g inv : Nat) : (s.markX g inv).poison = s.poison := rfl
@[simp] theorem State.markX_held (g inv : Nat) : (s.markX g inv).held = s.held := rfl
@[simp] theorem State.markX_undo (g inv : Nat) : (s.markX g inv).undo = s.undo := rfl
@[simp] theorem State.markX_accesses (g inv : Nat) : (s.markX g inv).accesses = s.accesses := rfl
@[simp] theorem State.markX_turns (g inv : Nat) : (s.markX g inv).turns = s.turns := rfl
@[simp] theorem State.markX_shares (g inv : Nat) : (s.markX g inv).shares = s.shares := rfl
@[simp] theorem State.markX_xl (g inv : Nat) : (s.markX g inv).xl = s.xl := rfl
@[simp] theorem State.markX_sync (g inv : Nat) : (s.markX g inv).sync = s.sync := rfl
@[simp] theorem State.markX_waitv (g inv : Nat) : (s.markX g inv).waitv = s.waitv := rfl
@[simp] theorem State.markX_chains (g inv : Nat) : (s.markX g inv).chains = s.chains := rfl
@[simp] theorem State.markX_gapwin (g inv : Nat) : (s.markX g inv).gapwin = s.gapwin := rfl
@[simp] theorem State.markX_wakes (g inv : Nat) : (s.markX g inv).wakes = s.wakes := rfl
@[simp] theorem State.markX_tasks (g inv : Nat) : (s.markX g inv).tasks = s.tasks := rfl
@[simp] theorem State.markX_deplost (g inv : Nat) : (s.markX g inv).deplost = s.deplost := rfl
@[simp] theorem State.markX_queues (g inv : Nat) : (s.markX g inv).queues = s.queues := rfl
@[simp] theorem State.markX_decoder (g inv : Nat) : (s.markX g inv).decoder = s.decoder := rfl
@[simp] theorem State.markX_launches (g inv : Nat) : (s.markX g inv).launches = s.launches := rfl
@[simp] theorem State.markX_regions (g inv : Nat) : (s.markX g inv).regions = s.regions.map fun r => if r.id == g then { r with dirtyX := inv :: r.dirtyX.erase inv } else r := rfl
@[simp] theorem State.markX_nodes (g inv : Nat) : (s.markX g inv).nodes = s.nodes := rfl
@[simp] theorem State.markX_engines (g inv : Nat) : (s.markX g inv).engines = s.engines := rfl
@[simp] theorem State.markX_frames (g inv : Nat) : (s.markX g inv).frames = s.frames := rfl
@[simp] theorem State.markX_colls (g inv : Nat) : (s.markX g inv).colls = s.colls := rfl
@[simp] theorem State.markX_seq (g inv : Nat) : (s.markX g inv).seq = s.seq := rfl
@[simp] theorem State.markX_faults (g inv : Nat) : (s.markX g inv).faults = s.faults := rfl
@[simp] theorem State.markX_dbg (g inv : Nat) : (s.markX g inv).dbg = s.dbg := rfl
@[simp] theorem State.markX_part (g inv : Nat) : (s.markX g inv).part = s.part := rfl
@[simp] theorem State.markX_mgmt (g inv : Nat) : (s.markX g inv).mgmt = s.mgmt := rfl
@[simp] theorem State.markX_coreDone (g inv : Nat) : (s.markX g inv).coreDone = s.coreDone := rfl
@[simp] theorem State.markX_hostReads (g inv : Nat) : (s.markX g inv).hostReads = s.hostReads := rfl

/-! ## State.markS -/

@[simp] theorem State.markS_tick (g inv : Nat) : (s.markS g inv).tick = s.tick := rfl
@[simp] theorem State.markS_phase (g inv : Nat) : (s.markS g inv).phase = s.phase := rfl
@[simp] theorem State.markS_cursor (g inv : Nat) : (s.markS g inv).cursor = s.cursor := rfl
@[simp] theorem State.markS_inputs (g inv : Nat) : (s.markS g inv).inputs = s.inputs := rfl
@[simp] theorem State.markS_free (g inv : Nat) : (s.markS g inv).free = s.free := rfl
@[simp] theorem State.markS_ids (g inv : Nat) : (s.markS g inv).ids = s.ids := rfl
@[simp] theorem State.markS_elems (g inv : Nat) : (s.markS g inv).elems = s.elems := rfl
@[simp] theorem State.markS_tiles (g inv : Nat) : (s.markS g inv).tiles = s.tiles := rfl
@[simp] theorem State.markS_swages (g inv : Nat) : (s.markS g inv).swages = s.swages := rfl
@[simp] theorem State.markS_flights (g inv : Nat) : (s.markS g inv).flights = s.flights := rfl
@[simp] theorem State.markS_mem (g inv : Nat) : (s.markS g inv).mem = s.mem := rfl
@[simp] theorem State.markS_poison (g inv : Nat) : (s.markS g inv).poison = s.poison := rfl
@[simp] theorem State.markS_held (g inv : Nat) : (s.markS g inv).held = s.held := rfl
@[simp] theorem State.markS_undo (g inv : Nat) : (s.markS g inv).undo = s.undo := rfl
@[simp] theorem State.markS_accesses (g inv : Nat) : (s.markS g inv).accesses = s.accesses := rfl
@[simp] theorem State.markS_turns (g inv : Nat) : (s.markS g inv).turns = s.turns := rfl
@[simp] theorem State.markS_shares (g inv : Nat) : (s.markS g inv).shares = s.shares := rfl
@[simp] theorem State.markS_xl (g inv : Nat) : (s.markS g inv).xl = s.xl := rfl
@[simp] theorem State.markS_sync (g inv : Nat) : (s.markS g inv).sync = s.sync := rfl
@[simp] theorem State.markS_waitv (g inv : Nat) : (s.markS g inv).waitv = s.waitv := rfl
@[simp] theorem State.markS_chains (g inv : Nat) : (s.markS g inv).chains = s.chains := rfl
@[simp] theorem State.markS_gapwin (g inv : Nat) : (s.markS g inv).gapwin = s.gapwin := rfl
@[simp] theorem State.markS_wakes (g inv : Nat) : (s.markS g inv).wakes = s.wakes := rfl
@[simp] theorem State.markS_tasks (g inv : Nat) : (s.markS g inv).tasks = s.tasks := rfl
@[simp] theorem State.markS_deplost (g inv : Nat) : (s.markS g inv).deplost = s.deplost := rfl
@[simp] theorem State.markS_queues (g inv : Nat) : (s.markS g inv).queues = s.queues := rfl
@[simp] theorem State.markS_decoder (g inv : Nat) : (s.markS g inv).decoder = s.decoder := rfl
@[simp] theorem State.markS_launches (g inv : Nat) : (s.markS g inv).launches = s.launches := rfl
@[simp] theorem State.markS_regions (g inv : Nat) : (s.markS g inv).regions = s.regions.map fun r => if r.id == g then { r with dirtyS := inv :: r.dirtyS.erase inv } else r := rfl
@[simp] theorem State.markS_nodes (g inv : Nat) : (s.markS g inv).nodes = s.nodes := rfl
@[simp] theorem State.markS_engines (g inv : Nat) : (s.markS g inv).engines = s.engines := rfl
@[simp] theorem State.markS_frames (g inv : Nat) : (s.markS g inv).frames = s.frames := rfl
@[simp] theorem State.markS_colls (g inv : Nat) : (s.markS g inv).colls = s.colls := rfl
@[simp] theorem State.markS_seq (g inv : Nat) : (s.markS g inv).seq = s.seq := rfl
@[simp] theorem State.markS_faults (g inv : Nat) : (s.markS g inv).faults = s.faults := rfl
@[simp] theorem State.markS_dbg (g inv : Nat) : (s.markS g inv).dbg = s.dbg := rfl
@[simp] theorem State.markS_part (g inv : Nat) : (s.markS g inv).part = s.part := rfl
@[simp] theorem State.markS_mgmt (g inv : Nat) : (s.markS g inv).mgmt = s.mgmt := rfl
@[simp] theorem State.markS_coreDone (g inv : Nat) : (s.markS g inv).coreDone = s.coreDone := rfl
@[simp] theorem State.markS_hostReads (g inv : Nat) : (s.markS g inv).hostReads = s.hostReads := rfl

/-! ## State.setSlot -/

@[simp] theorem State.setSlot_tick (n : Nat) (q : SeqSlot) : (s.setSlot n q).tick = s.tick := rfl
@[simp] theorem State.setSlot_phase (n : Nat) (q : SeqSlot) : (s.setSlot n q).phase = s.phase := rfl
@[simp] theorem State.setSlot_cursor (n : Nat) (q : SeqSlot) : (s.setSlot n q).cursor = s.cursor := rfl
@[simp] theorem State.setSlot_inputs (n : Nat) (q : SeqSlot) : (s.setSlot n q).inputs = s.inputs := rfl
@[simp] theorem State.setSlot_free (n : Nat) (q : SeqSlot) : (s.setSlot n q).free = s.free := rfl
@[simp] theorem State.setSlot_ids (n : Nat) (q : SeqSlot) : (s.setSlot n q).ids = s.ids := rfl
@[simp] theorem State.setSlot_elems (n : Nat) (q : SeqSlot) : (s.setSlot n q).elems = s.elems := rfl
@[simp] theorem State.setSlot_tiles (n : Nat) (q : SeqSlot) : (s.setSlot n q).tiles = s.tiles := rfl
@[simp] theorem State.setSlot_swages (n : Nat) (q : SeqSlot) : (s.setSlot n q).swages = s.swages := rfl
@[simp] theorem State.setSlot_flights (n : Nat) (q : SeqSlot) : (s.setSlot n q).flights = s.flights := rfl
@[simp] theorem State.setSlot_mem (n : Nat) (q : SeqSlot) : (s.setSlot n q).mem = s.mem := rfl
@[simp] theorem State.setSlot_poison (n : Nat) (q : SeqSlot) : (s.setSlot n q).poison = s.poison := rfl
@[simp] theorem State.setSlot_held (n : Nat) (q : SeqSlot) : (s.setSlot n q).held = s.held := rfl
@[simp] theorem State.setSlot_undo (n : Nat) (q : SeqSlot) : (s.setSlot n q).undo = s.undo := rfl
@[simp] theorem State.setSlot_accesses (n : Nat) (q : SeqSlot) : (s.setSlot n q).accesses = s.accesses := rfl
@[simp] theorem State.setSlot_turns (n : Nat) (q : SeqSlot) : (s.setSlot n q).turns = s.turns := rfl
@[simp] theorem State.setSlot_shares (n : Nat) (q : SeqSlot) : (s.setSlot n q).shares = s.shares := rfl
@[simp] theorem State.setSlot_xl (n : Nat) (q : SeqSlot) : (s.setSlot n q).xl = s.xl := rfl
@[simp] theorem State.setSlot_sync (n : Nat) (q : SeqSlot) : (s.setSlot n q).sync = s.sync := rfl
@[simp] theorem State.setSlot_waitv (n : Nat) (q : SeqSlot) : (s.setSlot n q).waitv = s.waitv := rfl
@[simp] theorem State.setSlot_chains (n : Nat) (q : SeqSlot) : (s.setSlot n q).chains = s.chains := rfl
@[simp] theorem State.setSlot_gapwin (n : Nat) (q : SeqSlot) : (s.setSlot n q).gapwin = s.gapwin := rfl
@[simp] theorem State.setSlot_wakes (n : Nat) (q : SeqSlot) : (s.setSlot n q).wakes = s.wakes := rfl
@[simp] theorem State.setSlot_tasks (n : Nat) (q : SeqSlot) : (s.setSlot n q).tasks = s.tasks := rfl
@[simp] theorem State.setSlot_deplost (n : Nat) (q : SeqSlot) : (s.setSlot n q).deplost = s.deplost := rfl
@[simp] theorem State.setSlot_queues (n : Nat) (q : SeqSlot) : (s.setSlot n q).queues = s.queues := rfl
@[simp] theorem State.setSlot_decoder (n : Nat) (q : SeqSlot) : (s.setSlot n q).decoder = s.decoder := rfl
@[simp] theorem State.setSlot_launches (n : Nat) (q : SeqSlot) : (s.setSlot n q).launches = s.launches := rfl
@[simp] theorem State.setSlot_regions (n : Nat) (q : SeqSlot) : (s.setSlot n q).regions = s.regions := rfl
@[simp] theorem State.setSlot_nodes (n : Nat) (q : SeqSlot) : (s.setSlot n q).nodes = s.nodes := rfl
@[simp] theorem State.setSlot_engines (n : Nat) (q : SeqSlot) : (s.setSlot n q).engines = s.engines := rfl
@[simp] theorem State.setSlot_frames (n : Nat) (q : SeqSlot) : (s.setSlot n q).frames = s.frames := rfl
@[simp] theorem State.setSlot_colls (n : Nat) (q : SeqSlot) : (s.setSlot n q).colls = s.colls := rfl
@[simp] theorem State.setSlot_seq (n : Nat) (q : SeqSlot) : (s.setSlot n q).seq = { s.seq with slots := tput s.seq.slots n q } := rfl
@[simp] theorem State.setSlot_faults (n : Nat) (q : SeqSlot) : (s.setSlot n q).faults = s.faults := rfl
@[simp] theorem State.setSlot_dbg (n : Nat) (q : SeqSlot) : (s.setSlot n q).dbg = s.dbg := rfl
@[simp] theorem State.setSlot_part (n : Nat) (q : SeqSlot) : (s.setSlot n q).part = s.part := rfl
@[simp] theorem State.setSlot_mgmt (n : Nat) (q : SeqSlot) : (s.setSlot n q).mgmt = s.mgmt := rfl
@[simp] theorem State.setSlot_coreDone (n : Nat) (q : SeqSlot) : (s.setSlot n q).coreDone = s.coreDone := rfl
@[simp] theorem State.setSlot_hostReads (n : Nat) (q : SeqSlot) : (s.setSlot n q).hostReads = s.hostReads := rfl

/-! ## Contexts and elements -/

@[simp] theorem Ctx.setReg_regs (c : Ctx) (n : Nat) (v : Val) : (c.setReg n v).regs = c.regs.set n v := rfl
@[simp] theorem Ctx.setReg_preds (c : Ctx) (n : Nat) (v : Val) : (c.setReg n v).preds = c.preds := rfl
@[simp] theorem Ctx.setReg_wv (c : Ctx) (n : Nat) (v : Val) : (c.setReg n v).wv = c.wv := rfl
@[simp] theorem Ctx.setReg_frm (c : Ctx) (n : Nat) (v : Val) : (c.setReg n v).frm = c.frm := rfl
@[simp] theorem Ctx.setReg_fflags (c : Ctx) (n : Nat) (v : Val) : (c.setReg n v).fflags = c.fflags := rfl
@[simp] theorem Ctx.setReg_seqid (c : Ctx) (n : Nat) (v : Val) : (c.setReg n v).seqid = c.seqid := rfl
@[simp] theorem Ctx.setReg_rngseed (c : Ctx) (n : Nat) (v : Val) : (c.setReg n v).rngseed = c.rngseed := rfl
@[simp] theorem Ctx.setReg_rngpos (c : Ctx) (n : Nat) (v : Val) : (c.setReg n v).rngpos = c.rngpos := rfl
@[simp] theorem Ctx.setReg_spmap (c : Ctx) (n : Nat) (v : Val) : (c.setReg n v).spmap = c.spmap := rfl
@[simp] theorem Ctx.setReg_faultinfo (c : Ctx) (n : Nat) (v : Val) : (c.setReg n v).faultinfo = c.faultinfo := rfl
@[simp] theorem Ctx.setReg_ivec (c : Ctx) (n : Nat) (v : Val) : (c.setReg n v).ivec = c.ivec := rfl
@[simp] theorem Ctx.setReg_fair (c : Ctx) (n : Nat) (v : Val) : (c.setReg n v).fair = c.fair := rfl
@[simp] theorem Ctx.setReg_aged (c : Ctx) (n : Nat) (v : Val) : (c.setReg n v).aged = c.aged := rfl
@[simp] theorem Ctx.setReg_inv (c : Ctx) (n : Nat) (v : Val) : (c.setReg n v).inv = c.inv := rfl
@[simp] theorem Ctx.setReg_ended (c : Ctx) (n : Nat) (v : Val) : (c.setReg n v).ended = c.ended := rfl
@[simp] theorem Ctx.setReg_yieldTo (c : Ctx) (n : Nat) (v : Val) : (c.setReg n v).yieldTo = c.yieldTo := rfl
@[simp] theorem Ctx.setReg_bars (c : Ctx) (n : Nat) (v : Val) : (c.setReg n v).bars = c.bars := rfl
@[simp] theorem Ctx.setReg_holds (c : Ctx) (n : Nat) (v : Val) : (c.setReg n v).holds = c.holds := rfl
@[simp] theorem Ctx.setReg_breakPass (c : Ctx) (n : Nat) (v : Val) : (c.setReg n v).breakPass = c.breakPass := rfl
@[simp] theorem Ctx.setReg_regTime (c : Ctx) (n : Nat) (v : Val) : (c.setReg n v).regTime = c.regTime := rfl
@[simp] theorem Ctx.setReg_predTimes (c : Ctx) (n : Nat) (v : Val) : (c.setReg n v).predTimes = c.predTimes := rfl
@[simp] theorem Ctx.setReg_pended (c : Ctx) (n : Nat) (v : Val) : (c.setReg n v).pended = c.pended := rfl
@[simp] theorem Ctx.setReg_srTimes (c : Ctx) (n : Nat) (v : Val) : (c.setReg n v).srTimes = c.srTimes := rfl
@[simp] theorem Elem.modCtx_active (x : Elem) (n : Nat) (f : Ctx → Ctx) : (x.modCtx n f).active = x.active := rfl
@[simp] theorem Elem.modCtx_shadow (x : Elem) (n : Nat) (f : Ctx → Ctx) : (x.modCtx n f).shadow = x.shadow := rfl
@[simp] theorem Elem.modCtx_loaded (x : Elem) (n : Nat) (f : Ctx → Ctx) : (x.modCtx n f).loaded = x.loaded := rfl
@[simp] theorem Elem.modCtx_region (x : Elem) (n : Nat) (f : Ctx → Ctx) : (x.modCtx n f).region = x.region := rfl
@[simp] theorem Elem.modCtx_ins (x : Elem) (n : Nat) (f : Ctx → Ctx) : (x.modCtx n f).ins = x.ins := rfl
@[simp] theorem Elem.modCtx_outs (x : Elem) (n : Nat) (f : Ctx → Ctx) : (x.modCtx n f).outs = x.outs := rfl
@[simp] theorem Elem.modCtx_ctxs (x : Elem) (n : Nat) (f : Ctx → Ctx) : (x.modCtx n f).ctxs = x.ctxs.modify n f := rfl
@[simp] theorem Elem.modCtx_last (x : Elem) (n : Nat) (f : Ctx → Ctx) : (x.modCtx n f).last = x.last := rfl
@[simp] theorem Elem.modCtx_decided (x : Elem) (n : Nat) (f : Ctx → Ctx) : (x.modCtx n f).decided = x.decided := rfl
@[simp] theorem Elem.modCtx_barred (x : Elem) (n : Nat) (f : Ctx → Ctx) : (x.modCtx n f).barred = x.barred := rfl
@[simp] theorem Elem.modCtx_tags (x : Elem) (n : Nat) (f : Ctx → Ctx) : (x.modCtx n f).tags = x.tags := rfl
@[simp] theorem Elem.modCtx_bounds (x : Elem) (n : Nat) (f : Ctx → Ctx) : (x.modCtx n f).bounds = x.bounds := rfl
@[simp] theorem Elem.modCtx_tagTime (x : Elem) (n : Nat) (f : Ctx → Ctx) : (x.modCtx n f).tagTime = x.tagTime := rfl
@[simp] theorem Elem.modCtx_halted (x : Elem) (n : Nat) (f : Ctx → Ctx) : (x.modCtx n f).halted = x.halted := rfl
@[simp] theorem Elem.modCtx_frozen (x : Elem) (n : Nat) (f : Ctx → Ctx) : (x.modCtx n f).frozen = x.frozen := rfl
@[simp] theorem Elem.modCtx_drained (x : Elem) (n : Nat) (f : Ctx → Ctx) : (x.modCtx n f).drained = x.drained := rfl
@[simp] theorem Elem.modCtx_snapped (x : Elem) (n : Nat) (f : Ctx → Ctx) : (x.modCtx n f).snapped = x.snapped := rfl
@[simp] theorem Elem.modCtx_saved (x : Elem) (n : Nat) (f : Ctx → Ctx) : (x.modCtx n f).saved = x.saved := rfl
@[simp] theorem Elem.modCtx_notes (x : Elem) (n : Nat) (f : Ctx → Ctx) : (x.modCtx n f).notes = x.notes := rfl
@[simp] theorem Elem.modCtx_walks (x : Elem) (n : Nat) (f : Ctx → Ctx) : (x.modCtx n f).walks = x.walks := rfl
@[simp] theorem Elem.modCtx_patched (x : Elem) (n : Nat) (f : Ctx → Ctx) : (x.modCtx n f).patched = x.patched := rfl
@[simp] theorem Elem.modCtx_fenced (x : Elem) (n : Nat) (f : Ctx → Ctx) : (x.modCtx n f).fenced = x.fenced := rfl
@[simp] theorem Elem.modIn_active (x : Elem) (n : Nat) (f : InCh → InCh) : (x.modIn n f).active = x.active := rfl
@[simp] theorem Elem.modIn_shadow (x : Elem) (n : Nat) (f : InCh → InCh) : (x.modIn n f).shadow = x.shadow := rfl
@[simp] theorem Elem.modIn_loaded (x : Elem) (n : Nat) (f : InCh → InCh) : (x.modIn n f).loaded = x.loaded := rfl
@[simp] theorem Elem.modIn_region (x : Elem) (n : Nat) (f : InCh → InCh) : (x.modIn n f).region = x.region := rfl
@[simp] theorem Elem.modIn_ins (x : Elem) (n : Nat) (f : InCh → InCh) : (x.modIn n f).ins = x.ins.modify n f := rfl
@[simp] theorem Elem.modIn_outs (x : Elem) (n : Nat) (f : InCh → InCh) : (x.modIn n f).outs = x.outs := rfl
@[simp] theorem Elem.modIn_ctxs (x : Elem) (n : Nat) (f : InCh → InCh) : (x.modIn n f).ctxs = x.ctxs := rfl
@[simp] theorem Elem.modIn_last (x : Elem) (n : Nat) (f : InCh → InCh) : (x.modIn n f).last = x.last := rfl
@[simp] theorem Elem.modIn_decided (x : Elem) (n : Nat) (f : InCh → InCh) : (x.modIn n f).decided = x.decided := rfl
@[simp] theorem Elem.modIn_barred (x : Elem) (n : Nat) (f : InCh → InCh) : (x.modIn n f).barred = x.barred := rfl
@[simp] theorem Elem.modIn_tags (x : Elem) (n : Nat) (f : InCh → InCh) : (x.modIn n f).tags = x.tags := rfl
@[simp] theorem Elem.modIn_bounds (x : Elem) (n : Nat) (f : InCh → InCh) : (x.modIn n f).bounds = x.bounds := rfl
@[simp] theorem Elem.modIn_tagTime (x : Elem) (n : Nat) (f : InCh → InCh) : (x.modIn n f).tagTime = x.tagTime := rfl
@[simp] theorem Elem.modIn_halted (x : Elem) (n : Nat) (f : InCh → InCh) : (x.modIn n f).halted = x.halted := rfl
@[simp] theorem Elem.modIn_frozen (x : Elem) (n : Nat) (f : InCh → InCh) : (x.modIn n f).frozen = x.frozen := rfl
@[simp] theorem Elem.modIn_drained (x : Elem) (n : Nat) (f : InCh → InCh) : (x.modIn n f).drained = x.drained := rfl
@[simp] theorem Elem.modIn_snapped (x : Elem) (n : Nat) (f : InCh → InCh) : (x.modIn n f).snapped = x.snapped := rfl
@[simp] theorem Elem.modIn_saved (x : Elem) (n : Nat) (f : InCh → InCh) : (x.modIn n f).saved = x.saved := rfl
@[simp] theorem Elem.modIn_notes (x : Elem) (n : Nat) (f : InCh → InCh) : (x.modIn n f).notes = x.notes := rfl
@[simp] theorem Elem.modIn_walks (x : Elem) (n : Nat) (f : InCh → InCh) : (x.modIn n f).walks = x.walks := rfl
@[simp] theorem Elem.modIn_patched (x : Elem) (n : Nat) (f : InCh → InCh) : (x.modIn n f).patched = x.patched := rfl
@[simp] theorem Elem.modIn_fenced (x : Elem) (n : Nat) (f : InCh → InCh) : (x.modIn n f).fenced = x.fenced := rfl
@[simp] theorem Elem.modOut_active (x : Elem) (n : Nat) (f : OutCh → OutCh) : (x.modOut n f).active = x.active := rfl
@[simp] theorem Elem.modOut_shadow (x : Elem) (n : Nat) (f : OutCh → OutCh) : (x.modOut n f).shadow = x.shadow := rfl
@[simp] theorem Elem.modOut_loaded (x : Elem) (n : Nat) (f : OutCh → OutCh) : (x.modOut n f).loaded = x.loaded := rfl
@[simp] theorem Elem.modOut_region (x : Elem) (n : Nat) (f : OutCh → OutCh) : (x.modOut n f).region = x.region := rfl
@[simp] theorem Elem.modOut_ins (x : Elem) (n : Nat) (f : OutCh → OutCh) : (x.modOut n f).ins = x.ins := rfl
@[simp] theorem Elem.modOut_outs (x : Elem) (n : Nat) (f : OutCh → OutCh) : (x.modOut n f).outs = x.outs.modify n f := rfl
@[simp] theorem Elem.modOut_ctxs (x : Elem) (n : Nat) (f : OutCh → OutCh) : (x.modOut n f).ctxs = x.ctxs := rfl
@[simp] theorem Elem.modOut_last (x : Elem) (n : Nat) (f : OutCh → OutCh) : (x.modOut n f).last = x.last := rfl
@[simp] theorem Elem.modOut_decided (x : Elem) (n : Nat) (f : OutCh → OutCh) : (x.modOut n f).decided = x.decided := rfl
@[simp] theorem Elem.modOut_barred (x : Elem) (n : Nat) (f : OutCh → OutCh) : (x.modOut n f).barred = x.barred := rfl
@[simp] theorem Elem.modOut_tags (x : Elem) (n : Nat) (f : OutCh → OutCh) : (x.modOut n f).tags = x.tags := rfl
@[simp] theorem Elem.modOut_bounds (x : Elem) (n : Nat) (f : OutCh → OutCh) : (x.modOut n f).bounds = x.bounds := rfl
@[simp] theorem Elem.modOut_tagTime (x : Elem) (n : Nat) (f : OutCh → OutCh) : (x.modOut n f).tagTime = x.tagTime := rfl
@[simp] theorem Elem.modOut_halted (x : Elem) (n : Nat) (f : OutCh → OutCh) : (x.modOut n f).halted = x.halted := rfl
@[simp] theorem Elem.modOut_frozen (x : Elem) (n : Nat) (f : OutCh → OutCh) : (x.modOut n f).frozen = x.frozen := rfl
@[simp] theorem Elem.modOut_drained (x : Elem) (n : Nat) (f : OutCh → OutCh) : (x.modOut n f).drained = x.drained := rfl
@[simp] theorem Elem.modOut_snapped (x : Elem) (n : Nat) (f : OutCh → OutCh) : (x.modOut n f).snapped = x.snapped := rfl
@[simp] theorem Elem.modOut_saved (x : Elem) (n : Nat) (f : OutCh → OutCh) : (x.modOut n f).saved = x.saved := rfl
@[simp] theorem Elem.modOut_notes (x : Elem) (n : Nat) (f : OutCh → OutCh) : (x.modOut n f).notes = x.notes := rfl
@[simp] theorem Elem.modOut_walks (x : Elem) (n : Nat) (f : OutCh → OutCh) : (x.modOut n f).walks = x.walks := rfl
@[simp] theorem Elem.modOut_patched (x : Elem) (n : Nat) (f : OutCh → OutCh) : (x.modOut n f).patched = x.patched := rfl
@[simp] theorem Elem.modOut_fenced (x : Elem) (n : Nat) (f : OutCh → OutCh) : (x.modOut n f).fenced = x.fenced := rfl

end Sys2Proof.Machine
end

