-- ==== Sys2Proof/Laws/Memory.lean ====
section
/-! SUPPORT. What the memory operations do: they keep the canonical form, a byte reads as it was last written, and a write
leaves every other byte alone. -/

namespace Sys2Proof.Machine

theorem memWf_nil : memWf [] := ⟨List.Pairwise.nil, by simp⟩

theorem memWf_tail {c : Host.Cell} {m : List Host.Cell} (h : memWf (c :: m)) : memWf m :=
  ⟨(List.pairwise_cons.mp h.1).2, fun x hx => h.2 x (List.mem_cons_of_mem _ hx)⟩

theorem memWf_cons {c : Host.Cell} {m : List Host.Cell} :
    memWf (c :: m) ↔ (∀ x ∈ m, c.1 < x.1) ∧ c.2 ≠ 0 ∧ memWf m := by
  constructor
  · intro h
    exact ⟨(List.pairwise_cons.mp h.1).1, h.2 c (by simp), memWf_tail h⟩
  · rintro ⟨h1, h2, h3⟩
    refine ⟨List.pairwise_cons.mpr ⟨h1, h3.1⟩, ?_⟩
    intro x hx
    rcases List.mem_cons.mp hx with rfl | hx
    · exact h2
    · exact h3.2 x hx

/-- A filter keeps the canonical form. -/
theorem memWf_filter {m : List Host.Cell} (p : Host.Cell → Bool) (h : memWf m) : memWf (m.filter p) :=
  ⟨h.1.filter p, fun c hc => h.2 c (List.mem_of_mem_filter hc)⟩

/-- A cell of a memory after a put is the new one or one that stood before. -/
theorem mem_memPut {m : List Host.Cell} {a : Nat} {v : Byte} {c : Host.Cell} (h : c ∈ memPut m a v) : c = (a, v) ∨ c ∈ m := by
  induction m with
  | nil =>
    simp only [memPut] at h
    split at h <;> simp_all
  | cons d r ih =>
    obtain ⟨k, w⟩ := d
    simp only [memPut] at h
    split at h
    · split at h <;> simp_all
    · split at h
      · split at h
        · simp_all
        · subst_vars; simp only [List.mem_cons] at h ⊢; tauto
      · rcases List.mem_cons.mp h with rfl | h
        · simp
        · rcases ih h with h | h <;> simp [h]

/-- A put keeps the canonical form. -/
theorem memPut_wf {m : List Host.Cell} (a : Nat) (v : Byte) (h : memWf m) : memWf (memPut m a v) := by
  induction m with
  | nil =>
    simp only [memPut]
    split
    · exact memWf_nil
    · next hv => exact memWf_cons.mpr ⟨by simp, hv, memWf_nil⟩
  | cons d r ih =>
    obtain ⟨k, w⟩ := d
    obtain ⟨h1, h2, h3⟩ := memWf_cons.mp h
    simp only [memPut]
    split
    · next hlt =>
      split
      · exact h
      · next hv =>
        refine memWf_cons.mpr ⟨?_, hv, h⟩
        intro x hx
        rcases List.mem_cons.mp hx with rfl | hx
        · exact hlt
        · exact Nat.lt_trans hlt (h1 x hx)
    · next hge =>
      split
      · next heq =>
        subst heq
        split
        · exact h3
        · next hv => exact memWf_cons.mpr ⟨h1, hv, h3⟩
      · next hne =>
        refine memWf_cons.mpr ⟨?_, h2, ih h3⟩
        intro x hx
        rcases mem_memPut hx with rfl | hx
        · simp only; omega
        · exact h1 x hx

/-- A write of bytes keeps the canonical form. -/
theorem memWrite_wf (b : List Byte) : ∀ {m : List Host.Cell} (a : Nat), memWf m → memWf (memWrite m a b) := by
  induction b with
  | nil => intro m a h; exact h
  | cons x r ih => intro m a h; exact ih _ (memPut_wf a x h)

/-- A byte below every cell reads zero. -/
theorem memGet_below {m : List Host.Cell} {a : Nat} (h : ∀ c ∈ m, a < c.1) : memGet m a = 0 := by
  cases m with
  | nil => rfl
  | cons d r =>
    have := h d (by simp)
    simp only [memGet]
    rw [if_neg (by omega), if_pos this]

/-- A byte reads as it was last put. -/
theorem memGet_memPut_same {m : List Host.Cell} (a : Nat) (v : Byte) (h : memWf m) : memGet (memPut m a v) a = v := by
  induction m with
  | nil => simp only [memPut]; split <;> simp_all [memGet]
  | cons d r ih =>
    obtain ⟨k, w⟩ := d
    obtain ⟨h1, -, h3⟩ := memWf_cons.mp h
    simp only [memPut]
    split
    · next hlt =>
      split
      · next hv => simp only [memGet]; rw [if_neg (by omega), if_pos hlt, hv]
      · simp [memGet]
    · split
      · next hge heq =>
        subst heq
        split
        · next hv => rw [memGet_below h1, hv]
        · simp [memGet]
      · next hge hne =>
        simp only [memGet]
        rw [if_neg (by omega), if_neg hge]
        exact ih h3

/-- A put leaves every other byte alone. -/
theorem memGet_memPut_other {m : List Host.Cell} (a : Nat) (v : Byte) {x : Nat} (hx : x ≠ a) (h : memWf m) :
    memGet (memPut m a v) x = memGet m x := by
  induction m with
  | nil =>
    simp only [memPut]
    split
    · rfl
    · simp only [memGet]; rw [if_neg (Ne.symm hx)]; split <;> rfl
  | cons d r ih =>
    obtain ⟨k, w⟩ := d
    obtain ⟨h1, -, h3⟩ := memWf_cons.mp h
    simp only [memPut]
    split
    · next hlt =>
      split
      · rfl
      · rw [memGet, if_neg (Ne.symm hx)]
        split
        · next hxa => symm; exact memGet_below (by
            intro c hc
            rcases List.mem_cons.mp hc with rfl | hc
            · exact Nat.lt_trans hxa hlt
            · exact Nat.lt_trans (Nat.lt_trans hxa hlt) (h1 c hc))
        · rfl
    · next hge =>
      split
      · next heq =>
        subst heq
        split
        · rw [memGet, if_neg (Ne.symm hx)]
          split
          · next hxa => exact memGet_below (fun c hc => Nat.lt_trans hxa (h1 c hc))
          · rfl
        · simp only [memGet]; rw [if_neg (Ne.symm hx), if_neg (Ne.symm hx)]
      · simp only [memGet]
        split
        · rfl
        · split
          · rfl
          · exact ih h3

/-- A write leaves every byte outside it alone. -/
theorem memGet_memWrite_outside (b : List Byte) : ∀ {m : List Host.Cell} {a x : Nat}, memWf m → (x < a ∨ a + b.length ≤ x) →
    memGet (memWrite m a b) x = memGet m x := by
  induction b with
  | nil => intros; rfl
  | cons y r ih =>
    intro m a x h hx
    have hl : (y :: r).length = r.length + 1 := rfl
    simp only [memWrite]
    rw [ih (memPut_wf a y h) (by omega), memGet_memPut_other a y (by omega) h]

/-- Byte i of a write reads as it was written. -/
theorem memGet_memWrite_inside (b : List Byte) : ∀ {m : List Host.Cell} {a i : Nat}, memWf m → i < b.length →
    memGet (memWrite m a b) (a + i) = b.getD i 0 := by
  induction b with
  | nil => intro m a i _ hi; simp at hi
  | cons y r ih =>
    intro m a i h hi
    simp only [memWrite]
    cases i with
    | zero =>
      rw [memGet_memWrite_outside r (memPut_wf a y h) (by omega)]
      simpa using memGet_memPut_same a y h
    | succ n =>
      have := ih (m := memPut m a y) (a := a + 1) (i := n) (memPut_wf a y h) (by simpa using hi)
      rw [show a + (n + 1) = a + 1 + n by omega, this]
      simp

/-- The canonical form of a state's memory survives a store. -/
theorem State.perform_wf {s : State} (pa : Nat) (b : List Byte) (h : memWf s.mem) : memWf (s.perform pa b).mem := by
  rw [State.perform_mem]; exact memWrite_wf b pa h

/-! ## Writes that nothing waits on -/

theorem foldl_still {α β : Type} {f : β → α → β} {s : β} {l : List α} (h : ∀ x ∈ l, f s x = s) : l.foldl f s = s := by
  induction l with
  | nil => rfl
  | cons x r ih => rw [List.foldl_cons, h x (by simp)]; exact ih fun y hy => h y (by simp [hy])

/-- Where no WAITV waits at a home and no object has a queue, the homes answer a write with nothing (R263, R266). -/
theorem State.react_idle {s : State} (pa n : Nat) (hw : s.waitv = []) (hq : ∀ q ∈ s.sync, q.waiters = []) : s.react pa n = s := by
  have h0 : s.testWaits pa n = s := by simp [State.testWaits, hw]
  have hz : ∀ p, s.waiting p = 0 := by
    intro p
    unfold State.waiting
    split
    · next q h => simp [hq q (List.mem_of_find?_eq_some h)]
    · rfl
  simp only [State.react, h0]
  exact foldl_still fun p _ => by rw [hz p]; rfl

/-- A write of bytes on which nothing waits only performs. -/
theorem State.putBytes_idle {s : State} (pa : Nat) (b : List Byte) (hw : s.waitv = []) (hq : ∀ q ∈ s.sync, q.waiters = []) :
    s.putBytes pa b = s.perform pa b := State.react_idle pa b.length hw hq

/-! ## Poisoned blocks -/

/-- Where no block is poisoned, a reader without a failing path finds what stands in memory (R369). -/
theorem State.found_clean {s : State} (pa : Nat) (b : List Byte) (h : s.poison = []) : s.found pa b = b := by
  apply List.ext_getElem <;> simp [State.found, h]

/-- A double is then read as it stands. -/
theorem State.foundDouble_clean {s : State} (pa : Nat) (h : s.poison = []) : s.foundDouble pa = s.double pa := by
  rw [State.foundDouble, State.found_clean pa _ h]; rfl

/-- Poison is carried from nowhere where there is none. -/
theorem State.carryPoison_clean {s : State} (pa q n : Nat) (h : s.poison = []) : (s.carryPoison pa q n).poison = [] := by
  simp [State.carryPoison, h]

end Sys2Proof.Machine
end

