-- ==== Sys2Proof/Laws/Fire.lean ====
section
/-! SUPPORT. What a fire's step answers: nothing where it is not decided, the trapped state, or the committed state with what its instruction adds. -/

namespace Sys2Proof.Machine

open Sys2Proof.Safety

variable {i : Instr} {s : State} {v : Env}

theorem fireWith_go (sem : Env → Dec) (post : Env → Go → State → State) (h : Decides i s v) {g : Go} (hg : sem v = .go g) :
    fireWith sem post i s = .next (post v g (v.commit g)) := by
  simp [fireWith, h.1, h.2, hg]

theorem fireWith_trap (sem : Env → Dec) (post : Env → Go → State → State) (h : Decides i s v) {t : Trap} {d l a : Nat}
    (hg : sem v = .trap t d l a) : fireWith sem post i s = .next (v.trapped t d l a) := by
  simp [fireWith, h.1, h.2, hg]

theorem fireWith_waits (sem : Env → Dec) (post : Env → Go → State → State) (h : s.env i = some v) (hr : v.ready = false) :
    fireWith sem post i s = .next s := by
  simp [fireWith, h, hr]

theorem fireWith_noEnv (sem : Env → Dec) (post : Env → Go → State → State) (h : s.env i = none) : fireWith sem post i s = .next s := by
  simp [fireWith, h]

theorem fire_go (sem : Env → Dec) (h : Decides i s v) {g : Go} (hg : sem v = .go g) : fire sem i s = .next (v.commit g) :=
  fireWith_go sem _ h hg

theorem fire_trap (sem : Env → Dec) (h : Decides i s v) {t : Trap} {d l a : Nat} (hg : sem v = .trap t d l a) :
    fire sem i s = .next (v.trapped t d l a) :=
  fireWith_trap sem _ h hg

theorem memFire_go (size : Env → Nat) (sem : Env → Dec) (post : Env → Go → State → State) (h : Decides i s v) {g : Go} (hg : sem v = .go g) :
    memFire size sem post i s = .next (post v g (v.commit g)) := by
  simp [memFire, fireWith_go sem post h hg, h.1, h.2, hg]

theorem memFire_trap (size : Env → Nat) (sem : Env → Dec) (post : Env → Go → State → State) (h : Decides i s v) {t : Trap} {d l a : Nat}
    (hg : sem v = .trap t d l a) : memFire size sem post i s = .next (v.boundsRecord t a (size v) (v.trapped t d l a)) := by
  simp [memFire, fireWith_trap sem post h hg, h.1, h.2, hg]

/-- The surroundings of a fire name the instruction, its state and its operands. -/
theorem State.env_fields (h : s.env i = some v) :
    v.s = s ∧ v.e = s.cursor.elem ∧ v.k = s.cursor.ctx ∧ v.j = s.cursor.slot ∧ v.i = i ∧ i.parts = some (v.opc, v.o) ∧
      s.regionOf v.e = some v.g ∧ v.x = s.elem v.e ∧ v.c = s.ctx v.e v.k ∧ v.wide = isWide v.e := by
  simp only [State.env, State.envAt] at h
  split at h
  · rename_i opc o g hp hg
    injection h with h
    subst h
    exact ⟨rfl, rfl, rfl, rfl, rfl, hp, hg, rfl, rfl, rfl⟩
  · cases h

theorem intWidth_cases (m : Nat) (h : m < 4) : intWidth m = 64 ∨ intWidth m = 32 ∨ intWidth m = 16 ∨ intWidth m = 8 := by
  interval_cases m <;> simp [intWidth]

/-- An integer fire gives the lanes of a bit-vector function that agrees with its lane function. -/
theorem intFire_result (mk : Op → Instr) (two : Bool) (lat : Nat → Nat) (fn : Nat → Nat → Nat → Nat → Nat × Bool)
    (f : (n : Nat) → BitVec n → BitVec n → BitVec n → BitVec n) (c : (n : Nat) → BitVec n → BitVec n → Prop)
    (hex : ∀ o s, exec (mk o) s = fire (intSem two lat fn) (mk o) s) (hp : ∀ o, ∃ k, (mk o).parts = some (k, o))
    (hf : ∀ n, (n = 64 ∨ n = 32 ∨ n = 16 ∨ n = 8) → ∀ a b old : BitVec n, f n a b old = BitVec.ofNat n (fn n a.toNat b.toNat old.toNat).1)
    (hc : ∀ n, (n = 64 ∨ n = 32 ∨ n = 16 ∨ n = 8) → ∀ a b old : BitVec n, (fn n a.toNat b.toNat old.toNat).2 = true ↔ c n a b) :
    IntResult mk two lat f c := by
  intro o s v h n k
  have he := State.env_fields h.1
  have ho : v.o = o := by
    obtain ⟨q, hq⟩ := hp o
    have := he.2.2.2.2.2.1
    rw [hq] at this
    simp at this
    exact this.2.symm
  have hn := intWidth_cases o.mode.val o.mode.isLt
  have hlc := laneCount_mul n (by rcases hn with h | h | h | h <;> simp [n, h])
  have hk : k ≤ laneCount n := validOf_le _ _ _ hlc.2
  have hnk : n * k ≤ 512 := le_trans (Nat.mul_le_mul_left _ hk) hlc.1
  let g := fun (l : Nat) =>
    let x := fn n (laneAt v.a.bits.toNat n l) (laneAt v.b.bits.toNat n l) (laneAt v.old.bits.toNat n l)
    ((x.1 % 2 ^ n, x.2, 0) : Nat × Bool × Flags)
  refine ⟨laneVal v.wide n (intFmt v.a.fmt n) ((List.range k).map fun l => (g l).1), (lanewise k g).2.1, ?_, ?_, ?_⟩
  · unfold Goes
    rw [hex]
    refine fire_go _ h ?_
    simp only [intSem, ho, Go.both, lanewise_fst]
    rfl
  · refine laneVal_isLanes v.wide n (intFmt v.a.fmt n) k _ (fun l => (g l).1) hnk (fun l _ => ?_) hk
    rw [hf n hn, lane_toNat, lane_toNat, lane_toNat]
    apply BitVec.eq_of_toNat_eq; simp [g]
  · refine (lanewise_any k g).trans (exists_congr fun l => and_congr_right fun _ => ?_)
    simp only [g]
    rw [← lane_toNat, ← lane_toNat, ← lane_toNat]
    exact hc n hn _ _ _

end Sys2Proof.Machine
end

