-- ==== Sys2Proof/Laws/PerInstr.lean ====
section
/-! SUPPORT. Every constructor of Instr stands where the opcode map puts it: its opcode and operands give it back (R53, R62), and a step that no
word encodes has none. -/

namespace Sys2Proof.Laws.Parts

/-- Opcode and operands of an instruction give the instruction back. -/
def Statement (i : Instr) : Prop := ∀ (c : Nat) (o : Op), i.parts = some (c, o) → mkInstr c o = some i

theorem nop (o : Op) : Statement (.nop o) := by
  rintro c o h; cases h; rfl
theorem pass (o : Op) : Statement (.pass o) := by
  rintro c o h; cases h; rfl
theorem dup (o : Op) : Statement (.dup o) := by
  rintro c o h; cases h; rfl
theorem swap (o : Op) : Statement (.swap o) := by
  rintro c o h; cases h; rfl
theorem gate (o : Op) : Statement (.gate o) := by
  rintro c o h; cases h; rfl
theorem steer (o : Op) : Statement (.steer o) := by
  rintro c o h; cases h; rfl
theorem tagof (o : Op) : Statement (.tagof o) := by
  rintro c o h; cases h; rfl
theorem retag (o : Op) : Statement (.retag o) := by
  rintro c o h; cases h; rfl
theorem iter (o : Op) : Statement (.iter o) := by
  rintro c o h; cases h; rfl
theorem iters (o : Op) : Statement (.iters o) := by
  rintro c o h; cases h; rfl
theorem wave (o : Op) : Statement (.wave o) := by
  rintro c o h; cases h; rfl
theorem ebb (o : Op) : Statement (.ebb o) := by
  rintro c o h; cases h; rfl
theorem halt (o : Op) : Statement (.halt o) := by
  rintro c o h; cases h; rfl
theorem occ (o : Op) : Statement (.occ o) := by
  rintro c o h; cases h; rfl
theorem add (o : Op) : Statement (.add o) := by
  rintro c o h; cases h; rfl
theorem sub (o : Op) : Statement (.sub o) := by
  rintro c o h; cases h; rfl
theorem neg (o : Op) : Statement (.neg o) := by
  rintro c o h; cases h; rfl
theorem mul (o : Op) : Statement (.mul o) := by
  rintro c o h; cases h; rfl
theorem mulh (o : Op) : Statement (.mulh o) := by
  rintro c o h; cases h; rfl
theorem mulhu (o : Op) : Statement (.mulhu o) := by
  rintro c o h; cases h; rfl
theorem mad (o : Op) : Statement (.mad o) := by
  rintro c o h; cases h; rfl
theorem divu (o : Op) : Statement (.divu o) := by
  rintro c o h; cases h; rfl
theorem remu (o : Op) : Statement (.remu o) := by
  rintro c o h; cases h; rfl
theorem div (o : Op) : Statement (.div o) := by
  rintro c o h; cases h; rfl
theorem rem (o : Op) : Statement (.rem o) := by
  rintro c o h; cases h; rfl
theorem addsat (o : Op) : Statement (.addsat o) := by
  rintro c o h; cases h; rfl
theorem subsat (o : Op) : Statement (.subsat o) := by
  rintro c o h; cases h; rfl
theorem abs (o : Op) : Statement (.abs o) := by
  rintro c o h; cases h; rfl
theorem min (o : Op) : Statement (.min o) := by
  rintro c o h; cases h; rfl
theorem max (o : Op) : Statement (.max o) := by
  rintro c o h; cases h; rfl
theorem minu (o : Op) : Statement (.minu o) := by
  rintro c o h; cases h; rfl
theorem maxu (o : Op) : Statement (.maxu o) := by
  rintro c o h; cases h; rfl
theorem and (o : Op) : Statement (.and o) := by
  rintro c o h; cases h; rfl
theorem or (o : Op) : Statement (.or o) := by
  rintro c o h; cases h; rfl
theorem xor (o : Op) : Statement (.xor o) := by
  rintro c o h; cases h; rfl
theorem andn (o : Op) : Statement (.andn o) := by
  rintro c o h; cases h; rfl
theorem orn (o : Op) : Statement (.orn o) := by
  rintro c o h; cases h; rfl
theorem not (o : Op) : Statement (.not o) := by
  rintro c o h; cases h; rfl
theorem addw (o : Op) : Statement (.addw o) := by
  rintro c o h; cases h; rfl
theorem subw (o : Op) : Statement (.subw o) := by
  rintro c o h; cases h; rfl
theorem mulw (o : Op) : Statement (.mulw o) := by
  rintro c o h; cases h; rfl
theorem sextb (o : Op) : Statement (.sextb o) := by
  rintro c o h; cases h; rfl
theorem sexth (o : Op) : Statement (.sexth o) := by
  rintro c o h; cases h; rfl
theorem sextw (o : Op) : Statement (.sextw o) := by
  rintro c o h; cases h; rfl
theorem zextb (o : Op) : Statement (.zextb o) := by
  rintro c o h; cases h; rfl
theorem zexth (o : Op) : Statement (.zexth o) := by
  rintro c o h; cases h; rfl
theorem ceq (o : Op) : Statement (.ceq o) := by
  rintro c o h; cases h; rfl
theorem cne (o : Op) : Statement (.cne o) := by
  rintro c o h; cases h; rfl
theorem clt (o : Op) : Statement (.clt o) := by
  rintro c o h; cases h; rfl
theorem cle (o : Op) : Statement (.cle o) := by
  rintro c o h; cases h; rfl
theorem cltu (o : Op) : Statement (.cltu o) := by
  rintro c o h; cases h; rfl
theorem cleu (o : Op) : Statement (.cleu o) := by
  rintro c o h; cases h; rfl
theorem ctst (o : Op) : Statement (.ctst o) := by
  rintro c o h; cases h; rfl
theorem cmovnz (o : Op) : Statement (.cmovnz o) := by
  rintro c o h; cases h; rfl
theorem cmovz (o : Op) : Statement (.cmovz o) := by
  rintro c o h; cases h; rfl
theorem zextw (o : Op) : Statement (.zextw o) := by
  rintro c o h; cases h; rfl
theorem shl (o : Op) : Statement (.shl o) := by
  rintro c o h; cases h; rfl
theorem shr (o : Op) : Statement (.shr o) := by
  rintro c o h; cases h; rfl
theorem sar (o : Op) : Statement (.sar o) := by
  rintro c o h; cases h; rfl
theorem rol (o : Op) : Statement (.rol o) := by
  rintro c o h; cases h; rfl
theorem ror (o : Op) : Statement (.ror o) := by
  rintro c o h; cases h; rfl
theorem clz (o : Op) : Statement (.clz o) := by
  rintro c o h; cases h; rfl
theorem ctz (o : Op) : Statement (.ctz o) := by
  rintro c o h; cases h; rfl
theorem popc (o : Op) : Statement (.popc o) := by
  rintro c o h; cases h; rfl
theorem brev (o : Op) : Statement (.brev o) := by
  rintro c o h; cases h; rfl
theorem bswap (o : Op) : Statement (.bswap o) := by
  rintro c o h; cases h; rfl
theorem bfx (o : Op) : Statement (.bfx o) := by
  rintro c o h; cases h; rfl
theorem bfi (o : Op) : Statement (.bfi o) := by
  rintro c o h; cases h; rfl
theorem lea (o : Op) : Statement (.lea o) := by
  rintro c o h; cases h; rfl
theorem hash (o : Op) : Statement (.hash o) := by
  rintro c o h; cases h; rfl
theorem draw (o : Op) : Statement (.draw o) := by
  rintro c o h; cases h; rfl
theorem fadd (o : Op) : Statement (.fadd o) := by
  rintro c o h; cases h; rfl
theorem fsub (o : Op) : Statement (.fsub o) := by
  rintro c o h; cases h; rfl
theorem fmul (o : Op) : Statement (.fmul o) := by
  rintro c o h; cases h; rfl
theorem fma (o : Op) : Statement (.fma o) := by
  rintro c o h; cases h; rfl
theorem fms (o : Op) : Statement (.fms o) := by
  rintro c o h; cases h; rfl
theorem fnma (o : Op) : Statement (.fnma o) := by
  rintro c o h; cases h; rfl
theorem fmin (o : Op) : Statement (.fmin o) := by
  rintro c o h; cases h; rfl
theorem fmax (o : Op) : Statement (.fmax o) := by
  rintro c o h; cases h; rfl
theorem fabs (o : Op) : Statement (.fabs o) := by
  rintro c o h; cases h; rfl
theorem fneg (o : Op) : Statement (.fneg o) := by
  rintro c o h; cases h; rfl
theorem fcopysign (o : Op) : Statement (.fcopysign o) := by
  rintro c o h; cases h; rfl
theorem fceq (o : Op) : Statement (.fceq o) := by
  rintro c o h; cases h; rfl
theorem fclt (o : Op) : Statement (.fclt o) := by
  rintro c o h; cases h; rfl
theorem fcle (o : Op) : Statement (.fcle o) := by
  rintro c o h; cases h; rfl
theorem fcun (o : Op) : Statement (.fcun o) := by
  rintro c o h; cases h; rfl
theorem fclass (o : Op) : Statement (.fclass o) := by
  rintro c o h; cases h; rfl
theorem frint (o : Op) : Statement (.frint o) := by
  rintro c o h; cases h; rfl
theorem ffloor (o : Op) : Statement (.ffloor o) := by
  rintro c o h; cases h; rfl
theorem fceil (o : Op) : Statement (.fceil o) := by
  rintro c o h; cases h; rfl
theorem ftrunc (o : Op) : Statement (.ftrunc o) := by
  rintro c o h; cases h; rfl
theorem fexp2f (o : Op) : Statement (.fexp2f o) := by
  rintro c o h; cases h; rfl
theorem fldexp (o : Op) : Statement (.fldexp o) := by
  rintro c o h; cases h; rfl
theorem fgetexp (o : Op) : Statement (.fgetexp o) := by
  rintro c o h; cases h; rfl
theorem fgetmant (o : Op) : Statement (.fgetmant o) := by
  rintro c o h; cases h; rfl
theorem frcp (o : Op) : Statement (.frcp o) := by
  rintro c o h; cases h; rfl
theorem frsq (o : Op) : Statement (.frsq o) := by
  rintro c o h; cases h; rfl
theorem flog2f (o : Op) : Statement (.flog2f o) := by
  rintro c o h; cases h; rfl
theorem cvt (o : Op) : Statement (.cvt o) := by
  rintro c o h; cases h; rfl
theorem cvts (o : Op) : Statement (.cvts o) := by
  rintro c o h; cases h; rfl
theorem cvti (o : Op) : Statement (.cvti o) := by
  rintro c o h; cases h; rfl
theorem cvtit (o : Op) : Statement (.cvtit o) := by
  rintro c o h; cases h; rfl
theorem cvtf (o : Op) : Statement (.cvtf o) := by
  rintro c o h; cases h; rfl
theorem cvtfu (o : Op) : Statement (.cvtfu o) := by
  rintro c o h; cases h; rfl
theorem pack (o : Op) : Statement (.pack o) := by
  rintro c o h; cases h; rfl
theorem unpack (o : Op) : Statement (.unpack o) := by
  rintro c o h; cases h; rfl
theorem scale (o : Op) : Statement (.scale o) := by
  rintro c o h; cases h; rfl
theorem fmtof (o : Op) : Statement (.fmtof o) := by
  rintro c o h; cases h; rfl
theorem vbcast (o : Op) : Statement (.vbcast o) := by
  rintro c o h; cases h; rfl
theorem vredadd (o : Op) : Statement (.vredadd o) := by
  rintro c o h; cases h; rfl
theorem vredmax (o : Op) : Statement (.vredmax o) := by
  rintro c o h; cases h; rfl
theorem vredmin (o : Op) : Statement (.vredmin o) := by
  rintro c o h; cases h; rfl
theorem vargmax (o : Op) : Statement (.vargmax o) := by
  rintro c o h; cases h; rfl
theorem vscan (o : Op) : Statement (.vscan o) := by
  rintro c o h; cases h; rfl
theorem vperm (o : Op) : Statement (.vperm o) := by
  rintro c o h; cases h; rfl
theorem vslide (o : Op) : Statement (.vslide o) := by
  rintro c o h; cases h; rfl
theorem vextr (o : Op) : Statement (.vextr o) := by
  rintro c o h; cases h; rfl
theorem vins (o : Op) : Statement (.vins o) := by
  rintro c o h; cases h; rfl
theorem vdot (o : Op) : Statement (.vdot o) := by
  rintro c o h; cases h; rfl
theorem vmask (o : Op) : Statement (.vmask o) := by
  rintro c o h; cases h; rfl
theorem vcompress (o : Op) : Statement (.vcompress o) := by
  rintro c o h; cases h; rfl
theorem vlaneid (o : Op) : Statement (.vlaneid o) := by
  rintro c o h; cases h; rfl
theorem ld (o : Op) : Statement (.ld o) := by
  rintro c o h; cases h; rfl
theorem st (o : Op) : Statement (.st o) := by
  rintro c o h; cases h; rfl
theorem ldc (o : Op) : Statement (.ldc o) := by
  rintro c o h; cases h; rfl
theorem stc (o : Op) : Statement (.stc o) := by
  rintro c o h; cases h; rfl
theorem cnop (o : Op) : Statement (.cnop o) := by
  rintro c o h; cases h; rfl
theorem lds (o : Op) : Statement (.lds o) := by
  rintro c o h; cases h; rfl
theorem sts (o : Op) : Statement (.sts o) := by
  rintro c o h; cases h; rfl
theorem aadd (o : Op) : Statement (.aadd o) := by
  rintro c o h; cases h; rfl
theorem amin (o : Op) : Statement (.amin o) := by
  rintro c o h; cases h; rfl
theorem amax (o : Op) : Statement (.amax o) := by
  rintro c o h; cases h; rfl
theorem aand (o : Op) : Statement (.aand o) := by
  rintro c o h; cases h; rfl
theorem aor (o : Op) : Statement (.aor o) := by
  rintro c o h; cases h; rfl
theorem axor (o : Op) : Statement (.axor o) := by
  rintro c o h; cases h; rfl
theorem axchg (o : Op) : Statement (.axchg o) := by
  rintro c o h; cases h; rfl
theorem acas (o : Op) : Statement (.acas o) := by
  rintro c o h; cases h; rfl
theorem afadd (o : Op) : Statement (.afadd o) := by
  rintro c o h; cases h; rfl
theorem pref (o : Op) : Statement (.pref o) := by
  rintro c o h; cases h; rfl
theorem bounds (o : Op) : Statement (.bounds o) := by
  rintro c o h; cases h; rfl
theorem achn (o : Op) : Statement (.achn o) := by
  rintro c o h; cases h; rfl
theorem acq (o : Op) : Statement (.acq o) := by
  rintro c o h; cases h; rfl
theorem acqs (o : Op) : Statement (.acqs o) := by
  rintro c o h; cases h; rfl
theorem rel (o : Op) : Statement (.rel o) := by
  rintro c o h; cases h; rfl
theorem fence (o : Op) : Statement (.fence o) := by
  rintro c o h; cases h; rfl
theorem waitv (o : Op) : Statement (.waitv o) := by
  rintro c o h; cases h; rfl
theorem notify (o : Op) : Statement (.notify o) := by
  rintro c o h; cases h; rfl
theorem park (o : Op) : Statement (.park o) := by
  rintro c o h; cases h; rfl
theorem bar (o : Op) : Statement (.bar o) := by
  rintro c o h; cases h; rfl
theorem arrive (o : Op) : Statement (.arrive o) := by
  rintro c o h; cases h; rfl
theorem taskdone (o : Op) : Statement (.taskdone o) := by
  rintro c o h; cases h; rfl
theorem launch (o : Op) : Statement (.launch o) := by
  rintro c o h; cases h; rfl
theorem mload (o : Op) : Statement (.mload o) := by
  rintro c o h; cases h; rfl
theorem mswap (o : Op) : Statement (.mswap o) := by
  rintro c o h; cases h; rfl
theorem mstream (o : Op) : Statement (.mstream o) := by
  rintro c o h; cases h; rfl
theorem mmode (o : Op) : Statement (.mmode o) := by
  rintro c o h; cases h; rfl
theorem mdrain (o : Op) : Statement (.mdrain o) := by
  rintro c o h; cases h; rfl
theorem mclr (o : Op) : Statement (.mclr o) := by
  rintro c o h; cases h; rfl
theorem rptset (o : Op) : Statement (.rptset o) := by
  rintro c o h; cases h; rfl
theorem rptend (o : Op) : Statement (.rptend o) := by
  rintro c o h; cases h; rfl
theorem cpy (o : Op) : Statement (.cpy o) := by
  rintro c o h; cases h; rfl
theorem cpyr (o : Op) : Statement (.cpyr o) := by
  rintro c o h; cases h; rfl
theorem cpyg (o : Op) : Statement (.cpyg o) := by
  rintro c o h; cases h; rfl
theorem cpys (o : Op) : Statement (.cpys o) := by
  rintro c o h; cases h; rfl
theorem cpym (o : Op) : Statement (.cpym o) := by
  rintro c o h; cases h; rfl
theorem publish (o : Op) : Statement (.publish o) := by
  rintro c o h; cases h; rfl
theorem freed (o : Op) : Statement (.freed o) := by
  rintro c o h; cases h; rfl
theorem coll (o : Op) : Statement (.coll o) := by
  rintro c o h; cases h; rfl
theorem collarg (o : Op) : Statement (.collarg o) := by
  rintro c o h; cases h; rfl
theorem cpyq (o : Op) : Statement (.cpyq o) := by
  rintro c o h; cases h; rfl
theorem sth (o : Op) : Statement (.sth o) := by
  rintro c o h; cases h; rfl
theorem stm (o : Op) : Statement (.stm o) := by
  rintro c o h; cases h; rfl
theorem stt (o : Op) : Statement (.stt o) := by
  rintro c o h; cases h; rfl
theorem stfeed (o : Op) : Statement (.stfeed o) := by
  rintro c o h; cases h; rfl
theorem collapse (o : Op) : Statement (.collapse o) := by
  rintro c o h; cases h; rfl
theorem accept (o : Op) : Statement (.accept o) := by
  rintro c o h; cases h; rfl
theorem gmask (o : Op) : Statement (.gmask o) := by
  rintro c o h; cases h; rfl
theorem topn (o : Op) : Statement (.topn o) := by
  rintro c o h; cases h; rfl
theorem tokrec (o : Op) : Statement (.tokrec o) := by
  rintro c o h; cases h; rfl
theorem hallmark (o : Op) : Statement (.hallmark o) := by
  rintro c o h; cases h; rfl
theorem kvfind (o : Op) : Statement (.kvfind o) := by
  rintro c o h; cases h; rfl
theorem kvins (o : Op) : Statement (.kvins o) := by
  rintro c o h; cases h; rfl
theorem posadv (o : Op) : Statement (.posadv o) := by
  rintro c o h; cases h; rfl
theorem logrec (o : Op) : Statement (.logrec o) := by
  rintro c o h; cases h; rfl
theorem pqexp (o : Op) : Statement (.pqexp o) := by
  rintro c o h; cases h; rfl
theorem trap (o : Op) : Statement (.trap o) := by
  rintro c o h; cases h; rfl
theorem brk (o : Op) : Statement (.brk o) := by
  rintro c o h; cases h; rfl
theorem rdsr (o : Op) : Statement (.rdsr o) := by
  rintro c o h; cases h; rfl
theorem wrsr (o : Op) : Statement (.wrsr o) := by
  rintro c o h; cases h; rfl
theorem probe (o : Op) : Statement (.probe o) := by
  rintro c o h; cases h; rfl
theorem tick (o : Op) : Statement (.tick o) := by
  rintro c o h; cases h; rfl
theorem fret (o : Op) : Statement (.fret o) := by
  rintro c o h; cases h; rfl
theorem yield (o : Op) : Statement (.yield o) := by
  rintro c o h; cases h; rfl
theorem qtailWrite (q : Nat) (v : Word) : Statement (.qtailWrite q v) := by
  intro c o h; cases h
theorem queueEnable (q : Nat) (v : Word) : Statement (.queueEnable q v) := by
  intro c o h; cases h
theorem queueDisable (q : Nat) (v : Word) : Statement (.queueDisable q v) := by
  intro c o h; cases h
theorem qstatClear (q : Nat) (v : Word) : Statement (.qstatClear q v) := by
  intro c o h; cases h
theorem xresolve (v : Word) : Statement (.xresolve v) := by
  intro c o h; cases h
theorem xinv (v : Word) : Statement (.xinv v) := by
  intro c o h; cases h
theorem migrationStart (v : Word) : Statement (.migrationStart v) := by
  intro c o h; cases h
theorem xmigstClear (v : Word) : Statement (.xmigstClear v) := by
  intro c o h; cases h
theorem xack (v : Word) : Statement (.xack v) := by
  intro c o h; cases h
theorem ringCountWrite (off : Nat) (v : Word) : Statement (.ringCountWrite off v) := by
  intro c o h; cases h
theorem registerWrite (off : Nat) (v : Word) : Statement (.registerWrite off v) := by
  intro c o h; cases h
theorem eccRetry (pa : Nat) (ok : Bool) : Statement (.eccRetry pa ok) := by
  intro c o h; cases h
theorem linkCrcRetry (j : Nat) (ok : Bool) : Statement (.linkCrcRetry j ok) := by
  intro c o h; cases h
theorem slotParityRefetch (e k : Nat) (ok : Bool) : Statement (.slotParityRefetch e k ok) := by
  intro c o h; cases h
theorem dataLost (e : Nat) : Statement (.dataLost e) := by
  intro c o h; cases h
theorem controlStoreWrite (e : Nat) (w : StoreWrite) : Statement (.controlStoreWrite e w) := by
  intro c o h; cases h
theorem frrel (v : Word) : Statement (.frrel v) := by
  intro c o h; cases h
theorem stopArm (v : Word) : Statement (.stopArm v) := by
  intro c o h; cases h
theorem stopResume : Statement .stopResume := by
  intro c o h; cases h
theorem dbgprobeGo (v : Word) : Statement (.dbgprobeGo v) := by
  intro c o h; cases h
theorem brkresContinue : Statement .brkresContinue := by
  intro c o h; cases h
theorem brkresAbort : Statement .brkresAbort := by
  intro c o h; cases h
theorem hostMemWrite (pa : Nat) (bytes : List Byte) : Statement (.hostMemWrite pa bytes) := by
  intro c o h; cases h
theorem hostMemRead (pa n : Nat) : Statement (.hostMemRead pa n) := by
  intro c o h; cases h
theorem coreAccess (core : Nat) (c : CoreReq) : Statement (.coreAccess core c) := by
  intro c o h; cases h
theorem coreWakeStore (core w : Nat) (v : Word) : Statement (.coreWakeStore core w v) := by
  intro c o h; cases h
theorem coreAmo (core : Nat) (c : CoreReq) : Statement (.coreAmo core c) := by
  intro c o h; cases h
theorem flitCollectiveData (j : Nat) (x : Flit) : Statement (.flitCollectiveData j x) := by
  intro c o h; cases h
theorem flitTick (j : Nat) (x : Flit) : Statement (.flitTick j x) := by
  intro c o h; cases h
theorem flitControl (j : Nat) (x : Flit) : Statement (.flitControl j x) := by
  intro c o h; cases h
theorem flitNak (j : Nat) (x : Flit) : Statement (.flitNak j x) := by
  intro c o h; cases h
theorem partitionRecovery (d : Nat) : Statement (.partitionRecovery d) := by
  intro c o h; cases h
theorem firmwareStage : Statement .firmwareStage := by
  intro c o h; cases h
theorem ringEnSet (off : Nat) (v : Word) : Statement (.ringEnSet off v) := by
  intro c o h; cases h
theorem powerGate (t : Nat) (off : Bool) : Statement (.powerGate t off) := by
  intro c o h; cases h
theorem flitIdle (j : Nat) (x : Flit) : Statement (.flitIdle j x) := by
  intro c o h; cases h
theorem reset : Statement .reset := by
  intro c o h; cases h
theorem fireComplete (f : Nat) : Statement (.fireComplete f) := by
  intro c o h; cases h
theorem tokenArrival (e c : Nat) : Statement (.tokenArrival e c) := by
  intro c o h; cases h
theorem routeToken (r p : Nat) : Statement (.routeToken r p) := by
  intro c o h; cases h
theorem advanceWord (r p : Nat) : Statement (.advanceWord r p) := by
  intro c o h; cases h
theorem swageRepack (r p : Nat) : Statement (.swageRepack r p) := by
  intro c o h; cases h
theorem feedDeliver (e c : Nat) : Statement (.feedDeliver e c) := by
  intro c o h; cases h
theorem sinkStore (e c : Nat) : Statement (.sinkStore e c) := by
  intro c o h; cases h
theorem soloQuiet (g : Nat) : Statement (.soloQuiet g) := by
  intro c o h; cases h
theorem ebbDrain (e c : Nat) : Statement (.ebbDrain e c) := by
  intro c o h; cases h
theorem elementDrained (e : Nat) : Statement (.elementDrained e) := by
  intro c o h; cases h
theorem tileSwap (t : Nat) : Statement (.tileSwap t) := by
  intro c o h; cases h
theorem haltComplete (g : Nat) : Statement (.haltComplete g) := by
  intro c o h; cases h
theorem launchDecode : Statement .launchDecode := by
  intro c o h; cases h
theorem preloadRelease (l : Nat) : Statement (.preloadRelease l) := by
  intro c o h; cases h
theorem launchPlace (l : Nat) : Statement (.launchPlace l) := by
  intro c o h; cases h
theorem coldLoadEnd (l : Nat) : Statement (.coldLoadEnd l) := by
  intro c o h; cases h
theorem followOnLoad (l : Nat) : Statement (.followOnLoad l) := by
  intro c o h; cases h
theorem invocationBoundary (g : Nat) : Statement (.invocationBoundary g) := by
  intro c o h; cases h
theorem launchComplete (g : Nat) : Statement (.launchComplete g) := by
  intro c o h; cases h
theorem budgetExpiry (g : Nat) : Statement (.budgetExpiry g) := by
  intro c o h; cases h
theorem quiescentIncomplete (g : Nat) : Statement (.quiescentIncomplete g) := by
  intro c o h; cases h
theorem hang (g : Nat) : Statement (.hang g) := by
  intro c o h; cases h
theorem addressTranslate (a : Nat) : Statement (.addressTranslate a) := by
  intro c o h; cases h
theorem faultHoldExpiry (a : Nat) : Statement (.faultHoldExpiry a) := by
  intro c o h; cases h
theorem xinvDone : Statement .xinvDone := by
  intro c o h; cases h
theorem migrationCopy : Statement .migrationCopy := by
  intro c o h; cases h
theorem migrationDone : Statement .migrationDone := by
  intro c o h; cases h
theorem storeArrival (a : Nat) : Statement (.storeArrival a) := by
  intro c o h; cases h
theorem atomicPerform (a : Nat) : Statement (.atomicPerform a) := by
  intro c o h; cases h
theorem memoryReply (a : Nat) : Statement (.memoryReply a) := by
  intro c o h; cases h
theorem boundsLoaded (a : Nat) : Statement (.boundsLoaded a) := by
  intro c o h; cases h
theorem syncRequest (a : Nat) : Statement (.syncRequest a) := by
  intro c o h; cases h
theorem relUpdate (a : Nat) : Statement (.relUpdate a) := by
  intro c o h; cases h
theorem waitvTest (a : Nat) : Statement (.waitvTest a) := by
  intro c o h; cases h
theorem waitvRetry (a : Nat) : Statement (.waitvRetry a) := by
  intro c o h; cases h
theorem barrierOpen (g l i : Nat) : Statement (.barrierOpen g l i) := by
  intro c o h; cases h
theorem chainArrival (a : Nat) : Statement (.chainArrival a) := by
  intro c o h; cases h
theorem chainRelease (g c : Nat) : Statement (.chainRelease g c) := by
  intro c o h; cases h
theorem gapStall (g c : Nat) : Statement (.gapStall g c) := by
  intro c o h; cases h
theorem unitCommandAccept (f : Nat) : Statement (.unitCommandAccept f) := by
  intro c o h; cases h
theorem weightLoadEnd (n : Nat) : Statement (.weightLoadEnd n) := by
  intro c o h; cases h
theorem planeSwap (n : Nat) : Statement (.planeSwap n) := by
  intro c o h; cases h
theorem vectorStart (n : Nat) : Statement (.vectorStart n) := by
  intro c o h; cases h
theorem rowWrite (n : Nat) : Statement (.rowWrite n) := by
  intro c o h; cases h
theorem mdrainEmit (n : Nat) : Statement (.mdrainEmit n) := by
  intro c o h; cases h
theorem repeatCapture (n p : Nat) : Statement (.repeatCapture n p) := by
  intro c o h; cases h
theorem spillReturn (n : Nat) : Statement (.spillReturn n) := by
  intro c o h; cases h
theorem copyCommandStart (n : Nat) : Statement (.copyCommandStart n) := by
  intro c o h; cases h
theorem copyTile (n : Nat) : Statement (.copyTile n) := by
  intro c o h; cases h
theorem copyComplete (n : Nat) : Statement (.copyComplete n) := by
  intro c o h; cases h
theorem retiredFramePost (d : Nat) : Statement (.retiredFramePost d) := by
  intro c o h; cases h
theorem collectiveRun (d grp : Nat) : Statement (.collectiveRun d grp) := by
  intro c o h; cases h
theorem collapseMaskGrant (f : Nat) : Statement (.collapseMaskGrant f) := by
  intro c o h; cases h
theorem collapseDeadline (f : Nat) : Statement (.collapseDeadline f) := by
  intro c o h; cases h
theorem cutStart (g : Nat) : Statement (.cutStart g) := by
  intro c o h; cases h
theorem elementSnapshot (e : Nat) : Statement (.elementSnapshot e) := by
  intro c o h; cases h
theorem inputClose (e c : Nat) : Statement (.inputClose e c) := by
  intro c o h; cases h
theorem cutComplete (g : Nat) : Statement (.cutComplete g) := by
  intro c o h; cases h
theorem faultDisposition (rec disp : Nat) : Statement (.faultDisposition rec disp) := by
  intro c o h; cases h
theorem preempt (l : Nat) : Statement (.preempt l) := by
  intro c o h; cases h
theorem restore (l : Nat) : Statement (.restore l) := by
  intro c o h; cases h
theorem clockGate (t : Nat) : Statement (.clockGate t) := by
  intro c o h; cases h
theorem tileWake (t : Nat) : Statement (.tileWake t) := by
  intro c o h; cases h
theorem stop : Statement .stop := by
  intro c o h; cases h
theorem criticalPathWalk (e : Nat) : Statement (.criticalPathWalk e) := by
  intro c o h; cases h
theorem hostWindowAccess (a : Nat) : Statement (.hostWindowAccess a) := by
  intro c o h; cases h
theorem coreAccessTimeout (core : Nat) : Statement (.coreAccessTimeout core) := by
  intro c o h; cases h
theorem tickMasterLoss : Statement .tickMasterLoss := by
  intro c o h; cases h
theorem powerUp : Statement .powerUp := by
  intro c o h; cases h
theorem attestation : Statement .attestation := by
  intro c o h; cases h
theorem tickFlitSend : Statement .tickFlitSend := by
  intro c o h; cases h

end Sys2Proof.Laws.Parts
end

