-- ==== Sys2Proof/Tests/Slice0.lean ====
section
/-! SUPPORT. The tests: words written out from the encodings of the spec, ill-formed words for each check, single steps whose results the spec gives,
and for each statement concrete states that meet its hypotheses. -/

namespace Sys2Proof.Tests

open Sys2Proof.Machine Sys2Proof.Safety

set_option Elab.async false

/-! ## Small states -/

/-- A machine whose next step decides the word w, with literals, and its region, element and context c0 changed. -/
def setup (w : Word32) (lits : List (Word × Nat)) (fr : Region → Region := id) (fe : Elem → Elem := id) (fc : Ctx → Ctx := id) : State :=
  let s := State.reset.holding w
  { s with
    regions := s.regions.map fr
    elems := s.elems.map fun p => (p.1, fe { p.2 with
      active := { p.2.active with lits := lits ++ List.replicate (8 - lits.length) (0, 0) }
      ctxs := p.2.ctxs.mapIdx fun n c => if n = 0 then fc c else c }) }

/-- Whether the next decision of s is of a fire whose surroundings have a property. -/
def decided (s : State) (p : Env → Bool) : Bool :=
  match s.decider with
  | some c =>
    match s.slotInstr c.elem c.slot with
    | some i => (match ({ s with cursor := c }).env i with | some v => v.ready && p v | none => false)
    | none => false
  | none => false

/-- A decision that is found is one of the statements' decisions, with its property. -/
theorem exists_decides {s : State} {p : Env → Bool} (h : decided s p = true) :
    ∃ (i : Instr) (t : State) (v : Env), Decides i t v ∧ p v = true := by
  unfold decided at h
  repeat (split at h <;> try cases h)
  rename_i v hv
  simp only [Bool.and_eq_true] at h
  exact ⟨_, _, v, ⟨hv, h.1⟩, h.2⟩

/-- A word with the values and format codes of literals k0 and k1, and a property of its surroundings. -/
abbrev Case := Word32 × (Word × Nat) × (Word × Nat) × (Env → Bool)

/-- Each case is decided next, and its surroundings have their property. -/
def hit (l : List Case) : Bool := l.all fun c => decided (setup c.1 [c.2.1, c.2.2.1]) c.2.2.2

/-- Words are decided with values a and b of one format code. -/
def hitAll (l : List Word32) (a b : Word) (f : Nat) : Bool := hit (l.map fun w => (w, (a, f), (b, f), fun _ => true))

/-- What the next step of s leaves has a property. -/
def after (s : State) (p : State → Bool) : Bool := match step s with | .next t => p t | _ => false

/-- The result of the fire that the next step of s decides. -/
def firing (s : State) (p : Result → Bool) : Bool := after s fun t => match t.flights with | [f] => p f.res | _ => false

/-- The record that the next step of s leaves: its code. -/
def trapping (s : State) (code : Nat) : Bool := after s fun t => t.flights == [] && t.faults.records.any fun r => r.code == code

/-! ## Words of the encodings -/
theorem test_decode_add : decode false false false false 0x10020300 = .ok (.add ⟨.d 0, .head 0, .d 0, .none, 0, 0⟩) := by decide
theorem test_decode_swap : decode false false false false 0x034D0640 = .ok (.swap ⟨.head 1, .zero, .d 1, .chan 1, 0, 0⟩) := by decide
theorem test_decode_iter : decode false false false false 0x0803022C = .ok (.iter ⟨.d 0, .lit 0, .d 0, .chan 0, 11, 0⟩) := by decide
theorem test_decode_divu : decode false false false false 0x17634A00 = .ok (.divu ⟨.lit 0, .lit 1, .d 2, .chan 0, 0, 0⟩) := by decide
theorem test_decode_cltu : decode false false false false 0x344BF301 = .ok (.cltu ⟨.head 1, .lit 3, .none, .none, 0, 1⟩) := by decide
theorem test_decode_lea : decode false false false false 0x4C0B0B0C = .ok (.lea ⟨.d 1, .lit 0, .d 2, .none, 3, 0⟩) := by decide
theorem test_decode_fmtof : decode false false false false 0x790D071C = .ok (.fmtof ⟨.d 1, .zero, .d 1, .none, 7, 0⟩) := by decide
theorem test_decode_vredadd : decode true true false false 0x81452301 = .ok (.vredadd ⟨.head 0, .zero, .chan 0, .none, 0, 1⟩) := by decide
theorem test_decode_vdot : decode true true false false 0x8A430205 = .ok (.vdot ⟨.head 0, .lit 0, .d 0, .chan 0, 1, 1⟩) := by decide
theorem test_decode_ld : decode false false false false 0x900D2702 = .ok (.ld ⟨.d 1, .zero, .chan 1, .none, 0, 2⟩) := by decide
theorem test_decode_ldc : decode false false false false 0x9215270C = .ok (.ldc ⟨.d 2, .zero, .chan 1, .none, 3, 0⟩) := by decide
theorem test_decode_stc : decode false false false false 0x93193308 = .ok (.stc ⟨.d 3, .d 4, .none, .none, 2, 0⟩) := by decide
theorem test_decode_cnop : decode false false false false 0x94A53304 = .ok (.cnop ⟨.zero, .zero, .none, .none, 1, 0⟩) := by decide
theorem test_decode_aadd : decode false false false false 0x97216B01 = .ok (.aadd ⟨.d 4, .d 5, .chan 2, .none, 0, 1⟩) := by decide
theorem test_decode_acq : decode false false false false 0xB0634700 = .ok (.acq ⟨.lit 0, .lit 1, .d 1, .none, 0, 0⟩) := by decide
theorem test_decode_bar : decode false false false false 0xB76D0B00 = .ok (.bar ⟨.lit 1, .zero, .d 2, .none, 0, 0⟩) := by decide
theorem test_decode_mstream : decode false false false false 0xC2236B00 = .ok (.mstream ⟨.d 4, .lit 1, .chan 2, .none, 0, 0⟩) := by decide
theorem test_decode_cpy : decode false false false false 0xD0637300 = .ok (.cpy ⟨.lit 0, .lit 1, .none, .none, 0, 0⟩) := by decide
theorem test_decode_collapse : decode false false false false 0xE4634F00 = .ok (.collapse ⟨.lit 0, .lit 1, .d 3, .none, 0, 0⟩) := by decide
theorem test_decode_stt : decode false false false false 0xE2137300 = .ok (.stt ⟨.d 2, .lit 1, .none, .none, 0, 0⟩) := by decide
theorem test_decode_wrsr : decode false false false false 0xF360D700 = .ok (.wrsr ⟨.lit 0, .d 3, .d 5, .none, 0, 0⟩) := by decide
theorem test_decode_tick : decode false false false false 0xF5A50300 = .ok (.tick ⟨.zero, .zero, .d 0, .none, 0, 0⟩) := by decide

/-! ## Words that the checks of R68 refuse -/

/-- Opcode 0x0F is assigned to no instruction. -/
theorem test_refuses_opcode : decode false false false false 0x0FA53300 = .error .badOp := by decide
/-- VREDADD stands in wide elements only. -/
theorem test_refuses_kind : decode false false false false 0x81452301 = .error .badKind := by decide
/-- XD1 beside a destination channel. -/
theorem test_refuses_update : decode false false true false 0x902D2B01 = .error .badUpd := by decide
/-- NEG has no source B; its B names k0. -/
theorem test_refuses_source : decode false false false false 0x12630300 = .error .badSrc := by decide
/-- ADD with destination code 13. -/
theorem test_refuses_destination : decode false false false false 0x10637700 = .error .badDst := by decide
/-- NOP defines MODE 0 only. -/
theorem test_refuses_mode : decode false false false false 0x00A53301 = .error .badMode := by decide
/-- A tag action without a channel destination. -/
theorem test_refuses_tag : decode false false false false 0x10634304 = .error .badTag := by decide
/-- CVT into the integer code 1. -/
theorem test_refuses_format : decode false false false false 0x70650304 = .error .badFmt := by decide
/-- Tag action 4 would emit a MARK. -/
theorem test_refuses_mark : decode false false false false 0x10636310 = .error .markEmit := by decide
/-- The same terms are not well formed. -/
theorem test_illFormed_source : (Instr.add ⟨.lane, .zero, .d 0, .d 1, 9, 0⟩).wellFormed false false = false := by decide

/-! ## Decisions that meet the hypotheses of the statements about fires -/

/-- Both tests of GATE, STEER and RETAG. -/
theorem witness_StreamMoves : hit
  [(0x00A53300, (0, 0), (1, 0), fun _ => true),
   (0x01650300, (0, 0), (1, 0), fun _ => true),
   (0x02650040, (0, 0), (1, 0), fun _ => true),
   (0x03634040, (0, 0), (1, 0), fun _ => true),
   (0x04634300, (0, 0), (1, 0), fun v => v.b.bits != 0),
   (0x04634300, (0, 0), (0, 0), fun v => v.b.bits == 0),
   (0x05634040, (0, 0), (1, 0), fun v => v.b.bits != 0),
   (0x05634040, (0, 0), (0, 0), fun v => v.b.bits == 0),
   (0x07634240, (0, 0), (3, 0), fun v => v.b.bits.toNat % 8 != 4),
   (0x07634240, (0, 0), (4, 0), fun v => v.b.bits.toNat % 8 == 4)] = true := by decide +kernel

/-- ITER and ITERS short of the bound and at it, and with a step of zero. -/
theorem witness_CountsLoops : hit
  [(0x08634040, (0, 0), (2, 0), fun _ => true),
   (0x08634040, (1, 0), (2, 0), fun _ => true),
   (0x09634040, (0, 0), (0x100000002, 0), fun _ => true),
   (0x09634040, (1, 0), (0x100000002, 0), fun _ => true),
   (0x09634040, (1, 0), (2, 0), fun _ => true)] = true := by decide +kernel

/-- WAVE, OCC and EBB. -/
theorem witness_WavesTagsOccupancy : hit
  [(0x0A634300, (0, 0), (1, 0), fun _ => true),
   (0x0DA50040, (0, 0), (1, 0), fun _ => true),
   (0x0BA52300, (0, 0), (1, 0), fun _ => true)] = true := by decide +kernel

/-- TAGOF of a head tagged 7, and of one tagged 0. -/
theorem witness_TagOf : ([7, 0] : List Nat).all (fun k =>
    decided (setup 0x06450040 [] id fun x => { x with ins := x.ins.map fun c => { c with q := [{ tag := k }] } }) fun v => v.aTag == some k) = true := by decide +kernel

/-- A HALT in a region that no HALT has ended. -/
theorem witness_HaltsElement : hit
  [(0x0C653300, (0, 0), (1, 0), fun v => !v.g.solo && v.g.halt == none)] = true := by decide +kernel

/-- An element that has halted, with a fire at the cursor. -/
theorem witness_HaltsElement_halted :
    (let s := setup 0x0C653300 [] id fun x => { x with halted := true }
     (s.elem 0).halted && (match s.env (.halt ⟨.lit 0, .zero, .none, .none, 0, 0⟩) with | some v => v.e == 0 | none => false)) = true := by decide +kernel

/-- Integer instructions. -/
theorem witness_IntegerResults : hitAll
  [0x10634040, 0x11634040, 0x12650040, 0x13634040, 0x14634040, 0x15634040, 0x16634040, 0x1B634040, 0x1C634040, 0x1D650040, 0x1E634040, 0x1F634040,
   0x20634040, 0x21634040, 0x22634040, 0x23634040, 0x24634040, 0x25634040, 0x26634040, 0x27650040] 0 1 0 = true := by decide +kernel

/-- Divisions by one and by zero. -/
theorem witness_DivisionResults : hitAll
  [0x17634040, 0x18634040, 0x19634040, 0x1A634040] 5 1 0 = true := by decide +kernel

/-- Divisions by zero. -/
theorem witness_DivisionByZero : hitAll
  [0x17634040, 0x18634040, 0x19634040, 0x1A634040] 5 0 0 = true := by decide +kernel

/-- Fixed-width instructions. -/
theorem witness_FixedWidthResults : hitAll
  [0x28634040, 0x29634040, 0x2A634040, 0x2B650040, 0x2C650040, 0x2D650040, 0x2E650040, 0x2F650040, 0x39650040, 0x4D634040] 3 4 0 = true := by decide +kernel

/-- Comparisons and selections. -/
theorem witness_CompareAndSelect : hitAll
  [0x30634040, 0x31634040, 0x32634040, 0x33634040, 0x34634040, 0x35634040, 0x36634040, 0x37634040, 0x38634040] 3 4 0 = true := by decide +kernel

/-- Shifts and counts, by the lane width. -/
theorem witness_ShiftsAndCounts : hitAll
  [0x40634040, 0x41634040, 0x42634040, 0x43634040, 0x44634040, 0x45650040, 0x46650040, 0x47650040, 0x48650040, 0x49650040] 3 64 0 = true := by decide +kernel

/-- A field of length 0, one past the lane, one to its end; LEA. -/
theorem witness_FieldsAndAddresses : hit
  [(0x4A634040, (0, 0), (0, 0), fun _ => true),
   (0x4A634040, (0, 0), (0x140, 0), fun _ => true),
   (0x4A634040, (0, 0), (0x403C, 0), fun _ => true),
   (0x4B634040, (0, 0), (0x403C, 0), fun _ => true),
   (0x4C634040, (0, 0), (1, 0), fun v => !v.wide && decide (v.o.mode.val ≤ 1))] = true := by decide +kernel

/-- A draw, and one at the last index with and without RSTE. -/
theorem witness_Draws :
    decided (setup 0x4EA50040 [] id id id) (fun _ => true) = true ∧
    decided (setup 0x4EA50040 [] id id (fun c => { c with rngpos := 0xFFFFFF })) (fun v => v.c.rngpos.toNat % 2 ^ 24 == 2 ^ 24 - 1) = true ∧
    decided (setup 0x4EA50040 [] id id (fun c => { c with rngpos := 0xFFFFFF, frm := 0x100 })) (fun v => v.c.frm.toNat.testBit 8) = true := by decide +kernel

/-- Float instructions on FP32 sources. -/
theorem witness_FloatLaneResults : hitAll
  [0x50634040, 0x51634040, 0x52634040, 0x53634040, 0x54634040, 0x55634040, 0x60650040, 0x61650040, 0x62650040, 0x63650040, 0x64650040, 0x65634040,
   0x66650040, 0x67650040, 0x68650040, 0x69650040, 0x6A650040] 0x3F800000 0 7 = true := by decide +kernel

/-- The same on a source of code RAW, whose operation format is none they take. -/
theorem witness_FloatLaneTraps : hitAll
  [0x50634040, 0x51634040, 0x52634040] 0 0 0 = true := by decide +kernel

/-- Minimum to class on FP32 sources. -/
theorem witness_FloatComparisons : hitAll
  [0x56634040, 0x57634040, 0x58650040, 0x59650040, 0x5A634040, 0x5B634040, 0x5C634040, 0x5D634040, 0x5E634040, 0x5F650040] 0x3F800000 0 7 = true := by decide +kernel

/-- Conversions from codes their rule accepts, and from others. -/
theorem witness_Conversions : hit
  [(0x7065005C, (0, 7), (1, 7), fun v => v.a.fmt == 7),
   (0x7065005C, (0, 14), (1, 14), fun v => v.a.fmt == 14),
   (0x7065005C, (0, 6), (1, 6), fun v => v.a.fmt == 6),
   (0x72650054, (0, 7), (1, 7), fun _ => true),
   (0x73650054, (0, 7), (1, 7), fun _ => true),
   (0x7465005C, (0, 6), (1, 6), fun _ => true),
   (0x7565005C, (0, 0), (1, 0), fun _ => true),
   (0x7465005C, (0, 7), (1, 7), fun v => v.a.fmt == 7)] = true := by decide +kernel

/-- CVTS, SCALE with a sound and an unsound scale, FMTOF. -/
theorem witness_ScaledConversions : hit
  [(0x7165005C, (0, 7), (1, 7), fun _ => true),
   (0x7165005C, (0, 0), (1, 0), fun _ => true),
   (0x7863405C, (0, 7), (1, 14), fun _ => true),
   (0x7863405C, (0, 7), (1, 7), fun _ => true),
   (0x79650040, (0, 7), (1, 7), fun v => v.a.vl == 0)] = true := by decide +kernel

/-- PACK and UNPACK of a source of the class and of the other, at the first lane and past the last. -/
theorem witness_PacksLanes : hit
  [(0x7663405C, (0, 7), (1, 7), fun v => !v.wide),
   (0x7663405C, (0, 1), (1, 1), fun _ => true),
   (0x7763405C, (0, 7), (0, 7), fun _ => true),
   (0x7763405C, (0, 7), (1, 7), fun _ => true)] = true := by decide +kernel

/-- Cross-lane instructions on RAW operands. -/
theorem witness_MovesLanes : hitAll
  [0x80634040, 0x86634040, 0x87634040, 0x88634040, 0x89634040, 0x8B650040, 0x8C634040, 0x8DA34041] 0 0 7 = true := by decide +kernel

/-- Under MODE 1 a source of another code than FP32: A of VBCAST, B of VPERM and VCOMPRESS, the old value of VINS; VPERM and VINS with sound ones. -/
theorem witness_MovesLanes_codes : hit
  [(0x80634041, (0, 1), (0, 7), fun v => v.a.fmt == 1 && opFormat v.o.mode.val v.a.fmt == 7),
   (0x86634041, (0, 7), (0, 1), fun v => v.b.fmt == 1 && opFormat v.o.mode.val v.a.fmt == 7),
   (0x8C634041, (0, 7), (0, 1), fun v => v.b.fmt == 1 && opFormat v.o.mode.val v.a.fmt == 7),
   (0x86634041, (0, 7), (0, 0), fun v => v.b.fmt == 0),
   (0x86634040, (0, 12), (0, 0), fun v => v.o.mode.val == 0)] = true ∧
    (let s := setup 0x89630241 [(0, 7), (0, 0)] id id fun c => { c with regs := List.replicate 16 { fmt := 1 } }
     decided s fun v => v.old.fmt == 1 && opFormat v.o.mode.val v.a.fmt == 7) = true := by decide +kernel

/-- VBCAST, VEXTR and VINS past the last lane. -/
theorem witness_MovesLanesPast : hitAll
  [0x80634040, 0x88634040, 0x89634040] 127 127 7 = true := by decide +kernel

/-- Reductions of FP32 lanes. -/
theorem witness_ReducesLanes : hitAll
  [0x81634040, 0x82634040, 0x83634040, 0x84634040, 0x85634040, 0x8A634040] 0x3F800000 0 7 = true := by decide +kernel

/-- Reductions of a source whose operation format is RAW. -/
theorem witness_ReducesLanesTraps : hitAll
  [0x81634040, 0x82634040, 0x83634040, 0x84634040, 0x85634040, 0x8A634040] 0 0 0 = true := by decide +kernel

/-- Accesses at address 0, no bounds record enabled. -/
theorem witness_MemoryFiresIssue : hitAll
  [0x90650040, 0x91637300, 0x92650040, 0x93637300, 0x94A53300, 0x97634040, 0x98634040, 0x99634040, 0x9A634040, 0x9B634040, 0x9C634040, 0x9D634040,
   0x9E634040, 0x9F634041, 0xA0653300, 0xA2634040, 0xB0634040, 0xB1634040, 0xB2637300, 0xB3A53300, 0xB4634040] 0 0 0 = true := by decide +kernel

/-- LDS and STS in the region, BOUNDS of a record and of none. -/
theorem witness_MemoryFiresIssue_local :
    decided (setup 0x95650040 [(0, 0)] id id id) (fun v => decide (v.a.n64 < 2 ^ 30) && decide (0 < v.g.hdr.w) && decide (0 < v.g.hdr.h)) = true ∧
    decided (setup 0x96637300 [(0x2FFF8, 0), (0, 0)] id id id) (fun v => decide (bits v.a.n64 17 0 + 7 < 0x30000)) = true ∧
    decided (setup 0xA1637300 [(32, 0), (3, 0)] id id id) (fun v => decide (v.b.n64 < 4) && v.a.n64 % 32 == 0) = true ∧
    decided (setup 0xA1637300 [(0, 0), (7, 0)] id id id) (fun v => v.b.n64.testBit 2) = true := by decide +kernel

/-- Accesses from 2^57 on. -/
theorem witness_AddressTraps : hitAll
  [0x90650040, 0x91637300, 0x92650040, 0x93637300, 0x94A53300, 0x97634040, 0x98634040, 0x99634040, 0x9A634040, 0x9B634040, 0x9C634040, 0x9D634040,
   0x9E634040, 0x9F634041, 0xA0653300, 0xA2634040, 0xB0634040, 0xB1634040, 0xB2637300, 0xB3A53300] 0x200000000000000 0 0 = true := by decide +kernel

/-- Accesses off their size. -/
theorem witness_AddressTrapsMisaligned : hitAll
  [0x90650040, 0x91637300, 0x92650040, 0x93637300, 0x97634040, 0x98634040, 0x99634040, 0x9A634040, 0x9B634040, 0x9C634040, 0x9D634040, 0x9E634040,
   0x9F634041] 1 0 0 = true := by decide +kernel

/-- An enabled bounds record that does not cover the access; scope words; LDS and STS outside; reserved BOUNDS words. -/
theorem witness_AddressTraps_bounds :
    decided (setup 0x90650040 [(64, 0)] id (fun x => { x with bounds := [{ en := true, lo := 0, hi := 64, rd := true }] }) id) (fun v => v.boundsTrap 64 8 needLoad == some .boundsViolation) = true ∧
    decided (setup 0xB0634040 [(0, 0), (11, 0)] id id id) (fun v => decide (10 < v.b.n64 % 16)) = true ∧
    decided (setup 0xB0634040 [(0, 0), (16, 0)] id id id) (fun v => decide (16 ≤ v.b.n64)) = true ∧
    decided (setup 0xB2637300 [(0, 0), (32, 0)] id id id) (fun v => decide (32 ≤ v.b.n64)) = true ∧
    decided (setup 0x95650040 [(0x30000, 0)] id id id) (fun _ => true) = true ∧
    decided (setup 0x96637300 [(0x40000000, 0), (0, 0)] id id id) (fun _ => true) = true ∧
    decided (setup 0x96637300 [(1, 0), (0, 0)] id id id) (fun _ => true) = true ∧
    decided (setup 0xA1637300 [(0, 0), (8, 0)] id id id) (fun v => decide (8 ≤ v.b.n64)) = true ∧
    decided (setup 0xA1637300 [(16, 0), (3, 0)] id id id) (fun v => v.a.n64 % 32 != 0) = true := by decide +kernel

/-- NOTIFY, PARK, BAR, ARRIVE, TASKDONE and LAUNCH at the edges of their operands. -/
theorem witness_WorkInstructions :
    decided (setup 0xB5637300 [(4095, 0), (0, 0)] id id id) (fun v => decide (v.a.n64 < 2 ^ 12)) = true ∧
    decided (setup 0xB5637300 [(4096, 0), (0, 0)] id id id) (fun _ => true) = true ∧
    decided (setup 0xB6650040 [(4095, 0)] id id id) (fun v => (v.s.wake v.a.n64).state == 0) = true ∧
    decided (setup 0xB6650040 [(4096, 0)] id id id) (fun _ => true) = true ∧
    decided (setup 0xB7650040 [(0, 0)] id id id) (fun v => decide (v.g.hier.length ≤ v.a.n64)) = true ∧
    decided (setup 0xB7650040 [(0, 0)] (fun g => { g with hier := [⟨0, 0⟩] }) id id) (fun v => decide (v.a.n64 < v.g.hier.length)) = true ∧
    decided (setup 0xB8637300 [(4095, 0), (0, 0)] id id id) (fun _ => true) = true ∧
    decided (setup 0xB8637300 [(4096, 0), (0, 0)] id id id) (fun _ => true) = true ∧
    decided (setup 0xB9A50040 [] id id id) (fun _ => true) = true ∧
    decided (setup 0xBA650040 [(256, 0)] id id id) (fun v => v.a.n64 % 256 == 0) = true ∧
    decided (setup 0xBA650040 [(255, 0)] id id id) (fun _ => true) = true := by decide +kernel

/-- PARK on a FULL and on a WAITING wake register. -/
theorem witness_Park : ([1, 2] : List Nat).all (fun n =>
    decided { setup 0xB6650040 [(0, 0)] with wakes := [(0, { state := n })] } fun v => (v.s.wake v.a.n64).state == n) = true := by decide +kernel

/-- RDSR and WRSR of readable, read-only and reserved registers; TICK, PROBE, FRET, YIELD and TRAP. -/
theorem witness_SystemInstructions :
    decided (setup 0xF2650040 [(0, 0)] id id id) (fun v => (specialRegister v.s v.e v.k v.a.n64).isSome) = true ∧
    decided (setup 0xF2650040 [(23, 0)] id id id) (fun v => (specialRegister v.s v.e v.k v.a.n64).isSome) = true ∧
    decided (setup 0xF2650040 [(24, 0)] id id id) (fun v => (specialRegister v.s v.e v.k v.a.n64).isNone) = true ∧
    decided (setup 0xF3634040 [(8, 0), (1, 0)] id id id) (fun _ => true) = true ∧
    decided (setup 0xF3634040 [(3, 0), (1, 0)] id id id) (fun v => (specialRegister v.s v.e v.k v.a.n64).isSome) = true ∧
    decided (setup 0xF5650040 [] id id id) (fun _ => true) = true ∧
    decided (setup 0xF4637300 [(0, 0), (4096, 0)] id id id) (fun v => v.b.n64 % 4096 == 0) = true ∧
    decided (setup 0xF4637300 [(0, 0), (8, 0)] id id id) (fun _ => true) = true ∧
    decided (setup 0xF6637300 [(5, 0), (2, 0)] id id (fun c => { c with faultinfo := 5 })) (fun v => v.c.faultinfo != 0 && v.a.w64 == v.c.faultinfo && decide (v.b.n64 < 3)) = true ∧
    decided (setup 0xF6637300 [(5, 0), (0, 0)] id id id) (fun v => v.c.faultinfo == 0) = true ∧
    decided (setup 0xF7653300 [(9, 0)] id id id) (fun _ => true) = true ∧
    decided (setup 0xF0653300 [(7, 0)] id id id) (fun _ => true) = true := by decide +kernel

/-- BRK of a region whose breaks the debugger takes, and of one whose it does not. -/
theorem witness_BreakInstruction :
    decided (setup 0xF1653300 [(0, 0)]) (fun v => !v.s.takesBreaks v.g.id && v.s.faults.records.all fun r => decide (r.id < v.s.ids)) = true ∧
    decided { setup 0xF1653300 [(0, 0)] with dbg := { brkctl := 0x3000 } } (fun v => v.s.takesBreaks v.g.id && v.c.breakPass.isNone && v.g.faultable && v.g.freeze.isNone &&
        v.s.faults.records.all fun r => decide (r.id < v.s.ids))
      = true := by decide +kernel

/-- A region that claims a matrix node and a copy engine, their tiles placed relative to it. -/
def claiming (w : Word32) (a b : Word) : State :=
  setup w [(a, 0), (b, 0)] (fun g => { g with hdr := { g.hdr with claims := [⟨1, tileX (nodeTile 0), tileY (nodeTile 0)⟩, ⟨2, tileX (engineTile 0), tileY (engineTile 0)⟩] } })

/-- The commands of engines with a claimed unit. -/
theorem witness_EngineCommands : ([
    (claiming 0xC0634040 0 128, 1), (claiming 0xC1A34040 0 0, 1), (claiming 0xC2634040 8 0, 1),
    (claiming 0xC3634040 2 0, 1), (claiming 0xC4634040 0 0, 1), (claiming 0xC5634040 0 0, 1),
    (claiming 0xC6634040 1 0, 1), (claiming 0xC7634040 0 0, 1), (claiming 0xD0634040 64 0, 2),
    (claiming 0xD1634040 64 0, 2), (claiming 0xD2634040 64 0, 2), (claiming 0xD3634040 64 0, 2),
    (claiming 0xD4634040 64 0, 2), (claiming 0xD6637300 32 0, 2), (claiming 0xD9A34040 0 0, 2)] : List (State × Nat)).all (fun p =>
      decided p.1 fun v => (v.g.claimed p.2)[v.b.n64 % 16]? == some 0) = true := by decide +kernel

/-- The checks of these commands pass at the values above, and fail at the next ones. -/
theorem witness_EngineChecks : mloadCheck 0 0x80 = none ∧ mswapCheck 0 = none ∧ mstreamCheck 8 0 = none ∧ mmodeCheck 2 0 = none ∧ mmodeCheck 3 0 ≠ none ∧
    mdrainCheck 0 0 = none ∧ mclrCheck 0 0 = none ∧ rptsetCheck 1 0 = none ∧ rptsetCheck 0 0 ≠ none ∧ rptendCheck 0 0 = none ∧ copyCheck 64 0 = none ∧
    copyCheck 64 16 ≠ none ∧ copyCheck 32 0 ≠ none ∧ freedCheck 32 0 = none := by decide +kernel

/-- A command without a claimed unit; PUBLISH, COLL and COLLARG sound and unsound. -/
theorem witness_EngineCommands_others :
    decided (setup 0xD0634040 [(64, 0), (0, 0)] id id id) (fun v => (v.g.claimed 2)[v.b.n64 % 16]? == none) = true ∧
    decided (setup 0xD5634040 [(32, 0), (10, 0)] id id id) (fun _ => true) = true ∧
    decided (setup 0xD5634040 [(32, 0), (11, 0)] id id id) (fun _ => true) = true ∧
    decided (setup 0xD5634040 [(0x200000000000000, 0), (0, 0)] id id id) (fun _ => true) = true ∧
    decided (setup 0xD5634040 [(16, 0), (0, 0)] id id id) (fun _ => true) = true ∧
    decided (setup 0xD7634040 [(64, 0), (0, 0)] id id id) (fun _ => true) = true ∧
    decided (setup 0xD7634040 [(64, 0), (1, 0)] id id id) (fun _ => true) = true ∧
    decided (setup 0xD8634040 [(64, 0), (0, 0)] id id id) (fun _ => true) = true ∧
    decided (setup 0xD8634040 [(32, 0), (0, 0)] id id id) (fun _ => true) = true := by decide +kernel

/-- The sequence instructions with a bound slot, at address 0 with B of 0. -/
theorem witness_SequenceInstructions : ([
    0xE0634040, 0xE1634040, 0xE2634040, 0xE3634040, 0xE4634040, 0xE5650040, 0xE6653300, 0xE7650040,
    0xE8634040, 0xE9650040, 0xEA650040, 0xEB634040, 0xECA34040, 0xED634040, 0xEE650040] : List Word32).all (fun w =>
      decided (setup w [(0, 0), (0, 0)] id id fun c => { c with seqid := 0x4000 }) fun v => v.c.seqid.getLsbD 14) = true := by decide +kernel

/-- Without a slot; a reserved bit of B; an address out of range, and one off its alignment. -/
theorem witness_SequenceInstructions_traps :
    decided (setup 0xE0634040 [(0, 0), (0, 0)] id id id) (fun v => !v.c.seqid.getLsbD 14) = true ∧
    decided (setup 0xE0634040 [(0, 0), (4, 0)] id id (fun c => { c with seqid := 0x4000 })) (fun v => v.c.seqid.getLsbD 14) = true ∧
    decided (setup 0xE0634040 [(0x200000000000000, 0), (0, 0)] id id (fun c => { c with seqid := 0x4000 })) (fun v => v.c.seqid.getLsbD 14) = true ∧
    decided (setup 0xE0634040 [(32, 0), (0, 0)] id id (fun c => { c with seqid := 0x4000 })) (fun v => v.c.seqid.getLsbD 14) = true := by decide +kernel

end Sys2Proof.Tests

namespace Sys2Proof.Machine

/-- The tiles of a state changed. -/
def State.withTile (s : State) (f : Tile → Tile) : State := { s with tiles := s.tiles.map fun p => (p.1, f p.2) }

/-- Pages from address 0 on that lead to frames from 2^20 on, cached by their owner, for every agent, in a span of 2 MiB granules. -/
def State.mapped (s : State) : State :=
  { s with mem := memPut s.mem (2 ^ 19) 2
           xl := { s.xl with spanmap := 2 ^ 19
                             cache := [{ page := 0, size := 2 ^ 21, frame := 2 ^ 20, gid := 0, dom := 0, w := true, leaf := 0, cont := false, d := true
                                         count := 0 }] } }

/-- A launch with a record, a state, a region and an image. -/
def aLaunch (id : Nat) (l : LaunchRec) (st : LaunchState) (reg : Nat) (im : Image) (follows : Option Nat := none) : Launch :=
  { id := id, lrec := l, img := im, agent := none, state := st, region := reg, handler := none, save := none, placed := 0, followOf := follows
    misplaced := false }

/-- The launch of the region, with a record. -/
def State.launched (s : State) (l : LaunchRec := {}) (st : LaunchState := .running) (reg : Nat := 1) (im : Image := {}) : State :=
  { s with launches := [aLaunch 100 l st reg im], regions := s.regions.map fun r => { r with launch := 100 } }

end Sys2Proof.Machine

namespace Sys2Proof.Tests

open Sys2Proof.Machine Sys2Proof.Safety

set_option Elab.async false

/-! ## States that meet the hypotheses of the statements about the machine's steps -/

/-- A small machine: one region, number 1, on tile (0, 0) with one narrow element that holds a NOP, at tick 10. -/
def small (fr : Region → Region := id) (fe : Elem → Elem := id) : State := { setup 0x00A53300 [] fr fe with tick := 10 }

/-- An access of element n0 of tile (0, 0). -/
def anAccess (k : AccKind) (st : Stage) (size : Nat := 8) (data : LinkWord := 0) (link : Option Link := none) : Access :=
  { id := 50, fire := 40, elem := 0, ctx := 0, slot := 0, region := 1, core := none, kind := k, wide := false, va := 64, size := size, wr := k == .store
    data := data, inv := 0, opw := 0, reqTag := 0, link := link, stage := st, due := 0, reply := 0, poison := false, released := false }

/-- A fire in flight of element n0. -/
def aFlight (i : Instr) (w : Wait) (a b : Word := 0) : Flight :=
  { id := 40, elem := 0, ctx := 0, slot := 0, region := 1, instr := i, trig := 0, opw := 0, upd := 1, decided := 5, due := some 6, ready := false, res := {}
    heads := [], oldPreds := 0, trapPend := false, inv := 0, wait := w, a := a, b := b, reqTag := none, resumed := false, lost := [] }

/-- Operands that name nothing. -/
def noOp : Op := ⟨.zero, .zero, .none, .none, 0, 0⟩

/-- An element has its shape. -/
def shaped (x : Elem) : Bool := x.ins.length == 4 && x.outs.length == 4 && x.ctxs.length == 4 && x.ctxs.all fun c => c.regs.length == 16

theorem shaped_iff (x : Elem) : shaped x = true ↔ Shaped x := by
  simp [shaped, Shaped, and_assoc]

/-- A router port that holds one token of a route tag, with an egress set for tag 1, and the tag's ejection into channel i0 of element n0. -/
def routed (tag set : Nat) : State :=
  (small).withTile fun t => { t with narrow := { t.narrow with
    eject := [(1, 0, 0)]
    ports := { buf := [{ tok := {}, rtag := tag, plane := false, advanced := false, ready := 0 }], prog := [[0, set]] } :: List.replicate 4 {} } }

/-- TOKEN_ARRIVAL and ROUTE_TOKEN: an arrival, one after a snapshot; a token that ejects, one that leaves east, one that misses. -/
theorem witness_FabricSteps_tokens :
    (let s := small id fun x => x.modIn 0 fun c => { c with arriving := [{}] }
     shaped (s.elem 0) && ((s.elem 0).in_ 0).arriving == [{}] && !s.chanDrained 0 0 && !(s.elem 0).snapped) = true ∧
    (let s := small id fun x => { x.modIn 0 fun c => { c with arriving := [{}] } with snapped := true }
     (s.elem 0).snapped && !((s.elem 0).in_ 0).closed) = true ∧
    (let s := routed 1 16; s.front 0 0 == .move 0 [8] && s.nextMover 0 == some 0 && (s.router 0).ports.length == 5) = true ∧
    (let s := (routed 1 2).withTile fun t => { t with region := none }
     s.front 0 0 == .move 0 [1] && neighbour 0 1 == some (1, 3) && !s.boundary 0 1 && (s.router 2).ports.length == 5) = true ∧
    (let s := routed 1 0; s.front 0 0 == .miss 0 && !((s.router 0).port 0).miss && (s.tile 0).region.isSome) = true := by decide +kernel

/-- ROUTE_TOKEN from an output channel, ADVANCE_WORD, and SWAGE_REPACK of a word that waits and of one that has been repacked. -/
theorem witness_FabricSteps_ports :
    (let s := small (fun g => { g with wires := [⟨⟨false, 0, 0, 0, 0⟩, ⟨false, 0, 1, 0, 0⟩, false, 0, false, 1⟩] })
       fun x => x.modOut 0 fun c => { c with q := [.tok {}] }
     s.sourceReady 0 8 && (s.sourceToken 0 8).isSome && s.sourceTag 0 8 == some 1 && shaped (s.elem 0)) = true ∧
    (let s := routed 63 0; (match ((s.router 0).port 0).buf with | [k] => k.rtag == 63 && !k.advanced && decide (k.ready ≤ s.tick) | _ => false)) = true ∧
    (let k : RToken := { tok := {}, rtag := 1, plane := false, advanced := false, ready := 0 }
     (let s : State := { small with swages := [(swageKey 0 1 1, { tfmt := 7, inq := [k] })] }
      s.swageKeyOf 1 1 == some (swageKey 0 1 1)) &&
     (let s : State := { small with swages := [(swageKey 0 1 1, { tfmt := 7, outq := [k] })] }
      s.swageKeyOf 1 1 == some (swageKey 0 1 1) && decide (k.ready ≤ s.tick) && decide (s.portLoad 1 1 < 4) && s.awake 0 && (s.tile 0).region.isSome &&
        tget (s.router 1).sent 201 0 != s.tick + 1) &&
     (let s : State := { (small).withTile (fun t => { t with region := none }) with swages := [(swageKey 0 1 1, { tfmt := 7, inq := [k], outq := [k] })] }
      s.swageKeyOf 1 1 == some (swageKey 0 1 1) && (s.tile 0).region.isNone)) = true := by decide +kernel

/-- A solo launch with a binding of channel 0 of element n0. -/
def bound (b : Binding) : State :=
  (small (fun g => { g with solo := true, binds := [{ b with en := true }] })
    fun x => if b.sink then x.modOut 0 fun c => { c with q := [.tok {}] } else x).mapped

/-- FEED_DELIVER of a value and of the EOS, SINK_STORE with and without room, SOLO_QUIET. -/
theorem witness_FabricSteps_solo :
    ([({ count := 1, addr := 64 }, false), ({ fin := 1 }, true)] : List (Binding × Bool)).all (fun p =>
      let s := bound p.1
      match s.regionOf 0 with
      | some g => shaped (s.elem 0) && g.bindOf false 0 == some 0 && s.feedReady 0 0 g 0 && decide ((g.bind 0).count ≤ (g.bind 0).next) == p.2 &&
          (p.2 || ((s.translate (.region g.hdr.gid) 64 false false false).1 == .pa (2 ^ 20 + 64) &&
            !(s.translate (.region g.hdr.gid) 64 false false false).2.poisoned (2 ^ 20 + 64) 8))
      | none => false) = true ∧
    ([({ count := 1, addr := 64, sink := true }, false), ({ sink := true }, true)] : List (Binding × Bool)).all (fun p =>
      let s := bound p.1
      match s.regionOf 0 with
      | some g => shaped (s.elem 0) && g.bindOf true 0 == some 0 && s.sinkReady 0 0 g 0 && decide ((g.bind 0).count ≤ (g.bind 0).moved) == p.2 &&
          (p.2 || (s.translate (.region g.hdr.gid) 64 true false false).1 == .pa (2 ^ 20 + 64))
      | none => false) = true ∧
    (let s := bound { sink := true }
     let s : State := { s with regions := s.regions.map fun g => { g with ending := some (2, 0, 0) } }
     match s.regionOf 0 with
     | some g => g.bindOf true 0 == some 0 && s.sinkReady 0 0 g 0 && decide ((g.bind 0).count ≤ (g.bind 0).moved)
     | none => false) = true ∧
    (let s := { small (fun g => { g with solo := true }) with tick := 4096 }
     match s.region? 1 with
     | some g => g.solo && g.live && g.freeze.isNone && g.ending.isNone && decide (0 < g.started) && decide (g.lastFire + 4096 ≤ s.tick)
     | none => false) = true := by decide +kernel

/-- EBB_DRAIN, ELEMENT_DRAINED of an element that starts the ebb, INVOCATION_BOUNDARY and the EBBs after the last, HALT_COMPLETE. -/
theorem witness_DrainSteps :
    (let s := small id fun x => x.modIn 0 fun c => { c with q := [{ tag := 3 }] }
     shaped (s.elem 0) && ((s.elem 0).in_ 0).q == [{ tag := 3 }] && (s.elem 0).loaded && !(s.elem 0).snapped && !(s.elem 0).frozen) = true ∧
    (let s := small id fun x => { x with frozen := true }
     (s.elem 0).frozen) = true ∧
    (let s := small id fun x => { x with ctxs := x.ctxs.map fun c => { c with ended := true } }
     match s.regionOf 0 with | some g => (s.elem 0).loaded && !(s.elem 0).drained && !s.frozen g && s.drainable 0 g | none => false) = true ∧
    (let s := small id fun x => { x with ctxs := x.ctxs.map fun c => { c with inv := 1 } }
     match s.region? 1 with | some g => s.boundaryReady g | none => false) = true ∧
    (let s := small fun g => { g with passed := g.ninv }
     match s.region? 1 with | some g => !s.boundaryReady g && s.injectReady g | none => false) = true ∧
    (let s := small fun g => { g with halt := some (3, 7, 0) }
     match s.region? 1 with | some g => s.haltDone g | none => false) = true := by decide +kernel

/-- TILE_SWAP: a clear tile with a shadow whose local part must be zero first; a loaded shadow, of the same and of another GRAPHID, before and after the
local part is zero. -/
theorem witness_DrainSteps_clear :
    (let s := (small id fun x => { x with drained := true, shadow := some {} }).withTile fun t => { t with shadowOf := some 1, lastGid := some 5 }
     match (s.tile 0).shadowOf.bind s.region? with
     | some g => g.hdr.gid != 5 && s.tileClear 0 && g.freeze.isNone && (s.tile 0).clearTill.isNone
     | none => false) = true := by decide +kernel
theorem witness_DrainSteps_swap :
    ([(none, none), (some 5, none), (some 5, some 9)] : List (Option Nat × Option Nat)).all (fun p =>
      let s := (small id fun x => { x with drained := true, shadow := some {} }).withTile fun t =>
        { t with shadowOf := some 1, loaded := true, lastGid := p.1, clearTill := p.2 }
      match s.swapReady 0 with
      | some g => decide (p.1 = none) || (p.1 != some g.hdr.gid && (match p.2 with | some c => decide (c ≤ s.tick) | none => true))
      | none => false) = true := by decide +kernel

/-- LAUNCH_COMPLETE of a launch that has ended and of one that is done, BUDGET_EXPIRY, QUIESCENT_INCOMPLETE, HANG. -/
theorem witness_EndSteps :
    (let s := (small fun g => { g with ending := some (2, 7, 0) }).launched
     match s.region? 1 with | some g => (s.launch? g.launch).isSome && g.nextWord.isNone && s.finishable g (2, 7, 0) && !s.blockMoves g && !s.migrates 0 | none => false) = true ∧
    (let s := small fun g => { g with solo := true, binds := [{ en := true, sink := true, ended := true }] }
     match s.region? 1 with | some g => !s.ranDry g && s.soloDone g | none => false) = true ∧
    (let s := (small fun g => { g with first := some 2 }).launched { budget := 8 }
     match s.region? 1 with
     | some g => (match s.launch? g.launch with | some l => l.lrec.timed && decide (2 + l.lrec.budget ≤ s.tick) | none => false)
     | none => false) = true ∧
    (let s := { small id (fun x => x.modIn 0 fun c => { c with q := [{}] }) with tick := 10 ^ 9 }
     match s.region? 1 with
     | some g => decide (g.lastFire + g.qwin ≤ s.tick) && decide (g.lastFire + g.hangTicks ≤ s.tick) && s.tokenRemains g && !s.busyRegion g
     | none => false) = true := by decide +kernel

/-- BUDGET_EXPIRY of a launch that has come to an end of its own, HANG while a HALT waits, and of a region with only a buffered access. -/
theorem witness_EndSteps_late :
    (let s := (small fun g => { g with first := some 2, ending := some (3, 0, 0) }).launched { budget := 8 }
     match s.region? 1 with | some g => g.first == some 2 && g.ending == some (3, 0, 0) | none => false) = true ∧
    (let s := { small (fun g => { g with halt := some (3, 7, 0) }) (fun x => x.modIn 0 fun c => { c with q := [{}] }) with tick := 10 ^ 9 }
     match s.region? 1 with | some g => g.halt.isSome && decide (g.lastFire + g.hangTicks ≤ s.tick) && s.tokenRemains g | none => false) = true ∧
    (let s : State := { small with tick := 10 ^ 9, chains := [{ region := 1, id := 1, buffered := [50] }] }
     match s.region? 1 with | some g => decide (g.lastFire + g.hangTicks ≤ s.tick) && s.chains.any fun x => x.region == 1 && !x.buffered.isEmpty | none => false) = true ∧
    (small.waitv.isEmpty && small.sync.isEmpty) = true := by decide +kernel

/-- PRELOAD_RELEASE of a reservation on which no launch runs. -/
theorem witness_EndSteps_release :
    (let s := { (small).launched { named := true, taskid := 3, preload := true } .waiting with tasks := [(3, { state := .reserved })] }
     match s.launch? 100 with
     | some l => l.state == .waiting && (s.task 3).state == .reserved && (s.task 3).pending.isEmpty && !s.reservationBusy 3 && !l.lrec.nexten
     | none => false) = true := by decide +kernel
/-- A machine that the host may write. -/
def live : State := { small with mgmt := { ready := true } }

/-- RegisterSteps: before READY and after it, the first and the last queue, room and none in its ring, a page that waits for XRESOLVE, a migration that
runs and none. -/
theorem witness_RegisterSteps :
    State.reset.mgmt.ready = false ∧ live.mgmt.ready = true ∧
    ([0, 63] : List Nat).all (fun q =>
      let s : State := { live with queues := [(q, { cfg := 0x0009, tail := 16, head := 0 })] }
      (s.queue q).en && (s.queue q).sized && (s.queue q).logsz == 4 &&
        decide (((16 : BitVec 32) - (s.queue q).head).toNat ≤ 16) && !decide (((17 : BitVec 32) - (s.queue q).head).toNat ≤ 16)) = true ∧
    (let s : State := { live with xl := { mq := { cfg := 9, tail := 5 } } }
     (s.xl.mq.tail - (5 : BitVec 32)).toNat ≤ 2 ^ s.xl.mq.logsz) ∧
    (let a := anAccess .load (.withheld 0x301 0)
     let s : State := { live.mapped with accesses := [a] }
     s.samePage 64 a.va && !s.samePage 0x1000000 a.va && (s.translate (s.agentFor a) a.va false true false).1 == .fail 0x301 && s.waitsFor a 64 && !s.waitsFor a 0x1000000)
      = true ∧
    live.xl.mig = none ∧ (let s : State := { live with xl := { fqWait := [[1], [2]] } }; s.xl.fq.en = false ∧ s.xl.fqWait.length = 2) := by decide +kernel

/-- The solo image of one narrow element with a NOP, laid out from R64 to R66: header, section table, element record. -/
def soloImage : List Byte :=
  natLe 8 0x000000013164696A ++ natLe 8 0x0000000100000200 ++ List.replicate 48 0 ++ natLe 8 0x0000000100000002 ++ natLe 8 128 ++ List.replicate 48 0
    ++ natLe 8 0x0180000001000000 ++ natLe 8 0x00A5330000000000 ++ natLe 8 1 ++ List.replicate 360 0

/-- A launch record (R189) of class 2 for the image at 4096, with its completion block at 8192. -/
def launchBytes (image : Nat) : List Byte := natLe 8 image ++ natLe 8 0x20 ++ List.replicate 24 0 ++ natLe 8 8192 ++ List.replicate 208 0

/-- A machine with a record and an image in memory, and the record in queue 3. -/
def queued : State :=
  { (((live.mapped).perform (2 ^ 20 + 4096) soloImage).perform (2 ^ 20 + 12288) (launchBytes 4096)) with
    queues := [(3, { base := 12288, cfg := 0x0009, tail := 1 })] }

/-- LAUNCH_DECODE of a copy, of a record without faults, and of one whose image's address is misaligned. -/
theorem witness_LaunchSteps_decode :
    (queued.markNomap.nextSource == some 3 && (queued.markNomap.readAs .mgmt 0 (queued.markNomap.queue 3).record 256).1 == some (launchBytes 4096)) = true ∧
    ([(4096, true), (4097, false)] : List (Nat × Bool)).all (fun p =>
      let c : Copied := { src := 3, bytes := launchBytes p.1, since := 0 }
      let s : State := { queued with tick := 144, decoder := { copy := some c } }
      let r := readLaunch c.bytes
      decide (c.since + 144 ≤ s.tick) && (launchReserved c.bytes && r.sound c.minc) == p.2 && r.status % 64 == 0 &&
        (s.translate (agentBy c.agent) r.status true false false).1 == .pa (2 ^ 20 + 8192) &&
        (!p.2 || (r.soloSound && s.idFree r && !r.named && !r.releases && !r.timed &&
          match ({ s with decoder := { s.decoder with copy := none } }).imageAt c.reader c.region r.image with
          | (some b, u) => imageRefusal b r.image == none && u.edgeOk (edgeOf r (readImage b r.image).header) (readImage b r.image).header.rank
          | _ => false))) = true := by decide +kernel

/-- The image as the loader reads it. -/
def anImage : Image := readImage soloImage 4096

/-- LAUNCH_PLACE: at a place, with none yet, and with none ever; COLD_LOAD_END. -/
theorem witness_LaunchSteps_place :
    (let s := (small).launched { image := 4096, cls := 2 } (.ready 0) 0 anImage
     match s.launch? 100 with
     | some l => s.readyNow l && !l.lrec.timed && l.handler.isNone && (s.leader l.lrec l.img).isNone && s.placing l.lrec l.img == .place 1 0 &&
         !s.netHeld l (newRegion s.ids l 1 0 l.lrec.cls)
     | none => false) = true ∧
    (let s0 := (small fun g => { g with cls := 1 }).launched { cls := 1 } (.loading 99)
     let s : State := { s0 with launches := s0.launches ++ [{ aLaunch 101 { image := 4096, cls := 2 } (.ready 0) 0 anImage with abandoned := true }] }
     match s.launch? 101 with
     | some l => s.readyNow l && s.placing l.lrec l.img == .place 1 0 && s.netHeld l (newRegion s.ids l 1 0 l.lrec.cls)
     | none => false) = true ∧
    (let s := (small).launched { image := 4096, cls := 2, phint := true } (.ready 0) 0 anImage
     match s.launch? 100 with | some l => s.placing l.lrec l.img == .wait | none => false) = true ∧
    (let s := (small).launched { image := 4096, cls := 2, phint := true, ox := 64 } (.ready 0) 0 anImage
     match s.launch? 100 with | some l => s.placing l.lrec l.img == .dead | none => false) = true ∧
    (let s := ((small).launched { image := 4096, cls := 2 } (.loading 5) 1 anImage)
     match s.launch? 100 with | some l => l.state == .loading 5 && (s.region? l.region).isSome && l.save.isNone && !l.lrec.preload | none => false) = true := by
  decide +kernel

/-- A timed launch on its reservation, and a launch that follows on a running one of its size and origin. -/
theorem witness_LaunchSteps_warm :
    (let s : State := { small (fun g => { g with live := false, named := true, taskid := 3, launch := 100 }) with
       tasks := [(3, { state := .reserved, loaded := true, launch := 100 })]
       launches := [aLaunch 100 { preload := true, named := true, taskid := 3 } .ended 1 {}, aLaunch 101 { image := 4096, budget := 9, taskid := 3 } (.ready 0) 0 anImage] }
     match s.launch? 101 with
     | some l => s.readyNow l && l.lrec.timed && (match s.reservation 3 with | some g => !g.live && (s.task 3).state == .reserved | none => false)
     | none => false) = true ∧
    (let s0 := (small).launched { cls := 2 } .running 1
     let s : State := { s0 with launches := s0.launches ++ [aLaunch 101 { image := 4096, cls := 2, phint := true } (.ready 0) 0 { anImage with solo := false }] }
     match s.launch? 101 with
     | some l => s.readyNow l && !l.lrec.timed && (match s.leader l.lrec l.img with | some g => g.id == 1 | none => false) && s.regions.all fun r => r.id != s.ids
     | none => false) = true ∧
    (let s0 := (small).launched { cls := 2 } .running 1
     let f : Region := { id := 2, predecessor := some 1, launch := 101 }
     let s : State := { s0 with regions := s0.regions ++ [f], launches := [aLaunch 101 { cls := 2 } (.loading 0) 2 {} (some 100)] }
     match s.launch? 101 with
     | some l => l.followOf.isSome && (match s.region? l.region with | some f => s.shadowsFree f && f.ending.isNone && !s.netHeld l f | none => false)
     | none => false) = true := by decide +kernel

/-- A launch that waits for the network to follow, or to be loaded behind the launch it follows, as an abandoned one may. -/
theorem witness_LaunchSteps_held :
    (let s0 := (small fun g => { g with cls := 1 }).launched { cls := 1 } (.loading 99)
     let l : Launch := { aLaunch 101 { image := 4096, cls := 2 } (.loading 0) 2 anImage (some 100) with abandoned := true }
     let f : Region := { newRegion 2 l 0 0 2 with predecessor := some 1 }
     let s : State := { s0 with regions := s0.regions ++ [f], launches := s0.launches ++ [l] }
     s.netHeld l f && s.netHeld l (newRegion s.ids l 0 0 2)) = true := by decide +kernel

/-- A launch that may follow: at its place, waiting for room in the save pool, and one whose tile is fenced. -/
theorem witness_LaunchSteps_follow : ([(15, 0xFF, .place 0 0), (13, 0xFF, .wait), (0, 0, .dead)] : List (Word × Nat × Placing)).all (fun p =>
    let s0 := (small).launched { cls := 2 } .running 1
    let s : State := { s0 with faults := { svcfg := p.1, repair := List.replicate 4 { tiles := [(0, p.2.1)] } }
                               launches := s0.launches ++ [aLaunch 101 { image := 4096, cls := 2, phint := true } (.ready 0) 0 { anImage with solo := false }] }
    match s.launch? 101 with
    | some l => (match s.leader l.lrec l.img with
      | some g => s.following l.lrec l.img g == p.2.2 && !s.netHeld l (newRegion s.ids l 0 0 l.lrec.cls)
      | none => false)
    | none => false) = true := by decide +kernel

/-- ADDRESS_TRANSLATE of an admitted and of a refused address, FAULT_HOLD_EXPIRY, XINV_DONE, the copy and the end of a migration. -/
theorem witness_OwnerSteps :
    (let a := anAccess .load .toOwner
     let s : State := { (small).mapped with accesses := [a] }
     s.access? 50 == some a && decide (a.due ≤ s.tick) && (s.translate (s.agentFor a) a.va a.wr false false).1 == .pa (2 ^ 20 + 64) && !s.migrates a.va) = true ∧
    (let a := anAccess .store .toOwner
     let s : State := { (small).mapped with accesses := [a], xl := { small.mapped.xl with mig := some ⟨0, 2 ^ 22, false, 0, 0⟩ } }
     let r := s.translate (s.agentFor a) a.va true false false
     a.wr && r.1 == .pa (2 ^ 20 + 64) && r.2.migrates a.va) = true ∧
    (let a := anAccess .store .toOwner
     let s : State := { small with accesses := [a] }
     (s.translate (s.agentFor a) a.va a.wr false false).1 == .fail 0x301) = true ∧
    (let a := anAccess .store (.withheld 0x305 0)
     let s : State := { small with accesses := [a] }
     decide (s.holdTicks 1 0x305 ≤ s.tick) && (match s.region? 1 with | some g => g.freeze.isNone && g.ending.isNone | none => false)) = true ∧
    (let s : State := { (small).mapped with xl := { small.mapped.xl with xinvBusy := true, mig := some ⟨0, 2 ^ 22, false, 0, 0⟩ } }
     s.xl.xinvBusy && (match s.lookup 0 false with | .leaf x => s.copyReady x && x.entries.all (fun e => decide (e.1 + 8 ≤ 2 ^ 22)) | _ => false)) = true ∧
    (let s : State := { small with xl := { mig := some ⟨0, 2 ^ 22, true, 0, 4096⟩ } }
     match s.xl.mig with | some m => m.published && s.accesses.all fun a => !a.reading m.old m.size | none => false) = true := by decide +kernel

/-- An access and its fire. -/
def arriving (a : Access) (i : Instr := .nop noOp) (fr : Region → Region := id) : State := { small fr with accesses := [a], flights := [aFlight i .reply] }

/-- STORE_ARRIVAL to a local part and held at a port, ATOMIC_PERFORM, MEMORY_REPLY from memory and to the fire, BOUNDS_LOADED. -/
theorem witness_NodeSteps :
    ([(Config.scratchBase, id), (2 ^ 20, fun g => { g with hdr := { g.hdr with holdsz := 4 } })] : List (Nat × (Region → Region))).all (fun p =>
      let a := anAccess .store (.toNode p.1)
      let s := arriving a (.nop noOp) p.2
      s.reaches a == some p.1 && s.access? 50 == some a &&
        (match s.region? 1 with | some g => isHbm p.1 == false || (decide (g.passed ≤ a.inv) && decide (s.heldAt g.id (portOf p.1) < g.holdsz)) | none => false))
      = true ∧
    (let a := anAccess (.atomic 0 0) (.toNode (2 ^ 20)); let s := arriving a
     s.reaches a == some (2 ^ 20) && s.held.isEmpty && !s.poisoned (2 ^ 20) a.size) = true ∧
    (let a := anAccess .load (.toNode (2 ^ 20)); let s := arriving a
     s.reaches a == some (2 ^ 20) && !s.poisoned (2 ^ 20) a.size) = true ∧
    (let a := anAccess .load (.answered (2 ^ 20)); let s := arriving a
     (s.flight? a.fire).isSome && decide (a.due ≤ s.tick)) = true ∧
    (let a := anAccess .bounds (.toNode (2 ^ 20)) 32; let s := arriving a (.bounds noOp)
     s.reaches a == some (2 ^ 20) && boundsSound (s.readAccess a (2 ^ 20))) = true ∧
    (let a := anAccess .bounds (.toNode (2 ^ 20)) 32; let s : State := { arriving a (.bounds noOp) with poison := [2 ^ 14] }
     s.reaches a == some (2 ^ 20) && s.poisoned (2 ^ 20) a.size && (match s.region? 1 with | some g => g.faultable | none => false)) = true ∧
    (let a := anAccess .bounds (.toNode (2 ^ 20)) 32; let s := (arriving a (.bounds noOp)).perform (2 ^ 20) [1]
     s.reaches a == some (2 ^ 20) && !boundsSound (s.readAccess a (2 ^ 20)) && !s.poisoned (2 ^ 20) a.size && (match s.regionOf 0 with | some g => g.faultable | none => false)) = true := by
  decide +kernel

/-- A word of memory in the first page's frame. -/
def wordAt (w : Word) (s : State) : State := s.perform (2 ^ 20) (natLe 8 w.toNat)

/-- SYNC_REQUEST of ACQ and ACQS, free, held and at the greatest count; of a REL with and without a holder. -/
theorem witness_SyncSteps_requests :
    ([(.acq, 0, 0), (.acqs, 0x7FFE000000000000, 0), (.acq, 0x1000000000000, 0), (.acqs, 0x7FFF000000000000, 0), (.rel, 0x8000000000000000, 0), (.rel, 0, 0),
      (.rel, 0x1000000000000, 16)] : List (AccKind × Word × LinkWord)).all (fun p =>
      let a := anAccess p.1 (.toNode (2 ^ 20)) 8 p.2.2
      let s := wordAt p.2.1 (arriving a (.rel noOp))
      s.reaches a == some (2 ^ 20) && s.sync.isEmpty && s.poison.isEmpty && s.double (2 ^ 20) == p.2.1.toNat) = true ∧
    (let a := anAccess .rel (.toNode (2 ^ 20))
     let s : State := { arriving a (.rel noOp) with poison := [2 ^ 14] }
     s.reaches a == some (2 ^ 20) && s.poisoned (2 ^ 20) 8 && (s.flight? a.fire).isSome && (match s.region? a.region with | some g => g.faultable | none => false)) = true := by decide +kernel

/-- REL_UPDATE of a REL and of a NOTIFY, to a register that is EMPTY and one that waits; WAITV_TEST and WAITV_RETRY; BARRIER_OPEN. -/
theorem witness_SyncSteps_updates :
    (let a := anAccess .rel (.queued (2 ^ 20)); let s := wordAt 0x8000000000000000 (arriving a)
     s.releasable a.elem a.ctx a.fire && s.sync.isEmpty) = true ∧
    (let a := anAccess (.notify 7) (.toNode 0); let s := arriving a
     s.releasable a.elem a.ctx a.fire && s.notifyTurn a && (s.wake 7).state == 0) = true ∧
    (let a := anAccess (.notify 7) (.toNode 0); let s : State := { arriving a with wakes := [(7, { state := 2, fire := 40 })] }
     (s.wake 7).state == 2 && (s.flight? (s.wake 7).fire).isSome) = true ∧
    (let a := anAccess .waitv (.toNode (2 ^ 20)) 8 5; let s := wordAt 5 (arriving a)
     s.reaches a == some (2 ^ 20) && decide (a.data.toNat % 2 ^ 64 ≤ s.double (2 ^ 20))) = true ∧
    (let a := anAccess .waitv (.tested (2 ^ 20)) 8 5; let s := wordAt 4 (arriving a)
     decide (a.due ≤ s.tick) && !decide (a.data.toNat % 2 ^ 64 ≤ s.double (2 ^ 20))) = true ∧
    (let f := aFlight (.bar noOp) (.bar 0 0)
     let s : State := { small (fun g => { g with hier := [⟨0, 0⟩] }) (fun x => { x with ctxs := x.ctxs.map fun c => { c with bars := [1] } }) with flights := [f] }
     match s.region? 1 with
     | some g => s.flight? 40 == some f && s.allArrived g 0 0 0 0 && (s.atBarrier g 0 0 0 0).all fun h => decide (h.decided < s.tick) && s.releasable h.elem h.ctx h.id
     | none => false) = true := by decide +kernel

/-- An access with a link on its way to its weir. -/
def linked (pred succ : Nat) (wave : Nat := 0) (st : Stage := .toWeir (2 ^ 20)) : Access := anAccess .load st 8 0 (some ⟨1, 5, pred, succ, wave⟩)

/-- CHAIN_ARRIVAL of a head, of one that must wait, beyond the quota, with `?` on both sides, and of a wave too far ahead. -/
theorem witness_ChainSteps_arrivals :
    (let a := linked 0xFE 6; let s := arriving a; let x := s.chain 1 1
     x.heads { chain := 1, seq := 5, pred := 0xFE, succ := 6, wave := 0 } && (match s.region? 1 with | some g => g.faultable | none => false) &&
       (x.check (x.released ++ s.bufferedLinks x 0) { chain := 1, seq := 5, pred := 0xFE, succ := 6, wave := 0 }).isNone) = true ∧
    (let a := linked 4 6; let s := arriving a; let x := s.chain 1 1
     !x.heads { chain := 1, seq := 5, pred := 4, succ := 6, wave := 0 } && (x.check (x.released ++ s.bufferedLinks x 0) { chain := 1, seq := 5, pred := 4, succ := 6, wave := 0 }).isNone
       && decide (x.buffered.length < chainQuota x.id)) = true ∧
    (let a := linked 4 6; let s : State := { arriving a with chains := [{ region := 1, id := 1, buffered := List.range 600 }] }; let x := s.chain 1 1
     decide (chainQuota x.id ≤ x.buffered.length)) = true ∧
    (linked 0xFF 0xFF).chainLink.pred = 0xFF ∧ ((256 + 2 ^ 16 - (small.chain 1 1).wave) % 2 ^ 16) = 256 := by decide +kernel
/-- CHAIN_RELEASE of a buffered head, and GAP_STALL of a chain whose head has not come. -/
theorem witness_ChainSteps_releases :
    (let a := linked 0xFE 6 0 (.atWeir (2 ^ 20))
     let s : State := { arriving a with chains := [{ region := 1, id := 1, buffered := [50] }] }
     s.candidate (s.chain 1 1) == some a && !s.weirUsed (s.weirOf 1 1) && s.nextChain (s.weirOf 1 1) == some (s.chain 1 1)) = true ∧
    (let a := linked 4 6 0 (.atWeir (2 ^ 20))
     let s : State := { arriving a with tick := 65536, chains := [{ region := 1, id := 1, buffered := [50] }] }
     let x := s.chain 1 1
     s.inGap x && decide (max x.thawed (max x.lastRel x.firstBuf) + s.gapTicks ≤ s.tick) && x.gapDone.isNone && (match s.region? 1 with | some g => !s.frozen g | none => false)) = true
    := by decide +kernel

/-- An element whose record stands in memory, read again. -/
def refetching (crc : Word32) : State :=
  ({ (small id fun x => { x with active := { x.active with recAddr := 4096, recLen := 16, crc := crc } }) with
      mem := (((small).mapped).perform (2 ^ 20 + 4096) (soloImage.drop 128)).mem, xl := small.mapped.xl }).launched {} .running 1 anImage

/-- SLOT_PARITY_REFETCH of a record that is as it was, DATA_LOST, CLOCK_GATE, TILE_WAKE, POWER_GATE, CONTROL_STORE_WRITE over a running and a frozen region. -/
theorem witness_ErrorSteps :
    (let c := crc32c ((soloImage.drop 128).take 16)
     let s := refetching c
     (s.elem 0).loaded && !(s.elem 0).patched && (match s.recordAgain 0 with | (some b, _) => crc32c b == (s.elem 0).active.crc | _ => false) &&
       (s.elem 0).active.slots.length == 16) = true ∧
    (match small.regionOf 0 with | some g => g.faultable && (small.elem 0).loaded && !small.frozen g | none => false) = true ∧
    (let s : State := { small id (fun x => { x with active := {} }) with tick := 266 }
     !(s.tile 0).gated && (s.tile 0).wakeAt.isNone && (s.tile 0).region.isSome && (s.tile 0).shadowOf.isNone && s.noToken 0 && !s.swageWaits 0 && s.noWork 0 && !s.stirs 0 &&
       decide ((s.tile 0).idleFrom + 256 ≤ s.tick) && (tileElems 0).all fun e => decide ((s.elem e).decided + 256 ≤ s.tick)) = true ∧
    (let s := (small id fun x => x.modIn 0 fun c => { c with arriving := [{}] }).withTile fun t => { t with gated := true }
     (s.tile 0).wakeAt.isNone && (s.tile 0).gated && !s.noToken 0) = true ∧
    (let s := (small).withTile fun t => { t with gated := true, wakeAt := some 9 }
     (s.tile 0).wakeAt == some 9) = true ∧
    (!(small.tile 7).powerOff && (small.tile 7).region.isNone && (small.tile 7).shadowOf.isNone && small.regions.all fun g => !g.holds 7) = true ∧
    (let s := small fun g => { g with freeze := some (.fault 9) }
     let w : StoreWrite := { slots := [(0, 0, 0x00A53300, 1)], lits := [] }
     match s.regionOf 0 with | some g => s.frozen g && (s.storeCheck 0 ((s.elem 0).active.written w)).isNone | none => false) = true ∧
    (let s := (small fun g => { g with freeze := some (.fault 9) }).launched {} .running 1 anImage
     let w : StoreWrite := { slots := [(0, 0, 0x0FA53300, 1)], lits := [] }
     s.storeCheck 0 ((s.elem 0).active.written w) == some 6) = true := by decide +kernel

/-- A command at a unit. -/
def aCmd (opc : Nat) (a b : Word := 0) : Cmd := { opc := opc, a := a, b := b, fire := 40, elem := 0, ctx := 0, slot := 0, region := 1, cls := 2, inv := 0 }

/-- A machine with matrix node 0 in a state. -/
def noding (x : MxNode) (fr : Region → Region := id) : State := { small fr with nodes := [(0, x)] }

/-- The commands of a matrix node: sending out, acceptance of an RPTSET, the two parts of a weight load, the exchange of the planes. -/
theorem witness_MatrixSteps_commands :
    (let f := { aFlight (.mclr noOp) (.unitSend 256) with due := none }
     let s : State := { small with flights := [f] }
     s.flight? 40 == some f && s.maySend f 256) = true ∧
    (let f := aFlight (.rptset noOp) (.unitSend 256) 1
     let s : State := { small with flights := [f] }
     f.opc == 0xC6 && s.firstAt f 256 && !s.holdsUnit 40 && decide ((s.node 0).held < 16) && decide (bits f.a.toNat 17 16 < (s.node 0).repeats.length)) = true ∧
    (let f := { aFlight (.mmode noOp) (.unitSend 256) 2 with }
     let s : State := { noding { cmds := [aCmd 0xC1] } with flights := [f] }
     f.opc == 0xC3 && s.firstAt f 256 && !s.holdsUnit 40 && decide ((s.node 0).held < 16)) = true ∧
    (let l : Loading := { cmd := aCmd 0xC0 0 0x80, due := 3, tile := none }
     let s := (noding { loading := some l }).mapped
     (match s.unitRead 1 16 0 (tileBytes l.cmd) with | .done (_, false) _ => true | _ => false) && !(s.node 0).stopped) = true ∧
    (let c := aCmd 0xC1
     let s := noding { cmds := [c], mloads := 1, shadow := some ⟨8, 1, 0, [], []⟩ }
     (s.node 0).cmds == [c] && (s.node 0).swappable s.tick) = true := by decide +kernel

/-- A stream of one BF16 vector of K = 1. -/
def aStream (i : List (Nat × List Word32 × BitVec 6)) (m : Nat := 2) (st : Nat := 0) : Stream :=
  { cmd := aCmd 0xC2, fmt := 8, k := 1, m := m, base := 3, mode := 1, started := st, written := 0, lastIn := 0, popped := 0, inside := i }

/-- VECTOR_START, ROW_WRITE, MDRAIN_EMIT of a word and of the end, REPEAT_CAPTURE. -/
theorem witness_MatrixSteps_vectors :
    (let st := aStream []
     let k : Token := { val := { fmt := 8 } }
     let s := noding { streams := [st], active := some ⟨8, 1, 0, [], []⟩, acts := List.replicate 4 [k] }
     (s.node 0).current == some (0, st) && ((s.node 0).badPort st s.tick).isNone && ((s.node 0).entry s.free s.tick).isSome) = true ∧
    (let st := aStream [(0, List.replicate 128 1, 0)] 2 1
     let s : State := { noding { streams := [st] } with tick := 260 }
     decide (0 + 260 ≤ s.tick) && (s.node 0).spill.isEmpty && decide (st.written + 1 ≠ st.m)) = true ∧
    (let d : Drain := { cmd := aCmd 0xC4, dfmt := 0, base := 0, n := 1, word := 0 }
     let s := noding { drain := some d } fun g => { g with wires := [⟨⟨true, 8, 0, tileX (nodeTile 0), tileY (nodeTile 0)⟩, ⟨false, 0, 0, 0, 0⟩, false, 0, false, 1⟩] }
     (s.node 0).mayEmit d s.tick && s.resultWired d.cmd 0 0 && (s.node 0).outs.length == 2) = true ∧
    (let d : Drain := { cmd := aCmd 0xC4, dfmt := 0, base := 0, n := 1, word := 4 }
     let s : State := { noding { drain := some d } with flights := [aFlight (.mdrain noOp) (.unit 256)] }
     decide (d.total ≤ d.word) && (s.node 0).outs.all List.isEmpty && (s.node 0).cmds.isEmpty && (s.flight? 40).isSome) = true ∧
    (let s := noding { repeats := { inq := [{}] } :: List.replicate 3 {} }
     ((s.node 0).repeats.getD 0 {}).inq == [{}] && (s.node 0).acts.length == 4 && (s.node 0).repeats.length == 4 && (s.node 0).marks == 0) = true := by decide +kernel

/-- A machine with copy engine 0 in a state, and pages from address 0 on in a global part. -/
def copying (x : CopyEngine) : State :=
  { small with
    engines := [(0, x)]
    mem := memPut small.mem (2 ^ 19) 1
    xl :=
      { small.xl with
        spanmap := 2 ^ 19
        cache := [{ page := 0, size := 2 ^ 16, frame := slicePa 0 Config.globalBase, gid := 0, dom := 0, w := true, leaf := 0, cont := false, d := true, count := 0 }] } }

/-- The descriptor of all zeros but for its region scratch sides: one byte copied from scratch address 0 to itself. -/
def aDesc : Desc := { descOf (List.replicate 128 0) with skind := 3, dkind := 3 }

/-- A running command. -/
def aRun (tile : Nat) (pub cnt : Bool) : Running :=
  { cmd := aCmd 0xD0, desc := aDesc, tile := tile, freed := 0, written := 0, shadows := [], published := pub, counted := cnt }

/-- The steps of a copy engine: acceptance of CPY and CPYQ, the start of a command, a tile, the two ends, a spilled command, a retired frame. -/
theorem witness_CopySteps :
    ([(.cpy noOp, 0xD0), (.cpyq { noOp with d1 := .d 1 }, 0xD9)] : List (Instr × Nat)).all (fun p =>
      let f := aFlight p.1 (.unitSend 512)
      let s : State := { small with flights := [f] }
      f.opc == p.2 && s.firstAt f 512 && !s.holdsUnit 40 && (s.engine 0).spilled.isEmpty && (p.2 != 0xD9 || f.wantsReply)) = true ∧
    (let c := aCmd 0xD0
     let s := copying { queue := [c] }
     match s.region? 1, (s.engine 0).next with
     | some g, some c => (match s.unitRead g.id 2 0 64 with
       | .done (h, false) s1 => (match s1.unitRead g.id 2 64 64 with
         | .done (r, false) s2 => s2.inDescriptorPages 0 2 && (descOf (h ++ r)).sound g c.opc (h ++ r) && (match s2.readRecord g.id (descOf (h ++ r)) with
           | .ok d s3 => (s3.indexHeld g.id d c.opc).isNone && d.scratchOk g (s3.peekIndex g.id d) c.opc | _ => false)
         | _ => false)
       | _ => false)
     | _, _ => false) = true ∧
    (let r := aRun 0 false false
     let s := copying { running := [r] }
     match s.region? 1 with
     | some g => r.open && !s.holdsUnit 40 && g.cut == .none && (match s.moveElems 0 r g [] 0 1 with | .ok _ _ _ => true | _ => false)
     | none => false) = true ∧
    ([(false, false), (true, true)] : List (Bool × Bool)).all (fun p =>
      let r := aRun 1 p.1 p.2
      let s := copying { running := [r] }
      (s.publishReady 0).isNone && r.tile == r.desc.tiles && (s.lostPage r.shadows).isNone && !s.holdsUnit 40) = true ∧
    (let s := copying { spilled := [aCmd 0xD0] }
     (s.engine 0).spilled == [aCmd 0xD0] && decide ((s.engine 0).queue.length < 256)) = true ∧
    (let s : State := { small with frames := [(2, { retiring := [4096], rf := { cfg := 9 } })] }
     (s.frame 2).retiring == [4096] && (s.frame 2).rf.en && !(s.frame 2).rf.full && !s.frameHeld 4096) = true ∧
    (let s : State := { small with frames := [(2, { retiring := [2 ^ 20], rf := { cfg := 9 } })], accesses := [{ anAccess .load (.toNode (2 ^ 20)) with left := 11 }] }
     s.frameHeld (2 ^ 20)) = true := by decide +kernel

/-- A participant of group 5 on die 0. -/
def aPart (sound : Bool) (nm1 len pos : Nat) : Participant :=
  { cmd := aCmd 0xD7, arg := false, sound := sound, root := 0, bcast := false, rop := 0, nm1 := nm1, rank := 0, group := 5, src := 0, dst := 0, len := len
    cwaddr := 0, cwval := 0, cwen := false, cnten := false, task := 0, remote := false, data := [], told := false, pos := pos, shadows := [] }

/-- COLLECTIVE_RUN: records that do not fit, a group that is not complete, and one that has moved every byte. -/
theorem witness_CopySteps_collectives :
    ([(false, 0, true, true), (true, 1, false, false), (true, 0, false, true)] : List (Bool × Nat × Bool × Bool)).all (fun p =>
      let s : State := { small with colls := [(0, [aPart p.1 p.2.1 4096 4096])] }
      let l := s.group 5
      (l.map (·.1)) == [0] && !s.collHeld l && (untold 5 l).isNone && mismatched (l.map (·.2)) == p.2.2.1 && groupComplete (l.map (·.2)) == p.2.2.2) = true := by
  decide +kernel

/-- A fire of a sequence command at its home, in slot 0. -/
def seqing (i : Instr) (q : SeqSlot) (a b : Word := 0) : State :=
  { small id (fun x => { x with ctxs := x.ctxs.map fun c => { c with seqid := 0x4000 } }) with
    flights := [aFlight i (.unitSend (256 * 5)) a b], seq := { slots := [(0, q)] } }

/-- Sequence commands at their home: a slot that is not enabled, STT below and at V, POSADV without a token, with one, and in a full block, HALLMARK
of a full block and of one that is not, GMASK of 0, KVFIND without a table, TOKREC and LOGREC of an empty register. -/
theorem witness_SequenceHomes :
    ([(.stt noOp, { v := 8 }, 7, false), (.stt noOp, { en := true, v := 8 }, 7, true), (.stt noOp, { en := true, v := 8 }, 8, true), (.posadv noOp, { en := true }, 0, true),
      (.posadv noOp, { en := true, st := List.replicate 4 { kind := 1 }, nblk := 63 }, 0, true),
      (.posadv noOp, { en := true, st := List.replicate 4 { kind := 1 }, nblk := 64 }, 0, true), (.hallmark noOp, { en := true, nblk := 64 }, 0, true),
      (.hallmark noOp, { en := true, nblk := 63 }, 0, true), (.gmask noOp, { en := true }, 0, true), (.kvfind noOp, { en := true }, 0, true),
      (.tokrec noOp, { en := true }, 0, true), (.logrec noOp, { en := true }, 0, true)] : List (Instr × SeqSlot × Word × Bool)).all (fun p =>
      let s := seqing p.1 p.2.1 p.2.2.1
      match s.flight? 40, s.region? 1 with
      | some f, some g => s.slotOfFire f == 0 && s.firstAt f (256 * 5) && !s.holdsUnit 40 && !s.slotLost 0 && g.faultable &&
          ((s.seqSlot 0).en && ((s.seqSlot 0).gid == 0 || (s.seqSlot 0).gid == g.hdr.gid)) == p.2.2.2
      | _, _ => false) = true := by decide +kernel

/-- A slot whose record cannot be read. -/
theorem witness_SequenceHomes_lost :
    (let s : State := { seqing (.stt noOp) {} with seq := { seqbase := 2 ^ 20 }, poison := [2 ^ 14] }
     match s.flight? 40 with | some f => s.slotOfFire f == 0 && s.firstAt f (256 * 5) && s.slotLost 0 | none => false) = true := by decide +kernel

/-- The mask of a COLLAPSE: a grant of a poisoned object, one of an older generation, a change of its object, a deadline that has passed. -/
theorem witness_SequenceHomes_mask :
    (let a := { anAccess .mask (.answered (2 ^ 20)) with poison := true }
     let s : State := { (seqing (.collapse noOp) { en := true }) with accesses := [a], flights := [aFlight (.collapse noOp) (.mask 0 64 3 9)] }
     s.maskAsk 40 == some a && decide (a.due ≤ s.tick) && !s.holdsUnit 40 && (match s.region? 1 with | some g => g.faultable | none => false)) = true ∧
    (let a := anAccess .mask (.answered (2 ^ 20))
     let s := wordAt 0x1000000000000 { (seqing (.collapse noOp) { en := true }) with accesses := [a], flights := [aFlight (.collapse noOp) (.mask 0 64 3 9)] }
     s.maskAsk 40 == some a && !s.holdsUnit 40 && decide (a.reply.toNat % 2 ^ 48 < 3) && !a.poison && s.sync.isEmpty && decide (2 ^ 48 ≤ s.double (2 ^ 20))) = true ∧
    (let a := anAccess .mask (.tested (2 ^ 20))
     let s := wordAt 1 { (seqing (.collapse noOp) { en := true }) with accesses := [a], flights := [aFlight (.collapse noOp) (.mask 0 64 3 9)] }
     s.maskAsk 40 == some a && decide (s.double (2 ^ 20) ≠ a.reply.toNat) && (match s.region? 1 with | some g => g.faultable | none => false) && decide (9 < s.tick) && !(aFlight (.collapse noOp) (.mask 0 64 3 9)).granted) = true ∧
    (let a := anAccess .mask (.answered (2 ^ 20))
     let f := aFlight (.stt noOp) (.mask 0 64 0 9) 5
     let s : State := { (seqing (.stt noOp) { en := true, v := 8 }) with accesses := [a], flights := [f] }
     s.maskAsk 40 == some a && !a.poison && !s.slotLost (s.slotOfFire f) && (match s.region? 1 with
       | some g => (match seqRun true ⟨g, f, s.slotOfFire f⟩ s (s.seqSlot (s.slotOfFire f)) with
         | .done u _ _ _ _ => (u.flight? 40).isSome && u.waitv.isEmpty && u.sync.isEmpty
         | _ => false)
       | none => false)) = true := by decide +kernel

/-- A save of the region's launch. -/
def aSave : Save :=
  { id := 70, launch := 100, cutno := 1, since := 5, blocks := [], region := { id := 9, launch := 100 }, elems := [], flights := [], accesses := [], steps := []
    locals := [], poison := [], chains := [], nodes := [], copies := [] }

/-- CUT_START, ELEMENT_SNAPSHOT of an element and of a node, INPUT_CLOSE, CUT_COMPLETE with and without a save. -/
theorem witness_CutSteps_cut :
    (let s := small fun g => { g with freeze := some (.fault 9) }
     match s.region? 1 with | some g => s.cutReady g | none => false) = true ∧
    (let s := small fun g => { g with freeze := some (.fault 9), cut := .running 5 }
     match s.regionOf 0 with | some g => s.inCut g && (s.elem 0).loaded && !(s.elem 0).snapped && s.snapReady 0 && shaped (s.elem 0) | none => false) = true ∧
    (let t := nodeTile 0
     let s : State := { small (fun g => { g with cut := .running 5, hdr := { g.hdr with claims := [⟨1, tileX t, tileY t⟩] } }) with tiles := [(t, { region := some 1 })] }
     match s.region? 1 with | some g => nodeOf t == some 0 && s.inCut g && (g.claimed 1).contains 0 && (s.node 0).cuttable | none => false) = true ∧
    (let s := small (fun g => { g with cut := .running 5, wires := [⟨⟨false, 0, 1, 0, 0⟩, ⟨false, 0, 0, 0, 0⟩, false, 0, false, 1⟩] })
       fun x => { x.modIn 0 fun c => { c with marks := 1 } with snapped := true }
     match s.regionOf 0 with | some g => g.wiredIns 0 == [0] && decide ((g.into 0 0).length ≤ ((s.elem 0).in_ 0).marks) && !((s.elem 0).in_ 0).closed | none => false) = true ∧
    ([true, false] : List Bool).all (fun b =>
      let s : State := { (small (fun g => { g with freeze := some (if b then .fault 9 else .preempt), cut := .running 5 }) fun x => { x with snapped := true, saved := true }).launched
        with faults := { svcfg := if b then 1 else 0 } }
      match s.region? 1 with | some g => s.cutDone g && s.savable g == b && (s.launch? g.launch).isSome | none => false) = true := by decide +kernel

/-- PREEMPT, the two parts of RESTORE, and the three dispositions. -/
theorem witness_CutSteps_dispositions :
    (let s0 := (small fun g => { g with cls := 3 }).launched { cls := 3 }
     let s : State := { s0 with tick := 10 ^ 9, faults := { svcfg := 17 }
                                launches := s0.launches ++ [aLaunch 101 { image := 4096, cls := 1, phint := true } (.ready 0) 0 anImage] }
     match s.launch? 101 with
     | some l => s.impatient l && s.placing l.lrec l.img == .wait && (match s.enough l s.victims s.victims.length with
       | some c => c.length == 1 && c.all fun v => !s.loadingAt v
       | none => false)
     | none => false) = true ∧
    (let s0 := (small fun g => { g with cls := 3, live := false }).launched { cls := 3 } (.loading (10 ^ 9 + 9))
     let s : State := { s0 with tick := 10 ^ 9, launches := s0.launches ++ [aLaunch 101 { image := 4096, cls := 1, phint := true } (.ready 0) 0 anImage] }
     match s.launch? 101 with
     | some l => s.impatient l && s.placing l.lrec l.img == .wait && (match s.enough l s.victims s.victims.length with
       | some c => c.length == 1 && c.all fun v => s.loadingAt v
       | none => false)
     | none => false) = true ∧
    (let l0 := { aLaunch 100 { cls := 2 } (.ready 3) 1 anImage with save := some 70 }
     let s : State := { small with launches := [l0], faults := { saves := [aSave] } }
     match s.launch? 100 with
     | some l => s.saveOf l == some aSave && s.saveSound aSave && l.again.isNone && s.placeAgain l aSave.region == .place 1 0 &&
         !s.netHeld l { aSave.region with ox := 1, oy := 0 }
     | none => false) = true ∧
    (let l0 := { aLaunch 100 { cls := 2 } (.loading 3) 1 anImage with save := some 70 }
     let s : State := { small with launches := [l0], faults := { saves := [aSave] } }
     match s.launch? 100 with
     | some l => s.saveOf l == some aSave && (match s.region? l.region with
       | some g => g.brk.isNone && (s.fetchToken g.id).isNone && (aSave.planes g).isEmpty && aSave.flights.isEmpty
       | none => false)
     | none => false) = true ∧
    ([0, 1, 2] : List Nat).all (fun d =>
      let r : FaultRec := { id := 60, code := 0x101, launch := 100, region := 1, saved := true, slotAddr := 8192, delivered := true }
      let s : State := { small (fun g => { g with freeze := some (.fault 60), launch := 100 }) with
        launches := [{ aLaunch 100 { cls := 2, restart := true } .running 1 anImage with save := some 70 }]
        faults := { records := [r], saves := [aSave], dispose := [(8192, d)] } }
      s.record? 60 == some r && s.dispositionOf r == some d && (match s.region? 1 with
        | some g => g.ending.isNone && !g.restartable && g.launch == r.launch && g.stands r && g.follow.isNone && s.fit anImage g.ox g.oy g.id == .ok
        | none => false)) = true ∧
    (let s : State := { small with faults := { repair := List.replicate 4 { tiles := [(0, 0)] } } }
     match s.region? 1 with | some g => s.fit anImage g.ox g.oy g.id != .ok | none => false) = true := by
  decide +kernel
/-- The debugger: before and at STOPTICK, a walk that begins, one under way, none to begin, a break that is oldest. -/
theorem witness_DebugSteps :
    live.mgmt.ready = true ∧
    (let s : State := { small with dbg := { arm := true, stoptick := 10 } }
     s.dbg.arm && !s.dbg.stopped && s.now == s.dbg.stoptick && ({ s with phase := 0 } : State).phase == 0) = true ∧
    (let s : State := { live with dbg := { stopped := true } }
     s.mgmt.ready && s.dbg.stopped) = true ∧
    (let s : State := { small id (fun x => { x with notes := [{}] }) with mgmt := { ready := true } }
     (s.elem (elemKey (tileKey 0 0) 0)).walks.isEmpty && (s.elem 0).notes.getLast? == some {}) = true ∧
    (let s := small id fun x => { x with walks := [{}] }
     (match (s.elem 0).walks with | [w] => !w.virt | _ => false) && !s.dbg.trcfg.getLsbD 0) = true ∧
    (let r : FaultRec := { id := 60, code := 0x202, region := 1, slotAddr := 8192, unit := 0 }
     let s : State := { small (fun g => { g with freeze := some (.brk 60), brk := some 60 }) with mgmt := { ready := true }, faults := { records := [r] }, dbg := { breaks := [60] } }
     s.oldestBreak == some r && (match s.region? 1 with | some g => g.ending.isNone && g.launch == r.launch | none => false) && (s.elem 0).region == some r.region && shaped (s.elem (elemKey (tileKey r.x r.y) r.elem))) = true := by
  decide +kernel

/-- What an application core asks. -/
def aReq (pa size : Nat) (wr : Bool) : CoreReq := ⟨pa, size, wr, 7, 0, false, false⟩

/-- The host and the cores: the last bytes of HDM and the first beyond, a device address of core 31, a reserved one, a core that waits, wake register 4095. -/
theorem witness_HostSteps :
    hdmMapped (Config.hbmSize - 8) 8 = true ∧ hdmMapped (Config.hbmSize - 7) 8 = false ∧ small.poison.isEmpty = true ∧
    (let a := anAccess .load (.hostWindow Config.hostBase); let s := arriving a
     s.access? 50 == some a && decide (a.due ≤ s.tick)) = true ∧
    (match small.coreTarget 31 (2 ^ 55 + 64) with | .device va => va == 64 && !small.coreWaits 31 | _ => false) = true ∧
    (match small.coreTarget 31 (2 ^ 55 + 4093) with | .device va => decide (4096 < va % 4096 + 4) && va % 4 != 0 | _ => false) = true ∧
    (match small.coreTarget 31 0 with | .reserved => true | _ => false) = true ∧
    (let a := { anAccess .coreLoad (.withheld 0x301 0) with core := some 3 }
     let s : State := { small with accesses := [a], tick := 10 ^ 9 }
     s.coreWaits 3 && decide (0 + s.holdTicks 0 0x301 ≤ s.tick)) = true := by decide +kernel

/-- Wake register 4095, empty, and no access of the core under way. -/
theorem witness_HostSteps_wake : (small.wake 4095).state = 0 ∧ small.coreWaits 31 = false ∧ small.accesses.isEmpty = true := by decide +kernel

/-- A link that is up, power-up, a tick of the master, a report in progress. -/
theorem witness_PackageSteps :
    (let s : State := { small with part := { links := List.replicate 18 { up := true } } }
     s.linkRuns 0 && s.linkRuns 17 && !s.linkRuns 18 && s.part.links.length == 18) = true ∧
    (State.reset.mgmt.ready = false ∧ State.reset.mgmt.fail = 0) ∧
    (let s : State := { live with tick := 65536 }
     s.part.devid == 0 && s.tick % 65536 == 0 && s.part.tickSent != s.tick + 1) = true ∧
    (let s : State := { live with part := { devid := 5, rtbase := 2 ^ 20 }, mem := [(2 ^ 20, 0xFF)] }
     s.part.devid != 0 && (s.routeTo 0).isNone && !s.part.tickLost && s.part.recovering.isNone) = true ∧
    (let s : State := { live with mgmt := { ready := true, attGo := true } }
     s.mgmt.attGo) = true := by decide +kernel

/-- A flit whose upper 64 bits are the CRC of the rest is sound. -/
theorem flit_sound (low : Nat) (h : low < 2 ^ 1984) :
    let x : Flit := BitVec.ofNat 2048 ((flitCrc low).toNat * 2 ^ 1984 + low)
    (flitCrc (x.toNat % 2 ^ 1984)).toNat = flitBits x 2047 1984 ∧ x.toNat % 2 ^ 1984 = low := by
  have hc : (flitCrc low).toNat < 2 ^ 64 := (flitCrc low).isLt
  have e : (2 : Nat) ^ 2048 = 2 ^ 64 * 2 ^ 1984 := by rw [← Nat.pow_add]
  have hb : (flitCrc low).toNat * 2 ^ 1984 + low < 2 ^ 64 * 2 ^ 1984 :=
    calc _ < (flitCrc low).toNat * 2 ^ 1984 + 2 ^ 1984 := Nat.add_lt_add_left h _
      _ = ((flitCrc low).toNat + 1) * 2 ^ 1984 := (Nat.succ_mul _ _).symm
      _ ≤ _ := Nat.mul_le_mul_right _ hc
  intro x
  have hx : x.toNat = (flitCrc low).toNat * 2 ^ 1984 + low := by
    simp only [x, BitVec.toNat_ofNat]
    rw [e]; exact Nat.mod_eq_of_lt hb
  have hm : x.toNat % 2 ^ 1984 = low := by rw [hx, Nat.mul_add_mod_self_right, Nat.mod_eq_of_lt h]
  refine ⟨?_, hm⟩
  have hd : ((flitCrc low).toNat * 2 ^ 1984 + low) / 2 ^ 1984 = (flitCrc low).toNat := by
    rw [Nat.mul_comm, Nat.mul_add_div (Nat.two_pow_pos _), Nat.div_eq_of_lt h, Nat.add_zero]
  rw [hm, flitBits, bits, hx, Nat.shiftRight_eq_div_pow, hd]
  exact (Nat.mod_eq_of_lt hc).symm

/-- A field of a flit below its CRC is one of its lower 1,984 bits. -/
theorem flit_field (x : Flit) (lo k : Nat) (h : lo + k ≤ 1984) (hk : k ≠ 0) :
    flitBits x (lo + k - 1) lo = bits (x.toNat % 2 ^ 1984) (lo + k - 1) lo := by
  have e : lo + k - 1 + 1 - lo = k := by omega
  have d : ∀ n : Nat, n / 2 ^ lo % 2 ^ k = n % 2 ^ (lo + k) / 2 ^ lo := fun n => by rw [Nat.pow_add, Nat.mod_mul_right_div_self]
  simp only [flitBits, bits, e, Nat.shiftRight_eq_div_pow, d]
  rw [Nat.mod_mod_of_dvd _ (Nat.pow_dvd_pow 2 h)]

/-- An idle flit of zeros is sound. -/
theorem zero_sound : flitCrc 0 = 0 := by
  have z : ∀ l : List Nat, l.foldl (fun c i => crc64Bit c ((0 : Nat).testBit (1983 - i))) 0 = 0 := by
    intro l; induction l with
    | nil => rfl
    | cons i l ih => simpa [crc64Bit] using ih
  exact z _

/-- An idle flit, one whose CRC field does not fit, and one for device 5 over link 3. -/
theorem witness_PackageSteps_flits :
    ((flitCrc ((0 : Flit).toNat % 2 ^ 1984)).toNat = flitBits 0 2047 1984 ∧ flitKind 0 = 0 ∧ flitSeq 0 = 0) ∧
    (let x : Flit := BitVec.ofNat 2048 (2 ^ 2000); (flitCrc (x.toNat % 2 ^ 1984)).toNat ≠ flitBits x 2047 1984) ∧
    (∃ x : Flit, (flitCrc (x.toNat % 2 ^ 1984)).toNat = flitBits x 2047 1984 ∧ flitKind x = 2 ∧ flitDst x = 5 ∧ flitSeq x = 0) ∧
    (let s : State := { State.reset with part := { rtbase := 2 ^ 20, links := List.replicate 18 { up := true } }, mem := [(2 ^ 20 + 5, 3)] }
     s.routeTo 5 == some 3 && s.linkRuns 3 && s.part.devid != 5) = true := by
  refine ⟨⟨?_, by decide +kernel, by decide +kernel⟩, ?_, ?_, by decide +kernel⟩
  · rw [show (0 : Flit).toNat % 2 ^ 1984 = 0 by decide +kernel, zero_sound]; decide +kernel
  · intro x
    rw [show x.toNat % 2 ^ 1984 = 0 by decide +kernel, zero_sound]; decide +kernel
  · have h := flit_sound (2 * 2 ^ 24 + 5 * 2 ^ 13) (by decide +kernel)
    refine ⟨_, h.1, ?_⟩
    have hm := h.2
    generalize BitVec.ofNat 2048 _ = x at hm
    have f : ∀ lo k, lo + k ≤ 1984 → k ≠ 0 → flitBits x (lo + k - 1) lo = bits (2 * 2 ^ 24 + 5 * 2 ^ 13) (lo + k - 1) lo := fun lo k h hk =>
      hm ▸ flit_field x lo k h hk
    refine ⟨(f 24 8 (by decide) (by decide)).trans (by decide), (f 13 11 (by decide) (by decide)).trans (by decide), ?_⟩
    rw [flitSeq, show flitBits x 63 48 = 0 from (f 48 16 (by decide) (by decide)).trans (by decide)]; rfl

/-- A fire of a region that may complete, with a destination register, a predicate result and flags; an FRET, with a WRSR beside it that waits. -/
theorem witness_FireCompletes :
    (let f := { aFlight (.fret noOp) .lat 8192 with res := { sr := some (10, 0) } }
     let s : State := { small id (fun x => { x with ctxs := x.ctxs.map fun c => { c with faultinfo := 8192 } }) with
       flights := [f, { aFlight (.wrsr noOp) .lat with id := 39, res := { sr := some (7, 5) } }] }
     s.flight? f.id == some f && s.completable f && (s.elem 0).region == some 1 && (match (s.elem 0).ctxs[0]? with | some c => c.regs.length == 16 && c.faultinfo == f.a | none => false))
      = true ∧
    (let f := { aFlight (.add ⟨.zero, .zero, .d 3, .none, 0, 0⟩) .lat with upd := 0x5001, res := { d1 := some {}, pred := true, flags := 4 } }
     let s : State := { small with flights := [f] }
     s.flight? f.id == some f && s.completable f && (match s.region? 1 with | some _ => true | none => false) &&
       (match (s.elem 0).ctxs[0]? with | some c => c.regs.length == 16 | none => false)) = true := by decide +kernel

/-- Memory after a step from a state with bytes in it stays canonical: the hypothesis holds of reset and of a state with a byte. -/
theorem witness_MemoryStaysCanonical : MemoryCanonical State.reset ∧ MemoryCanonical { State.reset with mem := [(5, 1)] } := by
  unfold MemoryCanonical; decide

/-- An element whose turn it is holds an ADD, and a machine in which none is. -/
theorem witness_StepRunsDecodedWord :
    (let s := setup 0x10020300 []
     s.phase == 1 && (match s.decider with
       | some c => ((s.elem c.elem).active.slot c.slot).upd.toNat.testBit 0 &&
           decide (decode (isWide c.elem) false false false ((s.elem c.elem).active.slot c.slot).op = .ok (.add ⟨.d 0, .head 0, .d 0, .none, 0, 0⟩))
       | none => false)) = true ∧
    (let s : State := { State.reset with phase := 1 }; s.phase == 1 && s.decider.isNone) = true := by decide +kernel

/-- DecodeOfEncode, EncodeOfDecode, UnassignedOpcodeRefused: a well-formed instruction with its word, and a word that decodes; a word of no opcode. -/
theorem witness_encodings :
    (Instr.add ⟨.d 0, .head 0, .d 8, .none, 0, 0⟩).wellFormed false false = true ∧ encode (.add ⟨.d 0, .head 0, .d 8, .none, 0, 0⟩) = some (0x10020300, true, false) ∧
    decode false false true false 0x10020300 = .ok (.add ⟨.d 0, .head 0, .d 8, .none, 0, 0⟩) ∧ (mkInstr 0x0F default).isNone = true := by decide

/-- AtomicStep, TrapTaken: a fire that may trap. -/
theorem witness_decisions_traps : decided (setup 0x10020300 []) (fun v => v.g.faultable && memWf v.s.mem) = true := by decide +kernel

/-- DecisionFrame: a fire that is not eligible any more once its element has taken its decision. -/
theorem witness_decisions :
    (let s := setup 0x10020300 [] id fun x => { x with decided := 1 }
     match s.env (.add ⟨.d 0, .head 0, .d 0, .none, 0, 0⟩) with | some v => !v.ready | none => false) = true := by decide +kernel

/-- ArithmeticCases, FloatFunctionSpecials: a signalling and a quiet NaN, the infinities, the zeros, a positive and a negative number of FP16. -/
theorem witness_numbers :
    (decodeIeee 9 0x7C01).isSnan = true ∧ (decodeIeee 9 0x7E00).isNan = true ∧ decodeIeee 9 0x7C00 = .inf false ∧ decodeIeee 9 0xFC00 = .inf true ∧
    (decodeIeee 9 0x8000).isZero = true ∧ (match decodeIeee 9 0 with | .fin false m _ => m == 0 | _ => false) = true ∧
    (match decodeIeee 9 0x3C00 with | .fin false m _ => m != 0 | _ => false) = true ∧
    (match decodeIeee 9 0x8001 with | .fin true m _ => m != 0 | _ => false) = true := by decide

/-- FloatComparisons, FloatFunctionSpecials: numbers in either order, a subnormal one; operands of FEXP2 and FLOG2 within and beyond their ranges. -/
theorem witness_numbers_order :
    (decodeIeee 9 0x3C00).cmp (decodeIeee 9 0x3E00) = .lt ∧ (decodeIeee 9 0x3C00).cmp (decodeIeee 9 0x8001) = .gt ∧
    decodeIeee 9 0x3800 = .fin false 1024 (-11) ∧ ratOf (.fin false 1024 (-11)) = 1 / 2 ∧
    decodeIeee 9 0x3C00 = .fin false 1024 (-10) ∧ ratOf (.fin false 1024 (-10)) = 1 ∧
    decodeIeee 9 0x3E00 = .fin false 1536 (-10) ∧ ratOf (.fin false 1536 (-10)) = 3 / 2 ∧
    decodeIeee 9 0xC000 = .fin true 1024 (-9) ∧ ratOf (.fin true 1024 (-9)) = -2 := by
  refine ⟨by decide, by decide, by decide, ?_, by decide, ?_, by decide, ?_, by decide, ?_⟩ <;> norm_num [ratOf]

/-- RoundsByMode, Conversions, ScaledConversions: a number of a format, one between two neighbours and one past the largest, of FP16 and TF4. -/
theorem witness_RoundsByMode_neighbours :
    ratOf (decodeIeee 9 0x3C00) = 1 ∧ ratOf (decodeIeee 9 0x3C01) = 1025 / 1024 ∧ ratOf (decodeIeee 9 0x7BFF) = 65504 ∧
    |ratOf (.fin true 1 0)| = 1 ∧ |ratOf (.fin false 2049 (-11))| = 2049 / 2048 ∧ |ratOf (.fin false 1 16)| = 65536 ∧
    ratOf (decodeLane 12 4) = 1 ∧ ratOf (decodeLane 12 5) = 3 / 2 ∧ |ratOf (.fin true 5 (-2))| = 5 / 4 := by
  have h : decodeIeee 9 0x3C00 = .fin false 1024 (-10) ∧ decodeIeee 9 0x3C01 = .fin false 1025 (-10) ∧ decodeIeee 9 0x7BFF = .fin false 2047 5 ∧
      decodeLane 12 4 = .fin false 2 (-1) ∧ decodeLane 12 5 = .fin false 3 (-1) := by decide
  obtain ⟨h1, h2, h3, h4, h5⟩ := h
  rw [h1, h2, h3, h4, h5]
  norm_num [ratOf, abs_of_neg, abs_of_pos]

/-- StoredBytesReadBack, ShapesKept: memory in its form, and elements in theirs. -/
theorem witness_forms : memWf [(5, 1), (9, 255)] = true ∧ (State.reset.holding 0x10020300).elems.all (fun p => shaped p.2) = true := by decide +kernel

/-- ReducesLanes, VDOT: 0 × ∞, infinite terms of both signs, a NaN, an infinite term of one sign. -/
theorem witness_ReducesLanes_infinities :
    ([(0, 0x7F800000, 0), (0x7F800000, 0x3F800000, 0xFF800000), (0x7F800001, 0x3F800000, 0), (0x7F800000, 0xBF800000, 0)] : List (Word × Word × LinkWord)).all (fun p =>
      decided (setup 0x8A634040 [(p.1, 7), (p.2.1, 7)] id id fun c => { c with regs := c.regs.set 0 { bits := p.2.2, fmt := 7, vl := 1 } }) fun v =>
        (lane v.a 32 0).toNat == p.1.toNat && (lane v.b 32 0).toNat == p.2.1.toNat && (lane v.old 32 0).toNat == p.2.2.toNat) = true ∧
    (decodeIeee 7 0).isZero = true ∧ decodeIeee 7 0x7F800000 = .inf false ∧ decodeIeee 7 0xFF800000 = .inf true ∧ (decodeIeee 7 0x7F800001).isSnan = true ∧
    (match decodeIeee 7 0x3F800000, decodeIeee 7 0xBF800000 with | .fin false m _, .fin true n _ => m != 0 && n != 0 | _, _ => false) = true := by decide +kernel

/-- DebugSteps, CONTINUE of a break whose region has been frozen by a fault since. -/
theorem witness_DebugSteps_other :
    (let r : FaultRec := { id := 60, code := 0x202, region := 1, slotAddr := 8192, unit := 0 }
     let s : State := { small (fun g => { g with freeze := some (.fault 9), brk := some 60 }) with mgmt := { ready := true }, faults := { records := [r] }, dbg := { breaks := [60] } }
     s.oldestBreak == some r && (match s.region? 1 with | some g => g.brk == some 60 && g.freeze == some (.fault 9) && g.launch == r.launch | none => false)) = true := by
  decide +kernel

/-- MatrixSteps, the sums: a BF16 vector and a vector of TF8 with its scales, each with its weights and a word at every activation port; a row of 128 sums, in mode ACC,
and the last row of a stream with no command waiting. -/
theorem witness_MatrixSteps_sums :
    ([8, 10] : List Nat).all (fun fm =>
      let st := { aStream [] with fmt := fm }
      let k : Token := { val := { fmt := fm } }
      let s := noding { streams := [st], active := some ⟨fm, 1, 0, [], []⟩, acts := List.replicate 4 [k], scaleA := [{ val := { fmt := 16 } }] }
      (s.node 0).current == some (0, st) && ((s.node 0).badPort st s.tick).isNone && ((s.node 0).entry s.free s.tick).isSome && (s.node 0).active.isSome &&
        decide (st.k ≤ 4 * portElems fm) && (List.range 4).all (fun j => (headWord ((s.node 0).acts.getD j []) s.tick).isSome) && ((s.node 0).vectorScales st s.tick).isSome) = true ∧
    ([(0, 2), (1, 1)] : List (Nat × Nat)).all (fun p =>
      let st := { aStream [(0, List.replicate 128 1, 0)] p.2 1 with mode := p.1 }
      let s : State := { noding { streams := [st], acc := [(3, List.replicate 128 1)] } with tick := 260 }
      decide (0 + 260 ≤ s.tick) && (s.node 0).spill.isEmpty && (s.node 0).cmds.isEmpty && ((s.node 0).row (st.base + st.written)).length == 128) = true := by decide +kernel

/-- CopySteps, the addresses: a bound that faults, a skip, an overflow, an address in range and one beyond the limit. -/
theorem witness_CopySteps_addresses :
    (let form := fun (x : Axis) => formAddr [x] 64 (2 ^ 57) 8
     ([(form ⟨4, 8, 4, true⟩, 0), (form ⟨-1, 8, 4, false⟩, 1), (form ⟨2 ^ 40, 2 ^ 40, 2 ^ 41, false⟩, 2), (form ⟨3, 8, 4, false⟩, 3), (form ⟨3, -32, 4, false⟩, 4)] :
       List (Formed × Nat)).all fun p => match p.1 with
       | .fault cd k => k == 0 && (if p.2 = 0 then cd == cCopyBounds else (p.2 == 2 || p.2 == 4) && cd == cCopyAddrOvf)
       | .skip => p.2 == 1
       | .addr a => p.2 == 3 && a == 88) = true := by decide +kernel

/-- A descriptor of one dimension of one byte from a source to a destination at address 0. -/
def byteDesc (sk dk : Nat) (skip : Bool := false) : Desc :=
  { aDesc with skind := sk, dkind := dk, esize := 1, bankSize := 4096, ringSlots := 1
               dims := [⟨1, 0, 0, 0, 1, if skip then 0 else 1, 0, 1, if skip then 0 else 1⟩] }

/-- CopySteps, the bytes of an element: both sides skipped, local scratch, an open shadow, one that opens, a bank and a ring. -/
theorem witness_CopySteps_elements :
    ([(3, 3, true, false), (3, 3, false, false), (0, 0, false, true), (0, 0, false, false), (3, 1, false, false), (0, 2, false, false)] : List (Nat × Nat × Bool × Bool)).all (fun p =>
      let d := byteDesc p.1 p.2.1 p.2.2.1
      let hbm := p.2.1 = 0
      let s0 := if hbm then small.mapped else copying {}
      let s : State := { s0.perform (2 ^ 22) (natLe 8 (2 ^ 21)) with
        xl := { s0.xl with cache := s0.xl.cache.map fun x => if hbm then { x with size := 4096 } else x }
        frames := [(0, { fp := { base := 2 ^ 22, cfg := 9, tail := 1 }, rf := { cfg := 9 } })] }
      match s.region? 1 with
      | some g => (match d.source [0] none with
          | .skip => p.2.2.1
          | .addr a => if d.skind = 3 then !s.poisoned (g.scratchPa a) 1 else (match s.unitRead 1 2 a 1 with | .done (b, false) _ => b.length == 1 | _ => false)
          | _ => false) &&
        (match d.dest [0] none with
          | .skip => p.2.2.1
          | .addr a => (match d.dkind with
            | 0 => p.2.2.2 || (match s.openShadow 1 0 40 a with | .opened x _ => x.page == 0 && memWf s.mem | _ => false)
            | 3 => !s.poisoned (g.scratchPa a) 1
            | _ => (match s.translate (s.agentOf 1) (d.place a) true false false with
              | (.pa q, u) => isGlobal q && !u.migrating (d.place a) && memWf u.mem && u.waitv.isEmpty && u.sync.isEmpty
              | _ => false))
          | _ => false)
      | none => false) = true := by decide +kernel

/-- CopySteps, a collective: two participants with disjoint open shadows, before its bytes and after the first has had them. -/
theorem witness_CopySteps_pieces :
    ([0, 8] : List Nat).all (fun done =>
      let p := { aPart true 1 8 done with dst := 4096, shadows := [⟨4096, 2 ^ 21, 2 ^ 20⟩], last := if done = 0 then [] else List.replicate 8 7 }
      let q := { aPart true 1 8 0 with cmd := { aCmd 0xD7 with fire := 41 }, rank := 1, dst := 8192, shadows := [⟨8192, 2 ^ 21 + 4096, 2 ^ 20⟩] }
      let l := [(0, p), (0, q)]
      let s : State := { (small).mapped with colls := [(0, [p, q])] }
      !mismatched (l.map (·.2)) && groupComplete (l.map (·.2)) && decide (doneTo l 8 < 8) && (s.group 5).length == 2 &&
        (match s.collPiece 0 8 l p with
          | .done (b, false) u => b.length == 8 && (match u.collWrite 0 b (byRank (s.group 5)) with | some (.inl _) => true | _ => false)
          | _ => false) &&
        ((l.find? fun x => !x.2.remote && decide (0 < x.2.pos)).isSome == (done == 8)) &&
        (match s.collSources 0 0 8 (l.map (·.2)) with | .done (bs, false) _ => bs.length == 2 | _ => false)) = true := by decide +kernel

/-- A fire of a sequence command at its home, with a page and bytes in memory. -/
def homed (i : Instr) (q : SeqSlot) (m : List (Nat × List Byte)) (a b : Word := 0) : State :=
  m.foldl (fun s x => s.perform (2 ^ 20 + x.1) x.2) (seqing i q a b).mapped

/-- A command at the home of slot 0: its region, its fire and the slot have a property. -/
def atHome (s : State) (p : SeqCmd → SeqSlot → Bool) : Bool :=
  match s.flight? 40, s.region? 1 with
  | some f, some g => (s.seqSlot 0).en && ((s.seqSlot 0).gid == 0 || (s.seqSlot 0).gid == g.hdr.gid) && p ⟨g, f, 0⟩ (s.seqSlot 0)
  | _, _ => false

/-- A command's read finds bytes, free of poison, with a property. -/
def readsAt (s : State) (va n : Nat) (p : List Byte → State → Bool) : Bool :=
  match s.unitRead 1 (n / 4096 + 2) va n with | .done (l, false) w => p l w | _ => false

/-- A slot of vocabulary 8 and hidden size 2, its table at 4096. -/
def slot8 : SeqSlot := { en := true, v := 8, emb := 4096, hm1 := 1 }

/-- A record of doubles. -/
def doubles (l : List Nat) : List Byte := l.flatMap (natLe 8)

/-- The four floats 1, NaN, 2 and 2. -/
def someFloats : List Byte := [0x3F800000, 0x7FC00000, 0x40000000, 0x40000000].flatMap (natLe 4)

/-- SequenceHomes, STM and STH: a token past V, a reserved bit, an infinite share, a sound pair; a vector. -/
theorem witness_SequenceHomes_mixed :
    ([(9, true, false, false), (2 ^ 48 + 1, false, true, false), (0x7F8000000001, false, false, true), (0x3F8000000001, false, false, false)] :
      List (Nat × Bool × Bool × Bool)).all (fun p => atHome (homed (.stm noOp) slot8 [(64, doubles [p.1])] 64) fun c q =>
        readsAt (homed (.stm noOp) slot8 [(64, doubles [p.1])] 64) c.f.a.toNat 8 fun l _ => bits c.f.b.toNat 6 4 == 0 && decide (q.v ≤ dbl l 0 % 2 ^ 32) == p.2.1 &&
          (bits (dbl l 0) 63 48 != 0) == p.2.2.1 && (match decodeIeee 8 (bits (dbl l 0) 47 32) with | .fin _ _ _ => false | _ => true) == p.2.2.2) = true ∧
    (atHome (homed (.sth noOp) slot8 [] 64) fun _ q => q.h == 2 && readsAt (homed (.sth noOp) slot8 [] 64) 64 4 fun l _ => l.length == 4) = true := by
  decide +kernel

/-- SequenceHomes, STFEED: registers of each kind; of the MIX one pair. -/
theorem witness_SequenceHomes_feed :
    ([0, 1, 2, 3] : List Nat).all (fun k =>
      let r : Soft := { kind := k, np := 1, pairs := (if k = 2 then 128 else 0x3F8000000001) :: List.replicate 7 0 }
      let s := homed (.stfeed noOp) { slot8 with st := r :: List.replicate 3 {} } [(4096 + 64, [0x80, 0x3F, 0, 0x40]), (128, [1, 2, 3, 4])] 192
      atHome s fun _ q => let id := ((q.st.getD 0 {}).pairs.headD 0).toNat
        (q.st.getD 0 {}).kind == k && decide ((q.st.getD 0 {}).np ≤ (q.st.getD 0 {}).pairs.length) &&
          readsAt s (if k = 2 then id else q.emb + id % 2 ^ 32 * 64) 4 fun l _ => l.length == 4) = true := by decide +kernel

/-- SequenceHomes, COLLAPSE: no logits; an odd address; a shard; the draw at a temperature of 0 and of 1; a mask without its record, not granted, granted with bits and with none. -/
theorem witness_SequenceHomes_collapse :
    ([(0, 128, 0, 0, false, []), (4, 129, 0, 0, false, []), (4, 128, 2 ^ 35, 0, false, []), (4, 128, 2 ^ 32, 0, false, []), (4, 128, 2 ^ 32 + 0x3F800000, 0, false, []),
      (4, 128, 2 ^ 34, 0, false, []), (4, 128, 2 ^ 34, 256, false, []), (4, 128, 2 ^ 34, 256, true, [(256, [5])]), (4, 128, 2 ^ 34 + 2 ^ 35, 256, true, [])] :
      List (Nat × Nat × Nat × Nat × Bool × List (Nat × List Byte))).all (fun p =>
        let s := homed (.collapse noOp) { slot8 with mask := natLe 32 p.2.2.2.1 } ((64, doubles [p.2.1, p.1, p.2.2.1, 192]) :: (128, someFloats) :: p.2.2.2.2.2) 64
        atHome s fun c q => readsAt s 64 64 fun l u => dbl l 0 == p.2.1 && bits (dbl l 8) 31 0 == p.1 && dbl l 16 == p.2.2.1 && zeroFrom l 32 &&
          decide (bits (dbl l 8) 63 32 + p.1 ≤ q.v) && readsAt u (dbl q.mask 0) 1 fun _ v => readsAt v (dbl l 0) (4 * p.1) fun _ _ =>
            (match seqRun p.2.2.2.2.1 c s q with
              | .trap .seqRange _ => p.1 == 0
              | .trap .misaligned a => a == 129
              | .trap .badTemp _ => p.2.2.1 == 2 ^ 32
              | .trap .noMask _ => p.2.2.2.1 == 0
              | .wait => !p.2.2.2.2.1
              | .done _ _ _ pred _ => pred == (p.2.2.2.1 == 0 || !p.2.2.2.2.2.isEmpty)
              | _ => false)) = true := by decide +kernel

/-- Sound addresses of a record. -/
def soundAt (l : List (Nat × Nat)) : Bool := l.all fun x => decide (x.1 < 2 ^ 57) && x.1 % x.2 == 0

/-- SequenceHomes, ACCEPT, GMASK, TOPN and PQEXP: records that are wrong, with an address that is odd or past 2 ^ 57, and sound ones whose values are read. -/
theorem witness_SequenceHomes_records :
    ([(0, 0, 0), (2, 130, 0), (2, 2 ^ 57, 0), (2, 128, 1)] : List (Nat × Nat × Nat)).all (fun p =>
      atHome (homed (.accept noOp) slot8 [(64, doubles [p.2.1, 144, p.1]), (128, someFloats), (144, someFloats)] 64) fun c q =>
        readsAt (homed (.accept noOp) slot8 [(64, doubles [p.2.1, 144, p.1]), (128, someFloats), (144, someFloats)] 64) 64 64 fun l u =>
          dbl l 16 == p.1 && zeroFrom l 24 && soundAt [(dbl l 0, 4), (dbl l 8, 4)] == (p.2.1 % 64 == 0 && p.2.1 != 2 ^ 57) && c.f.a == 64 && q.en &&
            (p.2.2 == 0 || readsAt u (dbl l 0) (4 * p.1) fun _ v => readsAt v (dbl l 8) (4 * p.1) fun _ _ => true)) = true ∧
    ([(0, 0, true), (130, 0, false), (128, 0, false), (128, 2 ^ 48, true)] : List (Nat × Nat × Bool)).all (fun p =>
      readsAt (homed (.gmask noOp) slot8 [(64, doubles [p.1, 8, p.2.1])] 64) 64 32 fun l _ => (dbl l 0 == 0 || bits (dbl l 16) 63 48 != 0) == p.2.2) = true ∧
    ([(0, 1, 0, true), (4, 0, 0, true), (4, 2, 0, false), (4, 2, 200, false), (2, 256 + 2, 0, false), (4, 2, 196, false)] : List (Nat × Nat × Nat × Bool)).all (fun p =>
      readsAt (homed (.topn noOp) slot8 [(64, doubles [128, p.1, p.2.1, p.2.2.1]), (128, someFloats)] 64) 64 64 fun l u =>
        (bits (dbl l 16) 7 5 != 0 || bits (dbl l 16) 63 9 != 0 || !zeroFrom l 32 || bits (dbl l 8) 31 0 == 0 || dbl l 16 % 32 == 0 || decide (16 < dbl l 16 % 32)) == p.2.2.2 &&
          soundAt ((dbl l 0, 64) :: if dbl l 24 = 0 then [] else [(dbl l 24, 8)]) == (p.2.2.1 != 196) &&
          readsAt u (dbl l 0) ((if (dbl l 16).testBit 8 then 8 else 4) * bits (dbl l 8) 31 0) fun _ _ => true) = true ∧
    ([(0, 0, true), (2 ^ 32 * 0x3F800000 + 4, 0, false), (4, 1, false), (4, 2, true)] : List (Nat × Nat × Bool)).all (fun p =>
      readsAt (homed (.pqexp noOp) slot8 [(64, doubles [128, 192, p.1, p.2.1]), (128, someFloats)] 64) 64 64 fun l u =>
        (decide (2 ≤ dbl l 24) || !zeroFrom l 32 || bits (dbl l 16) 31 0 == 0 || decide (2 ^ 20 < bits (dbl l 16) 31 0)) == p.2.2 &&
          soundAt [(dbl l 0, 64), (dbl l 8, 64)] && readsAt u (dbl l 0) (4 * bits (dbl l 16) 31 0) fun _ _ => true) = true := by decide +kernel

/-- SequenceHomes, TOKREC on a page that is at rest and on one under migration, LOGREC of registers of each kind, HALLMARK with an address. -/
theorem witness_SequenceHomes_logs :
    ([true, false] : List Bool).all (fun b =>
      let s0 := homed (.tokrec noOp) { slot8 with ntop := 1, st := { kind := 1 } :: List.replicate 3 {} } [] 256
      let s := { s0 with xl := { s0.xl with mig := if b then some ⟨0, 2 ^ 22, false, 2 ^ 20, 2 ^ 21⟩ else none } }
      atHome s fun c q => (q.st.getD 0 {}).kind == 1 && decide (q.ntop ≤ 16) && q.comp.length == 16 && (match s.translate (.region c.g.hdr.gid) 256 true false false with
        | (.pa p, u) => p == 2 ^ 20 + 256 && u.migrates 256 == b && memWf u.mem
        | _ => false)) = true ∧
    ([0, 1, 2, 3] : List Nat).all (fun k =>
      let s := homed (.logrec noOp) { slot8 with st := { kind := k, pairs := 128 :: List.replicate 7 0 } :: List.replicate 3 {} } [] 256
      atHome s fun _ q => (q.st.getD 0 {}).kind == k && readsAt s 128 4 fun l u => l.length == 4 && u.tick == s.tick) = true ∧
    (atHome (homed (.hallmark noOp) { slot8 with nblk := 64 } [] 256) fun c q => q.nblk == 64 && c.f.a != 0) = true := by decide +kernel

/-- A table of two buckets at 2 ^ 21 whose bucket 0 holds valid entries, each of a key, for region group 0. -/
def tabled (i : Instr) (b : Word) (l : List (List Byte)) : State :=
  let s := homed i slot8 ((64, List.replicate 32 0) :: l.mapIdx fun k x => (2 ^ 20 + 64 * k, x ++ natLe 8 77 ++ natLe 8 1)) 64 b
  { s with seq := { s.seq with kvcfg := 3, kvbase := 2 ^ 21 } }

/-- SequenceHomes, KVFIND and KVINS: a first match at either entry, a bucket full of other keys, a free entry first and second; the value that KVINS does not take. -/
theorem witness_SequenceHomes_tables :
    ([([0], some 0, none), ([1, 0], some 1, none), ([1, 1, 1, 1], none, none), ([], none, some 0), ([1], none, some 1)] :
      List (List Nat × Option Nat × Option Nat)).all (fun p =>
      let s := tabled (.kvins noOp) 5 (p.1.map fun x => List.replicate 32 (BitVec.ofNat 8 x))
      atHome s fun c _ => s.seq.kvcfg.getLsbD 0 && c.f.b != BitVec.allOnes 64 && readsAt s 64 32 fun key u => key.length == 32 && memWf u.mem && !u.poisoned (u.bucket key) 256 &&
        (let entry := fun (k : Nat) => 2 ^ 21 + 64 * k
         let free := fun (k : Nat) => !(u.double (entry k + 40)).testBit 0
         (List.range 4).find? (fun k => !free k && memRead u.mem (entry k) 32 == key && bits (u.double (entry k + 40)) 63 52 == c.g.hdr.gid) == p.2.1 &&
           (if p.2.1.isNone then (List.range 4).find? free == p.2.2 else true))) = true ∧
    (atHome (tabled (.kvins noOp) (BitVec.allOnes 64) []) fun c _ => c.f.b == BitVec.allOnes 64) = true := by decide +kernel

/-- SequenceHomes: what a home makes of a command in each of the ways it may end: done, a trap, a withheld store, a page under migration, a poisoned read, a wait
for a mask. -/
theorem witness_SequenceHomes_outcomes :
    (let s0 := homed (.tokrec noOp) { slot8 with st := { kind := 1 } :: List.replicate 3 {} } [] 256
     let lost := homed (.hallmark noOp) { slot8 with nblk := 64 } [] (2 ^ 30)
     let moved : State := { s0 with xl := { s0.xl with mig := some ⟨0, 2 ^ 22, false, 2 ^ 20, 2 ^ 21⟩ } }
     let bad : State := { homed (.sth noOp) slot8 [] 64 with poison := [2 ^ 14 + 1] }
     let masked := homed (.collapse noOp) { slot8 with mask := natLe 32 256 } [(64, doubles [128, 4, 2 ^ 34])] 64
     ([(s0, 0), (homed (.stt noOp) slot8 [] 9, 1), (lost, 2), (moved, 3), (bad, 4), (masked, 5)] : List (State × Nat)).all fun p =>
       atHome p.1 fun c q => (match seqRun false c p.1 q with
         | .done u _ _ _ _ => p.2 == 0 && (u.flight? 40).isSome
         | .trap tr _ => p.2 == 1 && tr == .badToken && c.g.faultable
         | .held _ _ wr _ => p.2 == 2 && wr
         | .moving => p.2 == 3
         | .poison _ => p.2 == 4 && c.g.faultable
         | .wait => p.2 == 5 && (p.1.maskAsk 40).isNone
         | .over _ => false)) = true := by decide +kernel

/-- SequenceHomes: a store whose page fails, one of a page under migration, ones made in one block and in two. -/
theorem witness_SequenceHomes_stores :
    ([(2 ^ 30, 8, false), (256, 8, true), (256, 8, false), (316, 8, false)] : List (Nat × Nat × Bool)).all (fun p =>
      let s0 := homed (.tokrec noOp) slot8 []
      let s := { s0 with xl := { s0.xl with mig := if p.2.2 then some ⟨0, 2 ^ 22, false, 2 ^ 20, 2 ^ 21⟩ else none } }
      atHome s fun c _ => (match s.translate (.region c.g.hdr.gid) p.1 true false false with
        | (.fail _, _) => p.1 == 2 ^ 30
        | (.pa q, u) => p.1 != 2 ^ 30 && u.migrates p.1 == p.2.2 && memWf u.mem && u.waitv.isEmpty && u.sync.isEmpty &&
            (u.storeAt c.g c.f.elem c.f.ctx c.f.slot c.f.inv c.f.id q p.1 (List.replicate 4 1)).2)) = true := by decide +kernel

/-- SequenceHomes: operands of the division and the logarithm: a NaN, a zero over and under a number, two numbers. -/
theorem witness_SequenceHomes_numbers :
    (decodeIeee 7 0x7FC00000).isNan = true ∧ decodeIeee 7 0 = .fin false 0 (-149) ∧ (match decodeIeee 7 0x40000000 with | .fin false m _ => m != 0 | _ => false) = true := by
  decide

/-! ## Single steps whose results the spec gives -/

/-- ADD wraps at 64 bits and has its carry as predicate result and I64 as format code (R97, R113). -/
theorem test_add_wraps : firing (setup 0x10634040 [(0xFFFFFFFFFFFFFFFF, 0), (2, 0)]) (fun r => r.pred && r.d1 == some { bits := 1, fmt := 5, vl := 0 }) = true := by
  decide +kernel

/-- DIV of the least number by -1 gives the least number (R114). -/
theorem test_div_overflow : firing (setup 0x19634040 [(0x8000000000000000, 0), (0xFFFFFFFFFFFFFFFF, 0)])
    (fun r => r.pred && (match r.d1 with | some v => v.bits.toNat == 2 ^ 63 | none => false)) = true := by decide +kernel

/-- DIVU by zero gives all ones (R114). -/
theorem test_divu_zero : firing (setup 0x17634040 [(5, 0), (0, 0)])
    (fun r => r.pred && (match r.d1 with | some v => v.bits.toNat == 2 ^ 64 - 1 | none => false)) = true := by decide +kernel

/-- SAR takes its count modulo 64 (R118). -/
theorem test_sar_count : firing (setup 0x42634040 [(0x8000000000000000, 0), (65, 0)])
    (fun r => match r.d1 with | some v => v.bits.toNat == 0xC000000000000000 | none => false) = true := by decide +kernel

/-- FADD of 1.0 and 1.0 is 2.0 with no flag (R127). -/
theorem test_fadd : firing (setup 0x50634040 [(0x3F800000, 7), (0x3F800000, 7)])
    (fun r => r.flags == 0 && (match r.d1 with | some v => v.bits.toNat == 0x40000000 | none => false)) = true := by decide +kernel

/-- VDOT of +∞ and 0 is NaN with NV (R152). -/
theorem test_vdot_zero_inf : firing (setup 0x8A634040 [(0, 7), (0x7F800000, 7)])
    (fun r => r.flags == fNV && (match r.d1 with | some v => v.bits.toNat == 0x7FC00000 | none => false)) = true := by decide +kernel

/-- FRCP of +0 is +∞ with DZ (R89, R136). -/
theorem test_frcp_zero : firing (setup 0x68650040 [(0, 7)]) (fun r => r.flags == fDZ && (match r.d1 with | some v => v.bits.toNat == 0x7F800000 | none => false)) = true := by
  decide +kernel

/-- A float instruction on a source whose operation format is none it takes traps BAD_FORMAT (R124). -/
theorem test_bad_format : trapping (setup 0x50634040 [(0, 1), (0, 1)]) Trap.badFormat.code = true := by decide +kernel

/-- A load off its size traps MISALIGNED, and nothing is in flight (R251). -/
theorem test_misaligned : trapping (setup 0x90650040 [(4, 0)]) Trap.misaligned.code = true := by decide +kernel

/-- WRSR of a read-only register traps SR_RO (R210). -/
theorem test_sr_ro : trapping (setup 0xF3634040 [(3, 0), (1, 0)]) Trap.srRo.code = true := by decide +kernel

/-- HALT with code 7 halts the region with that code (R186). -/
theorem test_halt : after (setup 0x0C653300 [(7, 0)]) (fun t => match t.region? 1 with | some g => g.halt == some (0, 7, 0) | none => false) = true := by decide +kernel

/-- The sum image of R67 gives the operation words 0x10020300 and 0x10022304: both decode to ADD, the second with a tag action. -/
theorem test_stream_sum : decode false false false false 0x10020300 = .ok (.add ⟨.d 0, .head 0, .d 0, .none, 0, 0⟩) ∧
    decode false false false false 0x10022304 = .ok (.add ⟨.d 0, .head 0, .chan 0, .none, 1, 0⟩) := by decide
end Sys2Proof.Tests
end

section
/-! SUPPORT. The encoding: select codes, the fields of an operation word, the opcode map and the load checks each with its inverse or its equation;
then the statements about the decoder. -/

namespace Sys2Proof

/-! ## Select codes (R54, R55) -/

theorem Src.code_lt (x : Src) : x.code < 32 := by
  cases x with
  | d n => revert n; decide
  | head n => revert n; decide
  | lit n => revert n; decide
  | zero | ones | wv | lane => decide

theorem Src.ofCode_code (x : Src) : Src.ofCode x.code = x := by
  cases x with
  | d n => revert n; decide
  | head n => revert n; decide
  | lit n => revert n; decide
  | zero | ones | wv | lane => decide

theorem Src.code_ofCode {c : Nat} (h : c < 32) : (Src.ofCode c).code = c := by
  revert c; decide

theorem Dst.code_lt (x : Dst) : x.code.1 < 16 := by
  cases x with
  | d n => revert n; decide
  | chan n => revert n; decide
  | none => decide

theorem Dst.ofCode_code (x : Dst) : Dst.ofCode x.code.1 x.code.2 = x := by
  cases x with
  | d n => revert n; decide
  | chan n => revert n; decide
  | none => decide

/-- A destination code that is not reserved, its XD bit beside a register only, is the code of what it names (R19, R55). -/
theorem Dst.code_ofCode {c : Nat} {xd : Bool} (hc : c ≤ 12) (hx : xd = true → c < 8) : (Dst.ofCode c xd).code = (c, xd) := by
  have hall : ∀ c ≤ 12, ∀ xd : Bool, (xd = true → c < 8) → (Dst.ofCode c xd).code = (c, xd) := by decide
  exact hall c hc xd hx

/-! ## The fields of an operation word (R53) -/

/-- The fields of a raw word fit their places. -/
structure Raw.Fits (r : Raw) : Prop where
  opc : r.opc < 256
  a : r.a < 32
  b : r.b < 32
  d1 : r.d1 < 16
  d2 : r.d2 < 16
  tact : r.tact < 16
  mode : r.mode < 4

theorem bits_eq_div_mod (x hi lo : Nat) : bits x hi lo = x / 2 ^ lo % 2 ^ (hi + 1 - lo) := by
  rw [bits, Nat.shiftRight_eq_div_pow]

theorem Raw.fits_ofWord (w : Word32) (x1 x2 : Bool) : (Raw.ofWord w x1 x2).Fits := by
  constructor <;> exact Nat.mod_lt _ (by decide)

theorem Raw.toWord_ofWord (w : Word32) (x1 x2 : Bool) : (Raw.ofWord w x1 x2).toWord = w := by
  have h := w.isLt
  apply BitVec.eq_of_toNat_eq
  simp only [Raw.toWord, Raw.ofWord, bits_eq_div_mod, BitVec.toNat_ofNat]
  omega

theorem Raw.ofWord_toWord {r : Raw} (h : r.Fits) : Raw.ofWord r.toWord r.xd1 r.xd2 = r := by
  obtain ⟨opc, a, b, d1, d2, tact, mode, x1, x2⟩ := r
  obtain ⟨h1, h2, h3, h4, h5, h6, h7⟩ := h
  simp only [Raw.toWord, Raw.ofWord, bits_eq_div_mod, BitVec.toNat_ofNat, Raw.mk.injEq, and_true] at *
  refine ⟨?_, ?_, ?_, ?_, ?_, ?_, ?_⟩ <;> omega

/-! ## The operands of a raw word -/

theorem Op.fits_raw (o : Op) {c : Nat} (h : c < 256) : (o.raw c).Fits :=
  ⟨h, o.a.code_lt, o.b.code_lt, o.d1.code_lt, o.d2.code_lt, o.tact.isLt, o.mode.isLt⟩

theorem Raw.op_raw (o : Op) (c : Nat) : (o.raw c).op = o := by
  simp [Raw.op, Op.raw, Src.ofCode_code, Dst.ofCode_code]

/-- The fields of a word that passes checks 9 and 12 are those of its operands: no reserved code stands, and no XD bit beside a channel. -/
theorem Raw.raw_op {r : Raw} (h : r.Fits) (h9 : r.c9 = true) (h12 : r.c12 = true) : r.op.raw r.opc = r := by
  obtain ⟨hx1, hx2⟩ : (r.xd1 = true → r.d1 < 8) ∧ (r.xd2 = true → r.d2 < 8) := by
    simpa [Raw.c9, imp_iff_not_or] using h9
  obtain ⟨hd1, hd2⟩ : r.d1 ≤ 12 ∧ r.d2 ≤ 12 := by
    simp only [Raw.c12, Bool.and_eq_true, decide_eq_true_eq] at h12
    tauto
  simp [Op.raw, Raw.op, Src.code_ofCode h.a, Src.code_ofCode h.b, Dst.code_ofCode hd1 hx1, Dst.code_ofCode hd2 hx2,
    Nat.mod_eq_of_lt h.tact, Nat.mod_eq_of_lt h.mode]

/-! ## The opcode map (R62) -/

/-- An instruction of R62 is the one its opcode names, with its operands. -/
theorem mkInstr_of_parts {i : Instr} {c : Nat} {o : Op} (h : i.parts = some (c, o)) : mkInstr c o = some i := by
  cases i <;> cases h <;> rfl

/-- The instruction an opcode names has that opcode and the operands it was given. -/
theorem parts_of_mkInstr {i : Instr} {c : Nat} {o : Op} (h : mkInstr c o = some i) : i.parts = some (c, o) := by
  have hc := Nat.div_add_mod c 16
  unfold mkInstr at h
  split at h
  case h_17 => cases h
  all_goals
    next hrow =>
    simp only [mkRow0, mkRow1, mkRow2, mkRow3, mkRow4, mkRow5, mkRow6, mkRow7, mkRow8, mkRow9, mkRowA, mkRowB, mkRowC, mkRowD, mkRowE, mkRowF] at h
    split at h
    all_goals
      cases h
    all_goals
      next hcol =>
      rw [← hc, hrow, hcol]
      rfl

theorem opcode_lt {i : Instr} {c : Nat} {o : Op} (h : i.parts = some (c, o)) : c < 256 := by
  cases i <;> cases h <;> decide

/-! ## The load checks and the decoder (R68) -/

theorem ite_some_eq_none_iff {α : Type} {p : Prop} [Decidable p] {a : α} {x : Option α} :
    (if p then some a else x) = none ↔ ¬ p ∧ x = none := by
  by_cases hp : p <;> simp [hp]

/-- A word whose first failing check is none passes checks 9 and 12. -/
theorem Raw.checks_of_firstFail_none {r : Raw} {wide repl : Bool} (h : r.firstFail wide repl = none) : r.c9 = true ∧ r.c12 = true := by
  simp only [Raw.firstFail, ite_some_eq_none_iff, Bool.not_eq_true', Bool.not_eq_false] at h
  obtain ⟨-, -, h9, -, h12, -⟩ := h
  exact ⟨h9, h12⟩

theorem Raw.firstFail_of_unassigned {r : Raw} (wide repl : Bool) (h : assigned r.opc = false) : r.firstFail wide repl = some .badOp := by
  simp [Raw.firstFail, Raw.c6, h]

/-- A word decodes to an instruction just where its fields pass the load checks and its opcode names that instruction. -/
theorem decode_eq_ok_iff {wide repl x1 x2 : Bool} {w : Word32} {i : Instr} : decode wide repl x1 x2 w = .ok i ↔
    (Raw.ofWord w x1 x2).firstFail wide repl = none ∧ mkInstr (Raw.ofWord w x1 x2).opc (Raw.ofWord w x1 x2).op = some i := by
  simp only [decode]
  split
  · next e he => simp [he]
  · next he =>
    simp only [he, true_and]
    split
    · next j hj => simp [hj]
    · next hj => simp [hj]

/-- An instruction of a given opcode and operands encodes as the word of its fields, with their XD bits. -/
theorem encode_of_parts {i : Instr} {c : Nat} {o : Op} (h : i.parts = some (c, o)) :
    encode i = some ((o.raw c).toWord, (o.raw c).xd1, (o.raw c).xd2) := by
  simp [encode, h]

theorem wellFormed_of_parts {i : Instr} {c : Nat} {o : Op} {wide repl : Bool} (h : i.parts = some (c, o)) :
    i.wellFormed wide repl = true ↔ (o.raw c).firstFail wide repl = none := by
  simp [Instr.wellFormed, h]

/-- An instruction that encodes has an opcode and operands. -/
theorem parts_of_encode {i : Instr} {e : Word32 × Bool × Bool} (h : encode i = some e) : ∃ c o, i.parts = some (c, o) := by
  obtain ⟨⟨c, o⟩, hp, -⟩ := Option.map_eq_some_iff.mp h
  exact ⟨c, o, hp⟩

/-! ## The statements -/

/-- Settles O3: the fields of the encoded word are those of the operands, and the opcode names the instruction. -/
theorem decodeOfEncode : Obligations.DecodeOfEncode := by
  intro wide repl i w x1 x2 hwf he
  obtain ⟨c, o, hp⟩ := parts_of_encode he
  rw [encode_of_parts hp] at he
  obtain ⟨rfl, rfl, rfl⟩ := he
  rw [decode_eq_ok_iff, Raw.ofWord_toWord (o.fits_raw (opcode_lt hp)), Raw.op_raw]
  exact ⟨(wellFormed_of_parts hp).mp hwf, mkInstr_of_parts hp⟩

/-- Settles O4: the operands of a word that passes checks 9 and 12 have its fields, so no bit of it is lost. -/
theorem encodeOfDecode : Obligations.EncodeOfDecode := by
  intro wide repl x1 x2 w i h
  obtain ⟨hf, hm⟩ := decode_eq_ok_iff.mp h
  obtain ⟨h9, h12⟩ := Raw.checks_of_firstFail_none hf
  have hp := parts_of_mkInstr hm
  have hr := Raw.raw_op (Raw.fits_ofWord w x1 x2) h9 h12
  rw [wellFormed_of_parts hp, encode_of_parts hp, hr, Raw.toWord_ofWord]
  exact ⟨hf, rfl⟩

/-- Settles O5: check 6 is the first that is made, and an opcode is assigned only where some instruction has it. -/
theorem unassignedOpcodeRefused : Obligations.UnassignedOpcodeRefused := by
  intro wide repl x1 x2 w h
  have hu : assigned (Raw.ofWord w x1 x2).opc = false := by
    rw [assigned, Option.isSome_eq_false_iff, Option.isNone_iff_eq_none, Option.eq_none_iff_forall_ne_some]
    exact fun i hi => h i _ (parts_of_mkInstr hi)
  simp [decode, Raw.firstFail_of_unassigned wide repl hu]

/-- Settles O2, each word by running the decoder on it. -/
theorem decodesWords : Obligations.DecodesWords := by
  refine ⟨?_, ?_, ?_, ?_, ?_, ?_, ?_⟩ <;> decide

end Sys2Proof
end

section
/-! SUPPORT. Errors, gates and the control store: the frames of a fault, of a transient error and of a record read again, and one lemma for each clause
of the statement about them (R69, R369, R370, R381, R382). -/

namespace Sys2Proof.Machine

open Sys2Proof.Safety

/-! ## Dispatch and guards -/

theorem exec_eccRetry (pa : Nat) (ok : Bool) (s : State) : exec (.eccRetry pa ok) s = execEccRetry pa ok s := rfl
theorem exec_linkCrcRetry (j : Nat) (ok : Bool) (s : State) : exec (.linkCrcRetry j ok) s = execLinkCrcRetry j ok s := rfl
theorem exec_slotParityRefetch (e k : Nat) (ok : Bool) (s : State) : exec (.slotParityRefetch e k ok) s = execSlotParityRefetch e k ok s := rfl
theorem exec_dataLost (e : Nat) (s : State) : exec (.dataLost e) s = execDataLost e s := rfl
theorem exec_clockGate (x : Nat) (s : State) : exec (.clockGate x) s = execClockGate x s := rfl
theorem exec_tileWake (x : Nat) (s : State) : exec (.tileWake x) s = execTileWake x s := rfl
theorem exec_powerGate (x : Nat) (off : Bool) (s : State) : exec (.powerGate x off) s = execPowerGate x off s := rfl
theorem exec_controlStoreWrite (e : Nat) (w : StoreWrite) (s : State) : exec (.controlStoreWrite e w) s = execControlStoreWrite e w s := rfl

theorem guarded_pos {p : Bool} {s t : State} (h : p = true) : guarded p s t = .next t := by simp [guarded, h]
theorem guarded_neg {p : Bool} {s t : State} (h : p = false) : guarded p s t = .next s := by simp [guarded, h]

/-! ## Tables, tiles, elements and regions after an update -/

theorem tget_tput_same {α : Type} (t : Table α) (k : Nat) (v d : α) : tget (tput t k v) k d = v := by
  induction t with
  | nil => simp [tput, tget]
  | cons p r ih =>
    obtain ⟨j, w⟩ := p
    simp only [tput]
    split
    · simp [tget]
    · split
      · simp [tget]
      · next hne => simp [tget, Ne.symm hne, ih]

@[simp] theorem State.elem_modElem (s : State) (e : Nat) (f : Elem → Elem) : (s.modElem e f).elem e = f (s.elem e) := by
  simp [State.elem, tget_tput_same]

@[simp] theorem State.tile_modTile (s : State) (n : Nat) (f : Tile → Tile) : (s.modTile n f).tile n = f (s.tile n) := by
  simp [State.tile, tget_tput_same]

@[simp] theorem State.tile_useFree (s : State) (n : Nat) : s.useFree.tile n = s.tile n := rfl
@[simp] theorem State.elem_useFree (s : State) (e : Nat) : s.useFree.elem e = s.elem e := rfl

/-- A region found by its number, after an update of the regions of a number that keeps it. -/
theorem State.region?_modRegion (s : State) (g k : Nat) {f : Region → Region} (hf : ∀ r, (f r).id = r.id) :
    (s.modRegion g f).region? k = (s.region? k).map fun r => if r.id == g then f r else r := by
  have hid : (fun r : Region => r.id == k) ∘ (fun r => if r.id == g then f r else r) = fun r => r.id == k := by
    funext r; simp only [Function.comp]; split <;> simp [hf]
  simp only [State.region?, State.modRegion_regions, List.find?_map, hid]

theorem State.id_of_region? {s : State} {g : Nat} {r : Region} (h : s.region? g = some r) : r.id = g := by
  simpa using List.find?_some h

/-! ## Faults (R359) -/

/-- What a fault may change: the count of identifiers, the records, the breaks, the regions, and the held stores. -/
def FaultFrame (s t : State) : Prop :=
  ∃ i f d r h, t = { s with ids := i, faults := f, dbg := d, regions := r, held := h }

theorem FaultFrame.refl (s : State) : FaultFrame s s := ⟨_, _, _, _, _, rfl⟩

theorem FaultFrame.trans {s t u : State} (h : FaultFrame s t) (k : FaultFrame t u) : FaultFrame s u := by
  obtain ⟨_, _, _, _, _, rfl⟩ := h
  obtain ⟨_, _, _, _, _, rfl⟩ := k
  exact ⟨_, _, _, _, _, rfl⟩

theorem FaultFrame.elems {s t : State} (h : FaultFrame s t) : t.elems = s.elems := by obtain ⟨_, _, _, _, _, rfl⟩ := h; rfl
theorem FaultFrame.elem {s t : State} (h : FaultFrame s t) (e : Nat) : t.elem e = s.elem e := by simp [State.elem, h.elems]
theorem FaultFrame.mem {s t : State} (h : FaultFrame s t) : t.mem = s.mem := by obtain ⟨_, _, _, _, _, rfl⟩ := h; rfl
theorem FaultFrame.part {s t : State} (h : FaultFrame s t) : t.part = s.part := by obtain ⟨_, _, _, _, _, rfl⟩ := h; rfl

theorem State.takeFault_frame (s : State) (g : Nat) (r : FaultRec) : FaultFrame s (s.takeFault g r) := by
  unfold State.takeFault
  split
  · exact .refl s
  · dsimp only
    split
    · exact .refl s
    · split <;> split <;> split <;> exact ⟨_, _, _, _, _, rfl⟩

theorem State.unitFault_frame (s : State) (g cd unit tile uidx e c k addr : Nat) (named : List Int) :
    FaultFrame s (s.unitFault g cd unit tile uidx e c k addr named) := by
  have hd : FaultFrame s (if cd / 256 = 5 ∨ unit = 3 ∨ unit = 4 then s.discardOpen g else s) := by
    split
    · exact ⟨_, _, _, _, _, rfl⟩
    · exact .refl s
  exact hd.trans (State.takeFault_frame _ _ _)

theorem State.unitLasting_frame (rs : List Nat) (unit t uidx : Nat) : ∀ s : State, FaultFrame s (s.unitLasting rs unit t uidx) := by
  induction rs with
  | nil => exact .refl
  | cons g r ih => exact fun s => (s.unitFault_frame g cUnitLasting unit t uidx 0 0 0 0 []).trans (ih _)

theorem Region.freeze_isSome_of_faulted {r : Region} (h : r.faulted = true) : r.freeze.isSome = true := by
  unfold Region.faulted at h
  split at h <;> simp_all

/-- The state with a fault's record made. -/
def State.recorded (s : State) (rg : Region) (r : FaultRec) : State :=
  { s.newId with faults := { s.faults with records := s.faults.records ++ [s.faultRecord rg r] } }

/-- A region as a fault other than a BREAK leaves it: one that a fault has frozen already keeps its first freeze (R359). -/
def Region.afterFault (r : Region) (k n : Nat) : Region := if r.faulted then r else r.stop (.fault k) n

theorem Region.freeze_afterFault (r : Region) (k n : Nat) : (r.afterFault k n).freeze = if r.faulted then r.freeze else some (.fault k) := by
  unfold Region.afterFault; split <;> rfl

theorem Region.savable_afterFault (r : Region) (k n : Nat) : (r.afterFault k n).savable = r.savable := by
  unfold Region.afterFault; split <;> rfl

/-- The state with a region's follow-on frozen where it is not frozen yet (R182). -/
def State.freezeFollower (s : State) (rg : Region) : State :=
  match rg.follow with
  | some f => s.modRegion f fun x => if x.freeze.isNone then x.stop .leader s.tick else x
  | none => s

theorem State.takeFault_eq {s : State} {g : Nat} {rg : Region} {r : FaultRec} (hg : s.region? g = some rg) (hf : rg.faultable = true)
    (hb : r.code ≠ Trap.brk.code) :
    s.takeFault g r =
      (if rg.faulted then s.recorded rg r else (s.recorded rg r).modRegion g fun x => x.stop (.fault s.ids) s.tick).freezeFollower rg := by
  have hbrk : (r.code == Trap.brk.code) = false := by simpa using hb
  simp only [State.takeFault, hg, hf, hbrk, State.freezeFollower, Bool.not_true, Bool.false_and, Bool.or_self, Bool.false_eq_true, if_false]
  by_cases h : rg.faulted = true
  · simp only [h, if_true]; rfl
  · simp only [h]; rfl

theorem State.region?_freezeFollower {s : State} {g : Nat} {r : Region} (rg : Region) (h : s.region? g = some r) (hr : r.freeze.isSome = true) :
    (s.freezeFollower rg).region? g = some r := by
  unfold State.freezeFollower
  split
  · rw [State.region?_modRegion _ _ _ (fun x => by split <;> rfl), h]
    simp [Option.isSome_iff_ne_none.mp hr]
  · exact h

theorem State.freezeFollower_faults (s : State) (rg : Region) : (s.freezeFollower rg).faults = s.faults := by
  unfold State.freezeFollower; split <;> rfl

/-- A fault other than a BREAK freezes its region. -/
theorem State.region?_takeFault {s : State} {g : Nat} {rg : Region} {r : FaultRec} (hg : s.region? g = some rg) (hf : rg.faultable = true)
    (hb : r.code ≠ Trap.brk.code) : (s.takeFault g r).region? g = some (rg.afterFault s.ids s.tick) := by
  rw [State.takeFault_eq hg hf hb, Region.afterFault]
  split
  · next h => exact State.region?_freezeFollower rg hg (Region.freeze_isSome_of_faulted h)
  · refine State.region?_freezeFollower rg ?_ rfl
    rw [State.region?_modRegion _ g g (fun r => show (r.stop (.fault s.ids) s.tick).id = r.id from rfl), show (s.recorded rg r).region? g = some rg from hg]
    simp [State.id_of_region? hg]

/-- A fault other than a BREAK has a record with the next identifier. -/
theorem State.records_takeFault {s : State} {g : Nat} {rg : Region} {r : FaultRec} (hg : s.region? g = some rg) (hf : rg.faultable = true)
    (hb : r.code ≠ Trap.brk.code) : (s.takeFault g r).faults.records = s.faults.records ++ [s.faultRecord rg r] := by
  rw [State.takeFault_eq hg hf hb, State.freezeFollower_faults]
  split <;> rfl

/-! ## Transient errors (R369) -/

theorem State.trace_off {s : State} (h : s.dbg.trcfg.getLsbD 0 = false) (kind unit place d2 d3 : Nat) : s.trace kind unit place d2 d3 = s := by
  have h0 : s.dbg.trcfg.toNat.testBit 0 = false := h
  simp [State.trace, h0]

theorem State.trace_eq (s : State) (kind unit place d2 d3 : Nat) :
    ∃ d m p h, s.trace kind unit place d2 d3 = { s with dbg := d, mem := m, poison := p, held := h } := by
  unfold State.trace
  extract_lets d lg b
  clear_value b -- a record's bytes hold powers of two that the match below need not evaluate
  split
  · exact ⟨_, _, _, _, rfl⟩
  · split
    · exact ⟨_, _, _, _, rfl⟩
    · exact ⟨_, _, _, _, rfl⟩

/-- A transient error is logged; it may write a trace record and count. -/
theorem State.transient_eq (s : State) (unit place addr uidx : Nat) (gs : List Nat) :
    ∃ d m p h, s.transient unit place addr uidx gs = { s.log 6 addr with dbg := d, mem := m, poison := p, held := h } := by
  obtain ⟨d, m, p, h, he⟩ := (s.log 6 addr).trace_eq 6 unit place addr uidx
  rw [State.transient, he]
  generalize s.log 6 addr = u
  dsimp only
  split <;> exact ⟨_, _, _, _, rfl⟩
/-- Where the trace is off it changes no memory. -/
theorem State.transient_eq_of_trace_off {s : State} (h : s.dbg.trcfg.getLsbD 0 = false) (unit place addr uidx : Nat) (gs : List Nat) :
    ∃ d, s.transient unit place addr uidx gs = { s.log 6 addr with dbg := d } := by
  simp only [State.transient, State.trace_off (s := s.log 6 addr) h]
  split <;> exact ⟨_, rfl⟩

/-! ## Records read again (R369) -/

/-- What a read over translated pages may change: what the translation writes, and the count of open values. -/
def ReadFrame (s t : State) : Prop := ∃ m p h x f, t = { s with mem := m, poison := p, held := h, xl := x, free := f }

theorem ReadFrame.refl (s : State) : ReadFrame s s := ⟨_, _, _, _, _, rfl⟩

theorem ReadFrame.trans {s t u : State} (h : ReadFrame s t) (k : ReadFrame t u) : ReadFrame s u := by
  obtain ⟨_, _, _, _, _, rfl⟩ := h
  obtain ⟨_, _, _, _, _, rfl⟩ := k
  exact ⟨_, _, _, _, _, rfl⟩

theorem ReadFrame.elem {s t : State} (h : ReadFrame s t) (e : Nat) : t.elem e = s.elem e := by obtain ⟨_, _, _, _, _, rfl⟩ := h; rfl

theorem State.fill_frame (s : State) (t : Trans) : ReadFrame s (s.fill t) := ⟨_, _, _, _, _, rfl⟩

theorem State.touch_frame (s : State) (t : Trans) (wr : Bool) : ReadFrame s (s.touch t wr) := by
  unfold State.touch
  extract_lets e n
  split <;> exact ⟨_, _, _, _, _, rfl⟩

theorem State.countAccess_frame (s : State) (t : Trans) : ReadFrame s (s.countAccess t).1 := by
  simp only [State.countAccess]
  split
  · exact .refl s
  · split
    · exact .refl s
    · split <;> exact ⟨_, _, _, _, _, rfl⟩

theorem State.translate_frame (s : State) (a : Agent) (va : Nat) (wr again pref : Bool) : ReadFrame s (s.translate a va wr again pref).2 := by
  simp only [State.translate]
  split
  · exact .refl s
  · next t _ =>
    split
    · split
      · exact .refl s
      · exact s.fill_frame t
    · split
      · exact s.fill_frame t
      · exact (s.countAccess_frame t).trans ((State.touch_frame _ _ _).trans (State.fill_frame _ _))

theorem State.readAs_frame (s : State) (a : Agent) (g va n : Nat) : ReadFrame s (s.readAs a g va n).2 := by
  have ht := s.translate_frame a va false false false
  simp only [State.readAs]
  split
  · next h =>
    rw [h] at ht
    split
    · exact ht.trans ⟨_, _, _, _, _, rfl⟩
    · exact ht
  · next h => rwa [h] at ht

theorem State.readSpan_frame (a : Agent) (g fuel : Nat) : ∀ (s : State) (va n : Nat), ReadFrame s (s.readSpan a g fuel va n).2 := by
  induction fuel with
  | zero => exact fun s _ _ => .refl s
  | succ fuel ih =>
    intro s va n
    have hr := s.readAs_frame a g va (min n (4096 - va % 4096))
    simp only [State.readSpan]
    split
    · exact .refl s
    · split
      · next h => rwa [h] at hr
      · next b s1 h =>
        rw [h] at hr
        have hi := ih s1 (va + min n (4096 - va % 4096)) (n - min n (4096 - va % 4096))
        split <;> next h2 => rw [h2] at hi; exact hr.trans hi

theorem State.recordAgain_frame (s : State) (e : Nat) : ReadFrame s (s.recordAgain e).2 := by
  simp only [State.recordAgain]
  split
  · split
    · exact .refl s
    · exact State.readSpan_frame _ _ _ _ _ _
  · exact .refl s

/-! ## Memory and links (R369) -/

/-- The poisoned blocks with one more. -/
def withPoison (l : List Nat) (k : Nat) : List Nat := if l.contains k then l else l ++ [k]

theorem mem_withPoison {l : List Nat} {j k : Nat} : j ∈ withPoison l k ↔ j ∈ l ∨ j = k := by
  unfold withPoison
  split
  · next h =>
    have hk : k ∈ l := List.contains_iff_mem.mp h
    exact ⟨.inl, fun hj => hj.elim id fun hjk => hjk ▸ hk⟩
  · simp

section
variable {s : State} (hs : s.dbg.stopped = false)
include hs

theorem eccRetry_answers {pa : Nat} (hp : isHbm pa = true ∨ isScratch pa = true) (ok : Bool) :
    exec (.eccRetry pa ok) s = .next
      (if ok then s.transient (if isHbm pa then 9 else 15) (unitPlace (unitOfPa pa).1 (unitOfPa pa).2) pa (unitOfPa pa).2 (s.usesPa pa)
        else { (s.log 5 (64 * (pa / 64))) with poison := withPoison s.poison (pa / 64) }) :=
  (exec_eccRetry pa ok s).trans (guarded_pos (by simpa [hs] using hp))

/-- A block read well the second time leaves memory as it was, and a line in the log (R369). -/
theorem eccRetry_transient {pa : Nat} (hp : isHbm pa = true ∨ isScratch pa = true) (ht : s.dbg.trcfg.getLsbD 0 = false) :
    Answers (.eccRetry pa true) s fun t => t.mem = s.mem ∧ t.poison = s.poison ∧ t.mgmt.log = s.mgmt.log ++ [(6, pa)] := by
  refine ⟨_, eccRetry_answers hs hp true, ?_⟩
  obtain ⟨d, he⟩ := State.transient_eq_of_trace_off ht (if isHbm pa then 9 else 15) (unitPlace (unitOfPa pa).1 (unitOfPa pa).2) pa (unitOfPa pa).2 (s.usesPa pa)
  rw [if_pos rfl, he]
  exact ⟨rfl, rfl, rfl⟩

/-- A block that fails again is poisoned (R369). -/
theorem eccRetry_poisons {pa : Nat} (hp : isHbm pa = true ∨ isScratch pa = true) :
    Answers (.eccRetry pa false) s fun t => t.mem = s.mem ∧ t.poisoned (pa / 64 * 64) 64 = true ∧ (∀ k, k ∈ s.poison → k ∈ t.poison) := by
  refine ⟨_, eccRetry_answers hs hp false, rfl, ?_, fun k hk => mem_withPoison.mpr (.inl hk)⟩
  refine List.any_eq_true.mpr ⟨pa / 64, mem_withPoison.mpr (.inr rfl), ?_⟩
  simp only [Bool.and_eq_true, decide_eq_true_eq]
  omega

theorem linkCrcRetry_answers {j : Nat} (hj : j < 18) (ok : Bool) :
    exec (.linkCrcRetry j ok) s = .next
      (if ok then { (s.transient 8 (unitPlace hostTile j) 0 j (s.overBrezil j)) with
          part := { s.part with links := s.part.links.modify j fun l => { l with resent := l.resent + 1 } } }
        else s.loseBrezil j) := by
  have hl : j < portLink + 128 := by unfold portLink; omega
  rw [exec_linkCrcRetry, execLinkCrcRetry, guarded_pos (by simp [hs, hl]), if_pos hj]

/-- A Brezil link that recovers has sent once more (R369). -/
theorem linkCrcRetry_resends {j : Nat} (hj : j < 18) (hl : s.part.links.length = 18) : Answers (.linkCrcRetry j true) s fun t =>
    (t.part.links.getD j {}).resent = (s.part.links.getD j {}).resent + 1 ∧ t.regions = s.regions := by
  refine ⟨_, linkCrcRetry_answers hs hj true, ?_⟩
  obtain ⟨d, m, p, h, he⟩ := s.transient_eq 8 (unitPlace hostTile j) 0 j (s.overBrezil j)
  rw [if_pos rfl, he]
  refine ⟨?_, rfl⟩
  simp [List.getD_eq_getElem?_getD, hl, hj]

end

/-- A Brezil link that is fenced changes the links of the package, and what the faults of its regions change. -/
theorem State.fenceBrezil_frame (s : State) (j : Nat) : FaultFrame
    (({ s with part := { s.part with links := s.part.links.modify j fun l => { l with fenced := true, up := false } } } : State).log 7 j) (s.fenceBrezil j) :=
  State.unitLasting_frame _ _ _ _ _

theorem State.links_loseBrezil (s : State) (j : Nat) :
    (s.loseBrezil j).part.links = s.part.links.modify j fun l => { l with fenced := true, up := false } := by
  have h : (s.fenceBrezil j).part.links = s.part.links.modify j fun l => { l with fenced := true, up := false } := by
    rw [(s.fenceBrezil_frame j).part]; rfl
  simp only [State.loseBrezil]
  split <;> simp only [h]

theorem State.mem_loseBrezil (s : State) (j : Nat) : (s.loseBrezil j).mem = s.mem := by
  have h : (s.fenceBrezil j).mem = s.mem := (s.fenceBrezil_frame j).mem
  simp only [State.loseBrezil]
  split <;> simp only [h]

/-- The recovery from the loss of a link of this package is to begin (log 31). -/
theorem State.fencedDevs_loseBrezil (s : State) (j : Nat) : 2048 + j ∈ (s.loseBrezil j).part.fencedDevs := by
  have h : (s.fenceBrezil j).part.fencedDevs = s.part.fencedDevs := by
    rw [(s.fenceBrezil_frame j).part]; rfl
  simp only [State.loseBrezil]
  split
  · next hc => rw [h]; exact List.contains_iff_mem.mp hc
  · exact List.mem_append_right _ (List.mem_singleton_self _)

/-- A Brezil link that fails is fenced, and the recovery of R398 is to begin. -/
theorem linkCrcRetry_fences {s : State} (hs : s.dbg.stopped = false) {j : Nat} (hj : j < 18) (hl : s.part.links.length = 18) :
    Answers (.linkCrcRetry j false) s fun t =>
      (t.part.links.getD j {}).fenced = true ∧ (t.part.links.getD j {}).up = false ∧ 2048 + j ∈ t.part.fencedDevs ∧ t.mem = s.mem := by
  refine ⟨s.loseBrezil j, linkCrcRetry_answers hs hj false, ?_, ?_, s.fencedDevs_loseBrezil j, s.mem_loseBrezil j⟩ <;>
    simp [State.links_loseBrezil, List.getD_eq_getElem?_getD, hl, hj]

/-! ## Slot words (R69, R369, R382) -/

@[simp] theorem State.elem_fenceTile (s : State) (n b e : Nat) : (s.fenceTile n b).elem e = s.elem e := rfl

theorem State.elemLasting_fenced (s : State) (e k cd detail : Nat) : ((s.elemLasting e k cd detail).elem e).fenced = true := by
  have hf : ((s.fenceElem e).elem e).fenced = true := by simp [State.fenceElem]
  unfold State.elemLasting
  split
  · exact hf
  · rw [(State.takeFault_frame _ _ _).elem]; exact hf

/-- A slot word fetched again stands in its slot; the element keeps its contexts and its decision, and is barred for a microsecond at most. -/
theorem State.refetched_spec (s : State) {e k : Nat} (b : List Byte) (hk : k < (s.elem e).active.slots.length) :
    (((s.refetched e k b).elem e).active.slot k).op = BitVec.ofNat 32 (leNat ((b.drop (12 * k + 12)).take 4)) ∧
      ((s.refetched e k b).elem e).ctxs = (s.elem e).ctxs ∧ ((s.refetched e k b).elem e).decided = (s.elem e).decided ∧
      ((s.refetched e k b).elem e).barred ≤ max (s.elem e).barred (s.tick + 3600) := by
  simp only [State.refetched, State.elem_useFree, State.elem_modElem, Plane.slot, true_and]
  refine ⟨by simp [List.getD_eq_getElem?_getD, hk], ?_⟩
  have hm : min (Config.freeDelay s.free) Config.ticksPerMicro ≤ 3600 := Nat.min_le_right _ _
  omega

section
variable {s : State} (hs : s.dbg.stopped = false) {e k : Nat} (hk : k < 16) (hl : (s.elem e).loaded = true) (hp : (s.elem e).patched = false)
  {b : List Byte} {u : State} (hr : s.recordAgain e = (some b, u))
include hs hk hl hp hr

theorem slotParityRefetch_answers (ok : Bool) : exec (.slotParityRefetch e k ok) s = .next
    (if !ok then u.elemLasting e k cUnitLasting 0
      else if crc32c b != (s.elem e).active.crc then u.elemLasting e k cImageChanged (u.recordCheck e b)
      else (u.transient 0 (placeBits e 0 k 0) 0 (elemIdx e) (s.elem e).region.toList).refetched e k b) := by
  have hk' : ¬ 16 ≤ k := by omega
  rw [exec_slotParityRefetch, execSlotParityRefetch]
  simp only [hl, hp, hs, hk', hr, Bool.not_true, Bool.or_self, decide_false, Bool.false_eq_true, if_false]
  split
  · rfl
  · split <;> rfl

/-- A record that reads as it was loaded gives the slot its word again (R69, R369). -/
theorem slotParityRefetch_refetches (hc : crc32c b = (s.elem e).active.crc) (hn : (s.elem e).active.slots.length = 16) :
    Answers (.slotParityRefetch e k true) s fun t =>
      ((t.elem e).active.slot k).op = BitVec.ofNat 32 (leNat ((b.drop (12 * k + 12)).take 4)) ∧ (t.elem e).ctxs = (s.elem e).ctxs ∧
        (t.elem e).decided = (s.elem e).decided ∧ (t.elem e).barred ≤ max (s.elem e).barred (u.tick + 3600) := by
  have hu : u.elem e = s.elem e := by
    have h := (s.recordAgain_frame e).elem e
    rwa [hr] at h
  refine ⟨_, slotParityRefetch_answers hs hk hl hp hr true, ?_⟩
  obtain ⟨d, m, p, h, ht⟩ := u.transient_eq 0 (placeBits e 0 k 0) 0 (elemIdx e) (s.elem e).region.toList
  rw [if_neg (by simp), if_neg (by simp [hc]), ht, ← hu]
  exact State.refetched_spec _ b (show k < (u.elem e).active.slots.length by rw [hu, hn]; exact hk)

/-- An element whose slot word is lost is fenced (R369). -/
theorem slotParityRefetch_fences : Answers (.slotParityRefetch e k false) s fun t => (t.elem e).fenced = true :=
  ⟨_, slotParityRefetch_answers hs hk hl hp hr false, State.elemLasting_fenced u e k cUnitLasting 0⟩

end

/-! ## Lost values (R369) -/

/-- A region of which no save is possible any more. -/
def Region.unsavable (r : Region) : Region := { r with savable := false }

/-- The record of a value that an element has lost. -/
def lossRecord (e : Nat) : FaultRec :=
  { id := 0, code := cDataLost, unit := 0, x := tileX (elemTile e), y := tileY (elemTile e), elem := elemIdx e, uidx := 0 }

theorem lossRecord_code (e : Nat) : (lossRecord e).code ≠ Trap.brk.code := show cDataLost ≠ Trap.brk.code by decide

theorem dataLost_answers {s : State} (hs : s.dbg.stopped = false) {e g : Nat} (he : elemIdx e < 6) (hr : (s.elem e).region = some g) :
    exec (.dataLost e) s = .next ((s.modRegion g Region.unsavable).takeFault g (lossRecord e)) := by
  have h6 : ¬ elemIdx e = 6 := by omega
  rw [exec_dataLost, execDataLost]
  simp only [h6, decide_false, Bool.false_eq_true, if_false, hr]
  exact guarded_pos (by simp [hs])

/-- A lost value freezes its region beyond saving; one that a fault has frozen keeps its first freeze (R369, log 37). -/
theorem dataLost_freezes {s : State} (hs : s.dbg.stopped = false) {e : Nat} {g : Region} (he : elemIdx e < 6) (hr : (s.elem e).region = some g.id)
    (hg : s.region? g.id = some g) (hf : g.faultable = true) : Answers (.dataLost e) s fun t =>
      (∃ r : Region, t.region? g.id = some r ∧ r.savable = false ∧ r.freeze = if g.faulted then g.freeze else some (.fault s.ids)) ∧
        (∃ r ∈ t.faults.records, r.id = s.ids ∧ r.code = 0x703) ∧ t.mem = s.mem ∧ t.elems = s.elems := by
  have h1 : (s.modRegion g.id Region.unsavable).region? g.id = some g.unsavable := by
    rw [State.region?_modRegion s g.id g.id (fun r => show r.unsavable.id = r.id from rfl), hg]
    simp
  have hfr := (s.modRegion g.id Region.unsavable).takeFault_frame g.id (lossRecord e)
  have hreg := State.region?_takeFault h1 hf (lossRecord_code e)
  have hrec := State.records_takeFault h1 hf (lossRecord_code e)
  refine ⟨_, dataLost_answers hs he hr, ⟨_, hreg, ?_, ?_⟩, ⟨(s.modRegion g.id Region.unsavable).faultRecord g.unsavable (lossRecord e), ?_, rfl, rfl⟩, hfr.mem, hfr.elems⟩
  · rw [Region.savable_afterFault]; rfl
  · rw [Region.freeze_afterFault]; rfl
  · rw [hrec]; exact List.mem_append_right _ (List.mem_singleton_self _)

/-! ## Clock and power (R381) -/

theorem foldl_max_le {α : Type} {f : α → Nat} {n : Nat} (l : List α) :
    ∀ m, m ≤ n → (∀ a ∈ l, f a ≤ n) → l.foldl (fun m a => max m (f a)) m ≤ n := by
  induction l with
  | nil => exact fun m hm _ => hm
  | cons a r ih => exact fun m hm hl => ih _ (max_le hm (hl a (by simp))) fun b hb => hl b (by simp [hb])

section
variable {s : State} (hs : s.dbg.stopped = false) {x : Nat}
include hs

/-- A tile idle for 256 cycles is gated (R381). -/
theorem clockGate_gates (hg : (s.tile x).gated = false) (hw : (s.tile x).wakeAt = none) (hr : (s.tile x).region ≠ none) (hsh : (s.tile x).shadowOf = none)
    (hn : s.noToken x = true) (hq : s.swageWaits x = false) (hk : s.noWork x = true) (hst : s.stirs x = false) (hi : (s.tile x).idleFrom + 256 ≤ s.tick)
    (ha : (s.tile x).startAt + 256 ≤ s.tick) (hd : ∀ e ∈ tileElems x, (s.elem e).decided + 256 ≤ s.tick) :
    Answers (.clockGate x) s fun t => t.tile x = { s.tile x with gated := true } ∧ t = { s with tiles := t.tiles } := by
  have hlast : (tileElems x).foldl (fun m e => max m (s.elem e).decided) (max (s.tile x).idleFrom (s.tile x).startAt) ≤ s.tick - 256 :=
    foldl_max_le _ _ (by omega) fun e he => by have := hd e he; omega
  have hidle : (tileElems x).foldl (fun m e => max m (s.elem e).decided) (max (s.tile x).idleFrom (s.tile x).startAt) + 256 ≤ s.tick := by omega
  have hrs : (s.tile x).region.isSome = true := Option.isSome_iff_ne_none.mpr hr
  have hc : execClockGate x s = .next (s.modTile x fun x => { x with gated := true }) :=
    guarded_pos (by simp [hg, hw, hrs, hsh, hn, hq, hk, hidle, hst, hs])
  exact ⟨_, hc, s.tile_modTile x _, rfl⟩

/-- What comes for a gated tile begins its wake, of 8 cycles at most (R381). -/
theorem tileWake_begins (hw : (s.tile x).wakeAt = none) (hg : (s.tile x).gated = true)
    (hc : s.noToken x = false ∨ s.awaited x = true ∨ s.commanded x = true) :
    Answers (.tileWake x) s fun t => ∃ w, (t.tile x).wakeAt = some w ∧ s.tick ≤ w ∧ w ≤ s.tick + 8 := by
  have he : execTileWake x s = .next ((s.modTile x fun x => { x with wakeAt := some (s.tick + min (Config.freeDelay s.free) 8) }).useFree) := by
    simp only [execTileWake, hs, hw]
    exact guarded_pos (by rcases hc with h | h | h <;> simp [hg, h])
  exact ⟨_, he, s.tick + min (Config.freeDelay s.free) 8, by simp, by omega, by omega⟩

theorem tileWake_ends {w : Nat} (hw : (s.tile x).wakeAt = some w) (ht : w ≤ s.tick) :
    Answers (.tileWake x) s fun t => (t.tile x).gated = false ∧ (t.tile x).wakeAt = none := by
  have he : execTileWake x s = .next (s.modTile x fun x => { x with gated := false, wakeAt := none, idleFrom := s.tick }) := by
    simp only [execTileWake, hs, hw]
    exact guarded_pos (by simpa using ht)
  exact ⟨_, he, by simp⟩

theorem powerGate_takes (hp : (s.tile x).powerOff = false) (hr : (s.tile x).region = none) (hsh : (s.tile x).shadowOf = none)
    (hh : ∀ g ∈ s.regions, g.holds x = false) :
    Answers (.powerGate x true) s fun t => (t.tile x).powerOff = true ∧ t = { s with tiles := t.tiles } := by
  have hany : s.regions.any (·.holds x) = false := List.any_eq_false.mpr fun g hg => by simp [hh g hg]
  have hc : execPowerGate x true s = .next (s.modTile x fun x => { x with powerOff := true }) :=
    guarded_pos (by simp only [hp, hr, hsh, hany, hs]; rfl)
  exact ⟨_, hc, congrArg Tile.powerOff (s.tile_modTile x _), rfl⟩

omit hs in
/-- The power of a tile of a region stays (R381). -/
theorem powerGate_keeps (hr : (s.tile x).region ≠ none) : Answers (.powerGate x true) s fun t => t = s := by
  have hrn : (s.tile x).region.isNone = false := Option.isNone_eq_false_iff.mpr (Option.isSome_iff_ne_none.mpr hr)
  exact ⟨_, guarded_neg (by simp [hrn]), rfl⟩

theorem powerGate_gives (hp : (s.tile x).powerOff = true) : Answers (.powerGate x false) s fun t => (t.tile x).powerOff = false := by
  have hc : execPowerGate x false s = .next (s.modTile x fun x => { x with powerOff := false }) :=
    guarded_pos (by simp [hp, hs])
  exact ⟨_, hc, congrArg Tile.powerOff (s.tile_modTile x _)⟩

end

/-! ## Writes of the control store (R382) -/

section
variable {s : State} {e : Nat} {w : StoreWrite} {g : Region} (hg : s.regionOf e = some g) (hl : (s.elem e).loaded = true)
include hg hl

/-- A write over a running region is refused, which the log answers (R382, log 19). -/
theorem controlStoreWrite_busy (hf : s.frozen g = false) :
    Answers (.controlStoreWrite e w) s fun t => t.elems = s.elems ∧ t.mgmt.log = s.mgmt.log ++ [(8, e)] := by
  have he : execControlStoreWrite e w s = .next (s.log 8 e) := by simp [execControlStoreWrite, hg, hl, hf]
  exact ⟨_, he, rfl, rfl⟩

/-- A write that fails a check leaves every element as it is (R382). -/
theorem controlStoreWrite_refused {n : Nat} (hf : s.frozen g = true) (hc : s.storeCheck e ((s.elem e).active.written w) = some n) :
    Answers (.controlStoreWrite e w) s fun t => t.elems = s.elems ∧ t.mgmt.log = s.mgmt.log ++ [(9, n)] := by
  have he : execControlStoreWrite e w s = .next (s.log 9 n) := by simp [execControlStoreWrite, hg, hl, hf, hc]
  exact ⟨_, he, rfl, rfl⟩

theorem controlStoreWrite_taken (hf : s.frozen g = true) (hc : s.storeCheck e ((s.elem e).active.written w) = none) :
    Answers (.controlStoreWrite e w) s fun t =>
      t.elem e = { s.elem e with active := (s.elem e).active.written w, patched := true } ∧ t.mgmt = s.mgmt := by
  have he : ∃ t, execControlStoreWrite e w s = .next t ∧
      t.elems = (s.modElem e fun x => { x with active := (s.elem e).active.written w, patched := true }).elems ∧ t.mgmt = s.mgmt := by
    simp only [execControlStoreWrite, hg, hl, hf, hc]
    exact ⟨_, rfl, rfl, rfl⟩
  obtain ⟨t, ht, helems, hm⟩ := he
  refine ⟨t, ht, ?_, hm⟩
  rw [State.elem, helems]
  exact s.elem_modElem e _

end

/-- Settles O53, clause by clause. -/
theorem errorSteps : Obligations.ErrorSteps := by
  intro s hs
  refine ⟨fun pa hp => ⟨eccRetry_transient hs hp, eccRetry_poisons hs hp⟩, fun j hj => ⟨linkCrcRetry_resends hs hj, linkCrcRetry_fences hs hj⟩, ?_,
    fun e g => dataLost_freezes hs, fun x => clockGate_gates hs, fun x => ⟨tileWake_begins hs, fun w => tileWake_ends hs⟩,
    fun x => ⟨powerGate_takes hs, fun _ => powerGate_keeps, powerGate_gives hs⟩, ?_⟩
  · intro e k hk hl hp
    exact ⟨fun b u hr hc hn _ => slotParityRefetch_refetches hs hk hl hp hr hc hn, fun b u hr => slotParityRefetch_fences hs hk hl hp hr⟩
  · intro e w g hg hl
    exact ⟨controlStoreWrite_busy hg hl, fun n => controlStoreWrite_refused hg hl, controlStoreWrite_taken hg hl⟩

end Sys2Proof.Machine
end

section
/-! SUPPORT. The generator of draws and DRAW (R91, R92, R94, R123): a draw's lanes, its trap, and the position that its decision leaves. -/

namespace Sys2Proof.Machine

open Sys2Proof.Safety

/-! ## Decided fires -/

/-- The operands in the surroundings of a decided fire are those of its instruction. -/
theorem op_of_decides {i : Instr} {o : Op} {c : Nat} {s : State} {v : Env} (h : Decides i s v) (hp : i.parts = some (c, o)) : v.o = o := by
  obtain ⟨-, -, -, -, -, hparts, -⟩ := State.env_fields h.1
  have heq : (v.opc, v.o) = (c, o) := Option.some.inj (hparts.symm.trans hp)
  exact congrArg Prod.snd heq

/-- The context in the surroundings of a decided fire is the state's. -/
theorem ctx_of_decides {i : Instr} {s : State} {v : Env} (h : Decides i s v) : v.c = s.ctx v.e v.k := by
  obtain ⟨-, -, -, -, -, -, -, -, hc, -⟩ := State.env_fields h.1
  exact hc

/-! ## Elements after a decision -/

theorem State.trace_elems (s : State) (kind unit place d2 d3 : Nat) : (s.trace kind unit place d2 d3).elems = s.elems := by
  obtain ⟨d, m, p, h, he⟩ := s.trace_eq kind unit place d2 d3
  rw [he]

theorem Env.sample_elems (v : Env) (lat : Nat) (wait : Wait) (s : State) : (v.sample lat wait s).elems = s.elems := by
  unfold Env.sample
  extract_lets p
  split
  · rfl
  · exact s.trace_elems _ _ _ _ _

theorem Env.commit_elems (v : Env) (g : Go) : (v.commit g).elems = tput v.s.elems v.e (v.elemNext g) := by
  unfold Env.commit
  extract_lets s1 s2 s3 s4
  have h4 : s4.elems = s3.elems := by
    simp only [s4]
    split <;> rfl
  rw [v.sample_elems, h4]
  rfl

/-- A decision leaves its element as the atomic step of R24 makes it. -/
theorem Env.elem_commit (v : Env) (g : Go) : (v.commit g).elem v.e = v.elemNext g := by
  rw [State.elem, v.commit_elems, tget_tput_same]

/-- The context that fires has, of the four, its own changes of R24. -/
theorem Env.elemNext_ctx (v : Env) (g : Go) (hk : v.k < 4) :
    (v.elemNext g).ctx v.k = v.ctxNext g ((v.s.ctx v.e v.k).age v.g.fairwin (v.s.eligibleSlots v.e v.k) (some v.j)) := by
  have hl : (List.range 4)[v.k]? = some v.k := by rw [List.getElem?_range hk]
  simp [Env.elemNext, Elem.ctx, State.ctx, State.agedCtxs, List.getD_eq_getElem?_getD, hl]

/-- The position of the generator after a decision: advanced where the fire draws (R91). -/
theorem Env.rngpos_commit (v : Env) (g : Go) (hk : v.k < 4) :
    (((v.commit g).elem v.e).ctx v.k).rngpos = if g.draw then drawNext (v.s.ctx v.e v.k).rngpos else (v.s.ctx v.e v.k).rngpos := by
  rw [v.elem_commit, v.elemNext_ctx g hk]
  rfl

/-! ## Draws -/

theorem drawSat_eq (pos : Word) : drawSat pos = decide (pos.toNat % 2 ^ 24 = 2 ^ 24 - 1) := by
  simp only [drawSat, beq_eq_decide]
  rfl

theorem drawNext_eq (pos : Word) : drawNext pos = if decide (pos.toNat % 2 ^ 24 = 2 ^ 24 - 1) then pos else pos + 1 := by
  rw [drawNext, drawSat_eq]

theorem rotl64_eq_rotateLeft (d : Word) (r : Nat) : rotl64 d.toNat r = (d.rotateLeft r).toNat := by
  simp [rotl64, BitVec.toNat_rotateLeft, Nat.mod_eq_of_lt d.isLt]

/-- A drawing fire traps RNG_SAT at the last index under RSTE (R94). -/
theorem drawing_trap {f : Env → Word → Dec} {v : Env} (hl : drawSat v.c.rngpos = true) (hr : v.c.frm.toNat.testBit 8 = true) :
    drawing f v = .trap .rngSat 0 0 0 := by
  simp [drawing, hl, hr]

/-- A drawing fire that does not trap takes its draw, and RNGSAT is among its flags at the last index (R91). -/
theorem drawing_go {f : Env → Word → Dec} {v : Env} {g : Go} (h : ¬ (drawSat v.c.rngpos = true ∧ v.c.frm.toNat.testBit 8 = true))
    (hf : f v (drawOf v.c.rngseed v.c.rngpos) = .go g) :
    drawing f v = .go { g with draw := true, flags := g.flags ||| if drawSat v.c.rngpos then fRNGSAT else 0 } := by
  have hc : (drawSat v.c.rngpos && v.c.frm.toNat.testBit 8) = false := by
    rw [Bool.eq_false_iff]
    simpa only [ne_eq, Bool.and_eq_true] using h
  rw [drawing, hc, hf]
  rfl

/-- The value of one draw in a DRAW (R123). -/
def drawVal (wide : Bool) (d : Word) : Val :=
  laneVal wide 64 6 (if wide then (List.range 8).map fun l => rotl64 d.toNat (5 * l) else [d.toNat])

theorem drawVal_isLanes (wide : Bool) (d : Word) :
    IsLanes wide 64 6 (if wide then 8 else 1) (fun l => d.rotateLeft (if wide then 5 * l else 0)) (drawVal wide d) := by
  cases wide with
  | true =>
    refine laneVal_isLanes true 64 6 8 _ (fun l => rotl64 d.toNat (5 * l)) (by decide) (fun l _ => ?_) (by decide)
    simp only [if_true, rotl64_eq_rotateLeft, BitVec.ofNat_toNat, BitVec.setWidth_eq]
  | false =>
    refine laneVal_isLanes false 64 6 1 _ (fun _ => d.toNat) (by decide) (fun l _ => ?_) (by decide)
    apply BitVec.eq_of_toNat_eq
    simp [Nat.mod_eq_of_lt d.isLt, Nat.shiftRight_eq_div_pow, Nat.div_eq_of_lt d.isLt]

theorem exec_draw (o : Op) (s : State) : exec (.draw o) s = fire (drawing fun v d => .go (.both 2 (drawVal v.wide d))) (.draw o) s := rfl

/-- Settles O22: the generator's lemmas, and the trap or the lanes of DRAW. -/
theorem draws : Obligations.Draws := by
  intro o s v h c last x y z d
  have hc : v.c = c := ctx_of_decides h
  have hlast : drawSat v.c.rngpos = last := by rw [hc, drawSat_eq]
  have hfrm : v.c.frm = c.frm := by rw [hc]
  have hs : v.s = s := (State.env_fields h.1).1
  refine ⟨fun ⟨hl, hr⟩ => ?_, fun hno => ?_⟩
  · rw [Traps, exec_draw]
    exact fire_trap _ h (drawing_trap (hlast.trans hl) (by rw [hfrm]; exact hr))
  · have hd : drawOf v.c.rngseed v.c.rngpos = d := by rw [hc]; rfl
    refine ⟨drawVal v.wide d, ?_, drawVal_isLanes v.wide d, fun hk => ?_⟩
    · rw [Goes, exec_draw]
      refine fire_go _ h ?_
      rw [drawing_go (by rwa [hlast, hfrm]) rfl, hlast, hd]
      simp [Go.both, fRNGSAT]
    · rw [v.rngpos_commit _ hk, hs]
      exact drawNext_eq c.rngpos

end Sys2Proof.Machine
end

section
/-! SUPPORT. The float arithmetic of a lane by the numbers of its operands (R127): what an encoding makes of each kind of number, the exact sums and
products of each pair of kinds, and from them FADD, FSUB, FMUL and the fused forms. -/

namespace Sys2Proof.Machine

open Sys2Proof.Safety

/-! ## Numbers by their kind -/

@[simp] theorem Num.isNan_nan (q : Bool) : (Num.nan q).isNan = true := rfl
@[simp] theorem Num.isNan_inf (n : Bool) : (Num.inf n).isNan = false := rfl
@[simp] theorem Num.isNan_fin (n : Bool) (m : Nat) (e : Int) : (Num.fin n m e).isNan = false := rfl
@[simp] theorem Num.isSnan_nan (q : Bool) : (Num.nan q).isSnan = q := rfl
@[simp] theorem Num.isSnan_inf (n : Bool) : (Num.inf n).isSnan = false := rfl
@[simp] theorem Num.isSnan_fin (n : Bool) (m : Nat) (e : Int) : (Num.fin n m e).isSnan = false := rfl
@[simp] theorem Num.negate_nan (q : Bool) : (Num.nan q).negate = .nan q := rfl
@[simp] theorem Num.negate_inf (n : Bool) : (Num.inf n).negate = .inf (!n) := rfl
@[simp] theorem Num.negate_fin (n : Bool) (m : Nat) (e : Int) : (Num.fin n m e).negate = .fin (!n) m e := rfl
@[simp] theorem Num.isNan_negate (x : Num) : x.negate.isNan = x.isNan := by cases x <;> rfl
@[simp] theorem Num.isSnan_negate (x : Num) : x.negate.isSnan = x.isSnan := by cases x <;> rfl

theorem Num.isNan_iff {x : Num} : x.isNan = true ↔ ∃ q, x = .nan q := by cases x <;> simp

theorem Num.isSnan_of_not_isNan {x : Num} (h : x.isNan = false) : x.isSnan = false := by
  cases x with
  | nan q => cases h
  | inf n => rfl
  | fin n m e => rfl

/-- The flags of signalling operands (R75). -/
theorem sigFlag_pair (x y : Num) : sigFlag [x, y] = if x.isSnan || y.isSnan then fNV else 0 := by simp [sigFlag, flagIf]
theorem sigFlag_triple (x y z : Num) : sigFlag [x, y, z] = if x.isSnan || y.isSnan || z.isSnan then fNV else 0 := by
  simp [sigFlag, flagIf, Bool.or_assoc]

/-! ## Exact sums and products (R127) -/

theorem Num.isNan_add_of_isNan (rm : Rm) {x y : Num} (h : x.isNan = true ∨ y.isNan = true) : (Num.add rm x y).isNan = true := by
  cases x <;> cases y <;> simp_all [Num.add]

@[simp] theorem Num.add_inf_inf (rm : Rm) (m n : Bool) : Num.add rm (.inf m) (.inf n) = if m = n then .inf m else .nan false := by
  simp [Num.add]
@[simp] theorem Num.add_inf_fin (rm : Rm) (n k : Bool) (j : Nat) (f : Int) : Num.add rm (.inf n) (.fin k j f) = .inf n := rfl
@[simp] theorem Num.add_fin_inf (rm : Rm) (n k : Bool) (j : Nat) (f : Int) : Num.add rm (.fin k j f) (.inf n) = .inf n := rfl

/-- A zero added to a nonzero number leaves it as it stands. -/
theorem Num.add_zero_right (rm : Rm) (n k : Bool) {m : Nat} (e f : Int) (hm : m ≠ 0) : Num.add rm (.fin n m e) (.fin k 0 f) = .fin n m e := by
  simp [Num.add, hm]

/-- A sum of finite numbers is finite. -/
theorem Num.add_fin_fin (rm : Rm) (n k : Bool) (m j : Nat) (e f : Int) : ∃ l q g, Num.add rm (.fin n m e) (.fin k j f) = .fin l q g := by
  simp only [Num.add]
  split_ifs <;> exact ⟨_, _, _, rfl⟩

theorem Num.isNan_mul_of_isNan {x y : Num} (h : x.isNan = true ∨ y.isNan = true) : (Num.mul x y).isNan = true := by
  cases x <;> cases y <;> simp_all [Num.mul]

@[simp] theorem Num.mul_inf_inf (k l : Bool) : Num.mul (.inf k) (.inf l) = .inf (k ^^ l) := by simp [Num.mul]
@[simp] theorem Num.mul_fin_fin (n k : Bool) (m j : Nat) (e f : Int) : Num.mul (.fin n m e) (.fin k j f) = .fin (n != k) (m * j) (e + f) := rfl

theorem Num.mul_inf_fin (k l : Bool) (m : Nat) (e : Int) : Num.mul (.inf k) (.fin l m e) = if m = 0 then .nan false else .inf (k ^^ l) := by
  cases k <;> cases l <;> rfl
theorem Num.mul_fin_inf (k l : Bool) (m : Nat) (e : Int) : Num.mul (.fin k m e) (.inf l) = if m = 0 then .nan false else .inf (k ^^ l) := by
  cases k <;> cases l <;> rfl

/-- The product of x and y is an infinity of sign n. -/
def InfiniteProduct (x y : Num) (n : Bool) : Prop := ∃ k l, n = xor k l ∧
  ((x = .inf k ∧ (y = .inf l ∨ ∃ m e, y = .fin l m e ∧ m ≠ 0)) ∨ (y = .inf l ∧ ∃ m e, x = .fin k m e ∧ m ≠ 0))

/-- x and y are 0 and ∞. -/
def ZeroTimesInf (x y : Num) : Prop := ∃ k l e, (x = .inf k ∧ y = .fin l 0 e) ∨ (x = .fin k 0 e ∧ y = .inf l)

theorem InfiniteProduct.mul_eq {x y : Num} {n : Bool} (h : InfiniteProduct x y n) : Num.mul x y = .inf n := by
  obtain ⟨k, l, rfl, ⟨rfl, rfl | ⟨m, e, rfl, hm⟩⟩ | ⟨rfl, m, e, rfl, hm⟩⟩ := h
  · exact Num.mul_inf_inf k l
  · rw [Num.mul_inf_fin, if_neg hm]
  · rw [Num.mul_fin_inf, if_neg hm]

theorem InfiniteProduct.not_isNan {x y : Num} {n : Bool} (h : InfiniteProduct x y n) : x.isNan = false ∧ y.isNan = false := by
  obtain ⟨k, l, -, ⟨rfl, rfl | ⟨m, e, rfl, -⟩⟩ | ⟨rfl, m, e, rfl, -⟩⟩ := h <;> exact ⟨rfl, rfl⟩

theorem ZeroTimesInf.mul_eq {x y : Num} (h : ZeroTimesInf x y) : Num.mul x y = .nan false := by
  obtain ⟨k, l, e, ⟨rfl, rfl⟩ | ⟨rfl, rfl⟩⟩ := h
  · exact Num.mul_inf_fin k l 0 e
  · exact Num.mul_fin_inf k l 0 e

/-- A product is invalid exactly where it is 0 × ∞ (R127). -/
theorem badProduct_iff (x y : Num) : badProduct x y = true ↔ ZeroTimesInf x y := by
  constructor
  · intro h
    match x, y with
    | .nan _, _ => simp [badProduct] at h
    | _, .nan _ => simp [badProduct] at h
    | .inf k, .inf l => simp [badProduct] at h
    | .inf k, .fin l m e =>
      have hm : m = 0 := by
        by_contra hm
        simp [badProduct, Num.mul_inf_fin, hm] at h
      exact ⟨k, l, e, .inl ⟨rfl, by rw [hm]⟩⟩
    | .fin k m e, .inf l =>
      have hm : m = 0 := by
        by_contra hm
        simp [badProduct, Num.mul_fin_inf, hm] at h
      exact ⟨k, l, e, .inr ⟨by rw [hm], rfl⟩⟩
    | .fin k m e, .fin l j f => simp [badProduct] at h
  · rintro ⟨k, l, e, ⟨rfl, rfl⟩ | ⟨rfl, rfl⟩⟩ <;> rfl

theorem badProduct_of_isNan {x y : Num} (h : x.isNan = true ∨ y.isNan = true) : badProduct x y = false := by
  rcases h with h | h <;> simp [badProduct, h]

/-- Where a product is a number, it is no invalid one. -/
theorem badProduct_of_mul_eq {x y p : Num} (h : Num.mul x y = p) (hp : p.isNan = false) : badProduct x y = false := by
  simp [badProduct, h, hp]

/-! ## Sums and products rounded once -/

section

variable {fmt : Nat} (hf : fmt ∈ [7, 8, 9])
include hf

theorem isIeee_of_mem : isIeee fmt = true := by
  simp only [List.mem_cons, List.not_mem_nil, or_false] at hf
  rcases hf with rfl | rfl | rfl <;> rfl

/-- An infinity is encoded as it is (R75). -/
theorem encodeFloat_inf (rm : Rm) (n : Bool) : encodeFloat fmt rm (.inf n) = (ieeeInf fmt n, 0) := by
  simp [encodeFloat, isIeee_of_mem hf]

theorem sumOut_inf {rm : Rm} {x y : Num} {fl : Flags} {n : Bool} (h : Num.add rm x y = .inf n) (hfl : fl = 0) :
    sumOut rm fmt x y fl = (ieeeInf fmt n, 0) := by
  simp [sumOut, h, hfl, encodeFloat_inf hf]

omit hf in
theorem sumOut_nan {rm : Rm} {x y : Num} {fl : Flags} (h : (Num.add rm x y).isNan = true) :
    sumOut rm fmt x y fl = (canonNan fmt, fl ||| if !x.isNan && !y.isNan then fNV else 0) := by
  obtain ⟨q, hq⟩ := Num.isNan_iff.mp h
  simp only [sumOut, hq]
  rfl

omit hf in
/-- A sum that is finite is encoded once, with the flags of that alone. -/
theorem sumOut_fin {rm : Rm} {x y : Num} {fl : Flags} {l : Bool} {q : Nat} {g : Int} (h : Num.add rm x y = .fin l q g) (hfl : fl = 0) :
    sumOut rm fmt x y fl = encodeFloat fmt rm (Num.add rm x y) := by
  simp [sumOut, h, hfl]

/-- FADD and FSUB (R127): w is the second operand, or for FSUB its negation. -/
theorem sumOut_cases (rm : Rm) {x y w : Num} (hw : w = y ∨ w = y.negate) :
    let sum := sumOut rm fmt x w (sigFlag [x, y])
    (x.isNan = true ∨ y.isNan = true → sum = (canonNan fmt, if x.isSnan || y.isSnan then fNV else 0)) ∧
    (∀ n, x = .inf n → w = .inf (!n) → sum = (canonNan fmt, fNV)) ∧
    (∀ n, (x = .inf n ∧ (w = .inf n ∨ ∃ k j f, w = .fin k j f)) ∨ (w = .inf n ∧ ∃ k j f, x = .fin k j f) → sum = (ieeeInf fmt n, 0)) ∧
    (∀ n m e k f, x = .fin n m e → w = .fin k 0 f → m ≠ 0 → sum = encodeFloat fmt rm x) ∧
    (∀ n m e k j f, x = .fin n m e → w = .fin k j f → sum = encodeFloat fmt rm (Num.add rm x w)) := by
  intro sum
  have hnan : w.isNan = y.isNan := by rcases hw with rfl | rfl <;> simp
  have hsnan : w.isSnan = y.isSnan := by rcases hw with rfl | rfl <;> simp
  have hsig : sum = sumOut rm fmt x w (if x.isSnan || w.isSnan then fNV else 0) := by simp only [sum, sigFlag_pair, hsnan]
  have hfin : ∀ n m e k j f, x = .fin n m e → w = .fin k j f → sum = encodeFloat fmt rm (Num.add rm x w) := by
    rintro n m e k j f rfl rfl
    obtain ⟨l, q, g, hadd⟩ := Num.add_fin_fin rm n k m j e f
    exact hsig.trans (sumOut_fin hadd rfl)
  refine ⟨fun h => ?_, ?_, ?_, ?_, hfin⟩
  · rw [hsig, sumOut_nan (Num.isNan_add_of_isNan rm (by rwa [hnan])), hsnan, hnan]
    rcases h with h | h <;> simp [h]
  · rintro n rfl rfl
    rw [hsig, sumOut_nan (by simp)]
    simp
  · rintro n (⟨rfl, rfl | ⟨k, j, f, rfl⟩⟩ | ⟨rfl, k, j, f, rfl⟩) <;> exact hsig.trans (sumOut_inf hf (by simp) rfl)
  · rintro n m e k f hx rfl hm
    rw [hfin n m e k 0 f hx rfl, hx, Num.add_zero_right rm n k e f hm]

omit hf in
theorem mulOut_nan {rm : Rm} {a b : Nat} {q : Bool} (h : Num.mul (decodeIeee fmt a) (decodeIeee fmt b) = .nan q) : mulOut rm fmt a b =
    (canonNan fmt, sigFlag [decodeIeee fmt a, decodeIeee fmt b] ||| flagIf (badProduct (decodeIeee fmt a) (decodeIeee fmt b)) fNV) := by
  simp only [mulOut, h]

omit hf in
/-- A product that is a number is encoded once, with the flags of that alone. -/
theorem mulOut_number {rm : Rm} {a b : Nat} {p : Num} (h : Num.mul (decodeIeee fmt a) (decodeIeee fmt b) = p) (hp : p.isNan = false)
    (hx : (decodeIeee fmt a).isNan = false) (hy : (decodeIeee fmt b).isNan = false) : mulOut rm fmt a b = encodeFloat fmt rm p := by
  have hsig : sigFlag [decodeIeee fmt a, decodeIeee fmt b] = 0 := by
    rw [sigFlag_pair, Num.isSnan_of_not_isNan hx, Num.isSnan_of_not_isNan hy]
    rfl
  have hbad := badProduct_of_mul_eq h hp
  cases p with
  | nan q => cases hp
  | inf n => simp [mulOut, h, hsig, hbad, flagIf]
  | fin n m e => simp [mulOut, h, hsig, hbad, flagIf]

/-- FMUL (R127). -/
theorem mulOut_cases (rm : Rm) (a b : Nat) :
    let x := decodeIeee fmt a
    let y := decodeIeee fmt b
    let mul := mulOut rm fmt a b
    (x.isNan = true ∨ y.isNan = true → mul = (canonNan fmt, if x.isSnan || y.isSnan then fNV else 0)) ∧
    (ZeroTimesInf x y → mul = (canonNan fmt, fNV)) ∧
    (∀ n, InfiniteProduct x y n → mul = (ieeeInf fmt n, 0)) ∧
    (∀ n m e k j f, x = .fin n m e → y = .fin k j f → mul = encodeFloat fmt rm (Num.mul x y)) := by
  intro x y mul
  refine ⟨fun h => ?_, fun h => ?_, fun n h => ?_, fun n m e k j f hx hy => ?_⟩
  · obtain ⟨q, hq⟩ := Num.isNan_iff.mp (Num.isNan_mul_of_isNan h)
    simp only [mul, mulOut_nan hq]
    rw [badProduct_of_isNan h, sigFlag_pair]
    simp [x, y, flagIf]
  · have hsig : sigFlag [x, y] = 0 := by
      obtain ⟨k, l, e, ⟨hx, hy⟩ | ⟨hx, hy⟩⟩ := h <;> rw [hx, hy] <;> rfl
    exact (mulOut_nan h.mul_eq).trans (by rw [hsig, (badProduct_iff x y).mpr h]; rfl)
  · exact (mulOut_number h.mul_eq rfl h.not_isNan.1 h.not_isNan.2).trans (encodeFloat_inf hf rm n)
  · have hmul : Num.mul x y = .fin (n != k) (m * j) (e + f) := by rw [hx, hy, Num.mul_fin_fin]
    rw [hmul]
    exact mulOut_number hmul rfl (congrArg Num.isNan hx) (congrArg Num.isNan hy)

/-- FMA, FMS and FNMA (R127): `sub` negates the addend, `rev` the product. -/
theorem fusedOut_cases (sub rev : Bool) (rm : Rm) (a b c : Nat) :
    let x := decodeIeee fmt a
    let y := decodeIeee fmt b
    let z := decodeIeee fmt c
    let out := ((fusedOut sub rev rm fmt a b c).1, (fusedOut sub rev rm fmt a b c).2.2)
    let sig := if x.isSnan || y.isSnan || z.isSnan then fNV else 0
    let p := if rev then (Num.mul x y).negate else Num.mul x y
    let w := if sub then z.negate else z
    (x.isNan = true ∨ y.isNan = true → out = (canonNan fmt, sig)) ∧
    (ZeroTimesInf x y → out = (canonNan fmt, fNV)) ∧
    (¬ ZeroTimesInf x y → z.isNan = true → x.isNan = false → y.isNan = false → out = (canonNan fmt, sig)) ∧
    (∀ n, InfiniteProduct x y n → (∃ k j f, z = .fin k j f) → out = (ieeeInf fmt (xor n rev), 0)) ∧
    (∀ n l, InfiniteProduct x y n → z = .inf l → out = if xor n rev = xor l sub then (ieeeInf fmt (xor n rev), 0) else (canonNan fmt, fNV)) ∧
    (∀ n m e k j f l, x = .fin n m e → y = .fin k j f → z = .inf l → out = (ieeeInf fmt (xor l sub), 0)) ∧
    (∀ n m e k j f l q g, x = .fin n m e → y = .fin k j f → z = .fin l q g → out = encodeFloat fmt rm (Num.add rm p w)) := by
  intro x y z out sig p w
  -- an operand that is NaN, or an invalid product
  have hstop : (x.isNan || y.isNan || z.isNan || badProduct x y) = true → out = (canonNan fmt, sig ||| flagIf (badProduct x y) fNV) := by
    intro h
    simp only [out, fusedOut, x, y, z] at h ⊢
    simp only [h, if_true, sigFlag_triple]
    rfl
  -- numbers alone: the sum of the product and the addend
  have hsum : x.isNan = false → y.isNan = false → z.isNan = false → badProduct x y = false → out = sumOut rm fmt p w 0 := by
    intro hx hy hz hb
    have hfl : sigFlag [x, y, z] ||| flagIf (badProduct x y) fNV = 0 := by
      rw [sigFlag_triple, Num.isSnan_of_not_isNan hx, Num.isSnan_of_not_isNan hy, Num.isSnan_of_not_isNan hz, hb]
      rfl
    have hn : ¬ (x.isNan || y.isNan || z.isNan || badProduct x y) = true := by simp [hx, hy, hz, hb]
    simp only [out, fusedOut]
    rw [if_neg hn, hfl]
  have hinf : ∀ n, InfiniteProduct x y n → z.isNan = false → out = sumOut rm fmt (.inf (xor n rev)) w 0 := by
    intro n h hz
    rw [hsum h.not_isNan.1 h.not_isNan.2 hz (badProduct_of_mul_eq h.mul_eq rfl)]
    simp only [p, h.mul_eq]
    cases rev <;> simp
  refine ⟨fun h => ?_, fun h => ?_, fun h hz hx hy => ?_, fun n h hz => ?_, fun n l h hz => ?_, fun n m e k j f l hx hy hz => ?_,
    fun n m e k j f l q g hx hy hz => ?_⟩
  · rw [hstop (by rcases h with h | h <;> simp [h]), badProduct_of_isNan h]
    simp [flagIf]
  · rw [hstop (by simp [(badProduct_iff x y).mpr h]), (badProduct_iff x y).mpr h]
    simp only [sig, flagIf]
    split <;> rfl
  · have hb : badProduct x y = false := by rw [Bool.eq_false_iff]; exact fun hb => h ((badProduct_iff x y).mp hb)
    rw [hstop (by simp [hz]), hb]
    simp [flagIf]
  · obtain ⟨k, j, f, hz⟩ := hz
    rw [hinf n h (by rw [hz]; rfl)]
    simp only [w, hz]
    refine sumOut_inf hf ?_ rfl
    cases sub <;> rfl
  · rw [hinf n h (by rw [hz]; rfl)]
    have hw : w = .inf (xor l sub) := by simp only [w, hz]; cases sub <;> simp
    rw [hw]
    split
    next he => exact sumOut_inf hf (by rw [Num.add_inf_inf, if_pos he]) rfl
    next he => rw [sumOut_nan (by rw [Num.add_inf_inf, if_neg he]; rfl)]; simp
  · rw [hsum (by rw [hx]; rfl) (by rw [hy]; rfl) (by rw [hz]; rfl) (badProduct_of_mul_eq (by rw [hx, hy]) rfl)]
    simp only [p, w, hx, hy, hz]
    refine sumOut_inf hf ?_ rfl
    cases rev <;> cases sub <;> simp
  · rw [hsum (by rw [hx]; rfl) (by rw [hy]; rfl) (by rw [hz]; rfl) (badProduct_of_mul_eq (by rw [hx, hy]) rfl)]
    have hp : ∃ n m e, p = .fin n m e := by simp only [p, hx, hy]; cases rev <;> exact ⟨_, _, _, rfl⟩
    have hw : ∃ n m e, w = .fin n m e := by simp only [w, hz]; cases sub <;> exact ⟨_, _, _, rfl⟩
    obtain ⟨_, _, _, hp⟩ := hp
    obtain ⟨_, _, _, hw⟩ := hw
    rw [hp, hw]
    obtain ⟨_, _, _, hadd⟩ := Num.add_fin_fin rm _ _ _ _ _ _
    exact sumOut_fin hadd rfl

end

/-- Settles O27: sums, products and fused forms, each by the kinds of its operands. -/
theorem arithmeticCases : Obligations.ArithmeticCases := by
  intro rm fmt a b c hf x y z nan sig2 sig3 mul infinite bad
  obtain ⟨hnan, hbad, hinf, hfin⟩ := mulOut_cases hf rm a b
  refine ⟨fun w hw => sumOut_cases hf rm (by simpa using hw), hnan, hbad, hinf, hfin, fun sub rev => fusedOut_cases hf sub rev rm a b c⟩

end Sys2Proof.Machine
end

section
/-! SUPPORT. The values of IEEE lanes as rational numbers (R75): a finite lane's mantissa and exponent, the unit of the last place of a value, and that the
encoder gives a value that the format has back as it is, with no flag (R88). -/

namespace Sys2Proof.Machine

open Sys2Proof.Safety

/-! ## Exact numbers as rationals -/

theorem ratOf_fin (n : Bool) (m : Nat) (e : Int) : ratOf (.fin n m e) = (if n then -1 else 1) * ((m : ℚ) * 2 ^ e) := by
  rw [ratOf, mul_assoc]

theorem ratOf_fin_false (m : Nat) (e : Int) : ratOf (.fin false m e) = (m : ℚ) * 2 ^ e := by simp [ratOf_fin]

theorem abs_ratOf_fin (n : Bool) (m : Nat) (e : Int) : |ratOf (.fin n m e)| = (m : ℚ) * 2 ^ e := by
  have h : 0 ≤ (m : ℚ) * 2 ^ e := by positivity
  cases n <;> simp [ratOf_fin, abs_of_nonneg h]

theorem two_zpow_toNat {z : Int} (h : 0 ≤ z) : ((2 ^ z.toNat : Nat) : ℚ) = 2 ^ z := by
  rw [Nat.cast_pow, Nat.cast_ofNat, ← zpow_natCast, Int.toNat_of_nonneg h]

/-- The leading bit of m × 2^e stands at log2 m + e. -/
theorem two_zpow_log2_le {m : Nat} (hm : m ≠ 0) (e : Int) : (2 : ℚ) ^ ((Nat.log2 m : Int) + e) ≤ m * 2 ^ e := by
  rw [zpow_add₀ two_ne_zero, zpow_natCast]
  gcongr
  exact_mod_cast Nat.log2_self_le hm

theorem lt_two_zpow_log2 (m : Nat) (e : Int) : (m : ℚ) * 2 ^ e < 2 ^ ((Nat.log2 m : Int) + e + 1) := by
  rw [show (Nat.log2 m : Int) + e + 1 = ((Nat.log2 m + 1 : Nat) : Int) + e by push_cast; ring, zpow_add₀ two_ne_zero, zpow_natCast]
  gcongr
  exact_mod_cast Nat.lt_log2_self

theorem log2_add_eq {m : Nat} {e t : Int} (hm : m ≠ 0) (h1 : (2 : ℚ) ^ t ≤ m * 2 ^ e) (h2 : (m : ℚ) * 2 ^ e < 2 ^ (t + 1)) :
    (Nat.log2 m : Int) + e = t := by
  have h3 := (zpow_lt_zpow_iff_right₀ (one_lt_two (α := ℚ))).mp ((two_zpow_log2_le hm e).trans_lt h2)
  have h4 := (zpow_lt_zpow_iff_right₀ (one_lt_two (α := ℚ))).mp (h1.trans_lt (lt_two_zpow_log2 m e))
  omega

/-! ## Rounding of a multiple -/

/-- m × 2^e in units of 2^q, where q lies above e. -/
theorem div_two_zpow_eq {m : Nat} {e q : Int} (h : e ≤ q) : (m : ℚ) * 2 ^ e = m / (2 ^ (q - e).toNat : Nat) * 2 ^ q := by
  rw [two_zpow_toNat (by omega), zpow_sub₀ two_ne_zero]
  field_simp

/-- m × 2^e in units of 2^q, where q does not lie above e. -/
theorem mul_two_zpow_eq {m : Nat} {e q : Int} (h : q ≤ e) : (m : ℚ) * 2 ^ e = (m <<< (e - q).toNat : Nat) * 2 ^ q := by
  rw [Nat.shiftLeft_eq, Nat.cast_mul, two_zpow_toNat (by omega), zpow_sub₀ two_ne_zero]
  field_simp

/-- A multiple of 2^q is rounded to itself (R88). -/
theorem roundTo_of_eq (rm : Rm) (neg : Bool) {m k : Nat} {e q : Int} (h : (m : ℚ) * 2 ^ e = k * 2 ^ q) : roundTo rm neg m e q = (k, false) := by
  have hq : (2 : ℚ) ^ q ≠ 0 := by positivity
  unfold roundTo
  split
  next hle =>
    rw [mul_two_zpow_eq hle] at h
    have hk : m <<< (e - q).toNat = k := by exact_mod_cast mul_right_cancel₀ hq h
    rw [hk]
  next hlt =>
    rw [div_two_zpow_eq (show e ≤ q by omega)] at h
    have hk := mul_right_cancel₀ hq h
    rw [div_eq_iff (by positivity)] at hk
    have hm : m = k * 2 ^ (q - e).toNat := by exact_mod_cast hk
    simp [shiftRound, hm, Nat.shiftRight_eq_div_pow]

/-! ## IEEE lanes (R75) -/

/-- Exponent and fraction bits of an IEEE format. -/
def expBits (f : Nat) : Nat := (ieeeParams f).1
def fracBits (f : Nat) : Nat := (ieeeParams f).2

theorem ieeeParams_eq (f : Nat) : ieeeParams f = (expBits f, fracBits f) := rfl

theorem expBits_cases (f : Nat) : expBits f = 8 ∨ expBits f = 5 := by
  unfold expBits ieeeParams
  split <;> simp

theorem laneBits_ieee {f : Nat} (hf : f ∈ [7, 8, 9]) : laneBits f = expBits f + fracBits f + 1 := by
  simp only [List.mem_cons, List.not_mem_nil, or_false] at hf
  rcases hf with rfl | rfl | rfl <;> rfl

/-- The bias of an IEEE format. -/
def ieeeBias (f : Nat) : Int := (2 ^ (expBits f - 1) - 1 : Nat)

theorem ieeeBias_eq (f : Nat) : ieeeBias f = 2 ^ (expBits f - 1) - 1 := by
  rw [ieeeBias, Nat.cast_sub Nat.one_le_two_pow]
  push_cast
  rfl

/-- The codes of finite magnitudes lie below this one, of the infinity. -/
def infCode (f : Nat) : Nat := (2 ^ expBits f - 1) * 2 ^ fracBits f

/-- The sign of a lane as it stands in its bits. -/
def signPart (f : Nat) (s : Bool) : Nat := if s then 2 ^ (expBits f + fracBits f) else 0

theorem ieeeInf_eq (f : Nat) (s : Bool) : ieeeInf f s = signPart f s + infCode f := rfl

/-- A magnitude's code gives its mantissa and the exponent of its last place. -/
def mantOf (f c : Nat) : Nat := if c < 2 ^ fracBits f then c else 2 ^ fracBits f + c % 2 ^ fracBits f
def expOf (f c : Nat) : Int := (if c < 2 ^ fracBits f then 1 else ((c / 2 ^ fracBits f : Nat) : Int)) - ieeeBias f - fracBits f

/-- The magnitude of a code. -/
def magOf (f c : Nat) : ℚ := mantOf f c * 2 ^ expOf f c

theorem infCode_lt (f : Nat) : infCode f < 2 ^ (expBits f + fracBits f) := by
  rw [infCode, Nat.pow_add]
  exact Nat.mul_lt_mul_of_pos_right (Nat.sub_lt (Nat.two_pow_pos _) one_pos) (Nat.two_pow_pos _)

/-- The parts of a lane: sign, exponent field, fraction. -/
theorem decodeIeee_signPart (f : Nat) (s : Bool) {c : Nat} (hc : c < 2 ^ (expBits f + fracBits f)) : decodeIeee f (signPart f s + c) =
    if c / 2 ^ fracBits f = 2 ^ expBits f - 1 then
      (if c % 2 ^ fracBits f = 0 then .inf s else .nan (!bit (c % 2 ^ fracBits f) (fracBits f - 1)))
    else .fin s (mantOf f c) (expOf f c) := by
  have hpow : 2 ^ (expBits f + fracBits f) = 2 ^ fracBits f * 2 ^ expBits f := by rw [Nat.add_comm, Nat.pow_add]
  have hs : bit (signPart f s + c) (expBits f + fracBits f) = s := by
    cases s
    · simp [bit, signPart, Nat.testBit_lt_two_pow hc]
    · simp [bit, signPart, Nat.testBit_two_pow_add_eq, Nat.testBit_lt_two_pow hc]
  have hx : ∃ k, signPart f s + c = 2 ^ fracBits f * (2 ^ expBits f * k) + c := by
    cases s
    · exact ⟨0, by simp [signPart]⟩
    · exact ⟨1, by simp [signPart, hpow]⟩
  obtain ⟨k, hx⟩ := hx
  have hdiv : c / 2 ^ fracBits f < 2 ^ expBits f := by rwa [Nat.div_lt_iff_lt_mul (Nat.two_pow_pos _), Nat.mul_comm, ← hpow]
  have he : (signPart f s + c) >>> fracBits f % 2 ^ expBits f = c / 2 ^ fracBits f := by
    rw [hx, Nat.shiftRight_eq_div_pow, Nat.mul_add_div (Nat.two_pow_pos _), Nat.mul_add_mod, Nat.mod_eq_of_lt hdiv]
  have hm : (signPart f s + c) % 2 ^ fracBits f = c % 2 ^ fracBits f := by rw [hx, Nat.mul_add_mod]
  simp only [decodeIeee, ieeeParams_eq, hs, he, hm]
  refine if_congr Iff.rfl rfl ?_
  have hz : c / 2 ^ fracBits f = 0 ↔ c < 2 ^ fracBits f := by simp [Nat.div_eq_zero_iff]
  by_cases h : c < 2 ^ fracBits f
  · rw [if_pos (hz.mpr h), mantOf, expOf, if_pos h, if_pos h, Nat.mod_eq_of_lt h, ieeeBias_eq]
  · rw [if_neg (hz.not.mpr h), mantOf, expOf, if_neg h, if_neg h, ieeeBias_eq]

theorem decodeIeee_finite (f : Nat) (s : Bool) {c : Nat} (hc : c < infCode f) :
    decodeIeee f (signPart f s + c) = .fin s (mantOf f c) (expOf f c) := by
  rw [decodeIeee_signPart f s (hc.trans (infCode_lt f)), if_neg]
  exact ((Nat.div_lt_iff_lt_mul (Nat.two_pow_pos _)).mpr hc).ne

/-- A code without its sign bit has its magnitude. -/
theorem ratOf_decodeIeee {f c : Nat} (hc : c < infCode f) : ratOf (decodeIeee f c) = magOf f c := by
  have h := decodeIeee_finite f false hc
  rw [signPart, if_neg Bool.false_ne_true, Nat.zero_add] at h
  rw [h, ratOf_fin_false, magOf]

/-- The next magnitude is one unit of the last place larger, across binades too. -/
theorem magOf_succ (f c : Nat) : magOf f (c + 1) = (mantOf f c + 1 : Nat) * 2 ^ expOf f c := by
  have hp := Nat.two_pow_pos (fracBits f)
  generalize hF : 2 ^ fracBits f = F at hp
  rcases Nat.lt_trichotomy (c + 1) F with h | h | h
  · simp only [magOf, mantOf, expOf, hF, if_pos h, if_pos (show c < F by omega)]
  · have hc : c < F := by omega
    simp only [magOf, mantOf, expOf, hF, h, if_pos hc, lt_irrefl, if_false, Nat.mod_self, Nat.add_zero, Nat.div_self hp, Nat.cast_one]
  · have hc : ¬ c < F := by omega
    simp only [magOf, mantOf, expOf, hF, if_neg hc, if_neg (show ¬ c + 1 < F by omega)]
    by_cases hd : F ∣ c + 1
    · -- the last mantissa of a binade
      have hdiv : (c + 1) / F = c / F + 1 := Nat.succ_div_of_dvd hd
      have hmod : c % F + 1 = F := by
        obtain ⟨k, hk⟩ := hd
        have : c = F * (k - 1) + (F - 1) := by
          cases k with
          | zero => omega
          | succ j => simp only [Nat.add_sub_cancel]; rw [Nat.mul_succ] at hk; omega
        rw [this, Nat.mul_add_mod, Nat.mod_eq_of_lt (by omega)]
        omega
      rw [hdiv, Nat.mod_eq_zero_of_dvd hd, show F + c % F + 1 = F * 2 by omega, Nat.add_zero, Nat.cast_mul, Nat.cast_ofNat, mul_assoc]
      congr 1
      rw [← zpow_one_add₀ two_ne_zero]
      congr 1
      push_cast
      ring
    · have hdiv : (c + 1) / F = c / F := Nat.succ_div_of_not_dvd hd
      have hmod : (c + 1) % F = c % F + 1 := by
        have h1 := Nat.div_add_mod c F
        have h2 := Nat.div_add_mod (c + 1) F
        rw [hdiv] at h2
        omega
      rw [hdiv, hmod]
      push_cast
      ring

/-! ## The encoder on values of the format -/

/-- The exponent of the last place of m × 2^e in an IEEE format, as the encoder takes it. -/
def ulpExp (f m : Nat) (e : Int) : Int :=
  (if (Nat.log2 m : Int) + e < 1 - ieeeBias f then 1 - ieeeBias f else (Nat.log2 m : Int) + e) - fracBits f

/-- A value from one magnitude up to the next has the last place of the lower one. -/
theorem ulpExp_eq {f m c : Nat} {e : Int} (hm : m ≠ 0) (h1 : magOf f c ≤ m * 2 ^ e) (h2 : (m : ℚ) * 2 ^ e < magOf f (c + 1)) :
    ulpExp f m e = expOf f c := by
  rw [magOf_succ] at h2
  have h2pos : (0 : ℚ) < 2 ^ expOf f c := by positivity
  rw [magOf] at h1
  by_cases hc : c < 2 ^ fracBits f
  · -- a subnormal magnitude
    have hlt : (m : ℚ) * 2 ^ e < 2 ^ (1 - ieeeBias f) := by
      refine h2.trans_le ?_
      have hle : ((mantOf f c + 1 : Nat) : ℚ) ≤ 2 ^ fracBits f := by
        rw [mantOf, if_pos hc]
        exact_mod_cast hc
      calc ((mantOf f c + 1 : Nat) : ℚ) * 2 ^ expOf f c ≤ 2 ^ fracBits f * 2 ^ expOf f c := by gcongr
        _ = 2 ^ (1 - ieeeBias f) := by
          rw [← zpow_natCast, ← zpow_add₀ two_ne_zero, expOf, if_pos hc]
          congr 1
          ring
    have ht := (zpow_lt_zpow_iff_right₀ (one_lt_two (α := ℚ))).mp ((two_zpow_log2_le hm e).trans_lt hlt)
    rw [ulpExp, if_pos ht, expOf, if_pos hc]
  · have hmod : c % 2 ^ fracBits f < 2 ^ fracBits f := Nat.mod_lt _ (Nat.two_pow_pos _)
    have hge : (2 : ℚ) ^ fracBits f ≤ mantOf f c := by
      rw [mantOf, if_neg hc]
      exact_mod_cast Nat.le_add_right _ _
    have hle : ((mantOf f c + 1 : Nat) : ℚ) ≤ 2 ^ (fracBits f + 1) := by
      rw [mantOf, if_neg hc]
      exact_mod_cast (by omega : 2 ^ fracBits f + c % 2 ^ fracBits f + 1 ≤ 2 ^ (fracBits f + 1))
    have ht : (Nat.log2 m : Int) + e = fracBits f + expOf f c := by
      refine log2_add_eq hm ?_ ?_
      · refine le_trans ?_ h1
        rw [zpow_add₀ two_ne_zero, zpow_natCast]
        gcongr
      · refine h2.trans_le ?_
        rw [show (fracBits f : Int) + expOf f c + 1 = ((fracBits f + 1 : Nat) : Int) + expOf f c by push_cast; ring, zpow_add₀ two_ne_zero, zpow_natCast]
        gcongr
    have h1c : 1 ≤ c / 2 ^ fracBits f := (Nat.one_le_div_iff (Nat.two_pow_pos _)).mpr (not_lt.mp hc)
    have hnorm : ¬ (fracBits f + expOf f c < 1 - ieeeBias f) := by
      rw [expOf, if_neg hc]
      have : (1 : Int) ≤ (c / 2 ^ fracBits f : Nat) := by exact_mod_cast h1c
      linarith
    rw [ulpExp, ht, if_neg hnorm]
    ring

theorem encodeIeee_zero (f : Nat) (rm : Rm) (s : Bool) (e : Int) : encodeIeee f rm s 0 e = (signPart f s, 0) := rfl

theorem magOf_lt_succ (f c : Nat) : magOf f c < magOf f (c + 1) := by
  rw [magOf_succ, magOf]
  gcongr
  omega

/-- The bits below the sign of a rounded value: k units of the place q. -/
def bodyOf (f k : Nat) (q : Int) : Nat :=
  if k < 2 ^ fracBits f then k else (q + fracBits f + ieeeBias f).toNat * 2 ^ fracBits f + (k - 2 ^ fracBits f)

theorem bodyOf_mantOf (f c : Nat) : bodyOf f (mantOf f c) (expOf f c) = c := by
  by_cases hc : c < 2 ^ fracBits f
  · rw [bodyOf, mantOf, if_pos hc, if_pos hc]
  · have hE : expOf f c + fracBits f + ieeeBias f = (c / 2 ^ fracBits f : Nat) := by
      rw [expOf, if_neg hc]
      ring
    rw [bodyOf, hE, mantOf, if_neg hc, if_neg (by omega), Int.toNat_natCast, Nat.add_sub_cancel_left, Nat.mul_comm, Nat.div_add_mod]

/-- The encoder rounds once at the last place, and its flags are those of that rounding unless it overflows. -/
theorem encodeIeee_eq {f m : Nat} (rm : Rm) (s : Bool) (e : Int) (hm : m ≠ 0) : ∃ (big : Nat × Flags) (tiny : Bool), encodeIeee f rm s m e =
    (let r := roundTo rm s m e (ulpExp f m e)
     let body := bodyOf f r.1 (ulpExp f m e)
     if infCode f ≤ body then big else (signPart f s + body, flagIf r.2 fNX ||| flagIf (r.2 && tiny) fUF)) :=
  ⟨_, _, if_neg hm⟩

/-- An exact rounding below the infinity sets no flag. -/
theorem encodeIeee_of_exact {f m k : Nat} {e : Int} {rm : Rm} {s : Bool} (hm : m ≠ 0) (hr : roundTo rm s m e (ulpExp f m e) = (k, false))
    (hb : bodyOf f k (ulpExp f m e) < infCode f) : encodeIeee f rm s m e = (signPart f s + bodyOf f k (ulpExp f m e), 0) := by
  obtain ⟨big, tiny, he⟩ := encodeIeee_eq (f := f) rm s e hm
  simp [he, hr, not_le.mpr hb, flagIf]

/-- A finite value that the format has is encoded as it is, with no flag, under every mode (R88). -/
theorem encodeIeee_of_eq {f m c : Nat} {e : Int} (rm : Rm) (s : Bool) (hm : m ≠ 0) (hc : c < infCode f) (h : (m : ℚ) * 2 ^ e = magOf f c) :
    encodeIeee f rm s m e = (signPart f s + c, 0) := by
  have hq : ulpExp f m e = expOf f c := ulpExp_eq hm h.ge (h.trans_lt (magOf_lt_succ f c))
  have hr : roundTo rm s m e (ulpExp f m e) = (mantOf f c, false) := by
    rw [hq]
    exact roundTo_of_eq rm s h
  have hbody : bodyOf f (mantOf f c) (ulpExp f m e) = c := by rw [hq, bodyOf_mantOf]
  rw [encodeIeee_of_exact hm hr (by rwa [hbody]), hbody]

end Sys2Proof.Machine
end

section
/-! SUPPORT. The values of the tapered formats and PQ6 (R77, R80, R82): the magnitudes by rank rise, each code is a signed rank, and the encoder finds the rank of a
value or the two ranks around it. Then that a number that a format holds encodes back to itself. -/

namespace Sys2Proof.Machine

open Sys2Proof.Safety

/-! ## Tapered lanes (R77) -/

/-- Bits of a tapered body. -/
def bodyBits (f : Nat) : Nat := (taperedParams f).1 - 1

/-- A tapered lane is its sign and the number of its body; the empty body is zero or NaN. -/
theorem decodeTapered_sign (f : Nat) (s : Bool) {c : Nat} (hc : c < 2 ^ bodyBits f) : decodeTapered f ((if s then 2 ^ bodyBits f else 0) + c) =
    if c = 0 then (if s then .nan false else .fin false 0 0) else withSign s (decodeTapered f c) := by
  have hb : ((if s then 2 ^ bodyBits f else 0) + c) % 2 ^ bodyBits f = c := by
    cases s <;> simp [Nat.mod_eq_of_lt hc]
  have hs : bit ((if s then 2 ^ bodyBits f else 0) + c) (bodyBits f) = s := by
    cases s
    · simp [bit, Nat.testBit_lt_two_pow hc]
    · simp [bit, Nat.testBit_two_pow_add_eq, Nat.testBit_lt_two_pow hc]
  unfold bodyBits at hb hs hc
  unfold decodeTapered bodyBits
  simp only [hb, hs, Nat.mod_eq_of_lt hc]
  split <;> rfl

/-! ## Ranks -/

/-- A number without sign that is a multiple of 2^-16. -/
def coarse : Num → Bool
  | .fin s _ e => !s && decide (0 ≤ e + 16)
  | _ => false

theorem coarse_iff {x : Num} : coarse x = true ↔ ∃ m e, x = .fin false m e ∧ 0 ≤ e + 16 := by
  cases x <;> simp [coarse]

/-- Every rank's code decodes to a multiple of 2^-16. -/
theorem coarse_rankCode : ∀ f ∈ [10, 11, 12, 13], ∀ r ≤ topRank f, coarse (decodeLane f (rankCode f r)) = true := by decide +kernel

/-- The magnitudes of the ranks rise. -/
theorem rankMag_lt_succ : ∀ f ∈ [10, 11, 12, 13], ∀ r < topRank f, rankMag f r < rankMag f (r + 1) := by decide +kernel

theorem rankMag_zero : ∀ f ∈ [10, 11, 12, 13], rankMag f 0 = 0 := by decide

/-- The codes of the ranks are lanes of the format without its sign bit, and alternately even and odd from rank 1 on. -/
theorem rankCode_lt : ∀ f ∈ [10, 11, 12, 13], ∀ r ≤ topRank f, rankCode f r < 2 ^ laneBits f ∧ (f ≠ 13 → rankCode f r < 2 ^ bodyBits f) := by
  decide +kernel
theorem rankCode_zero_even : ∀ f ∈ [10, 11, 12, 13], rankCode f 0 % 2 = 0 := by decide
theorem rankCode_succ_even : ∀ f ∈ [10, 11, 12, 13], ∀ r < topRank f, r ≠ 0 → rankCode f r % 2 ≠ 0 → rankCode f (r + 1) % 2 = 0 := by decide +kernel

/-- The value of a rank. -/
def rankVal (f r : Nat) : ℚ := rankMag f r / 2 ^ 16

section

variable {f : Nat} (hf : f ∈ [10, 11, 12, 13])
include hf

theorem rankMag_rankCode {r m : Nat} {e : Int} (h : decodeLane f (rankCode f r) = .fin false m e) (he : 0 ≤ e + 16) :
    rankMag f r = m * 2 ^ (e + 16).toNat := by
  have hn : (if f = 13 then (if r = 0 then Num.fin false 0 0 else decodePq6 ((14 - (r - 1) / 4) * 4 + (r - 1) % 4)) else decodeTapered f r) = .fin false m e := by
    rw [← h]
    simp only [List.mem_cons, List.not_mem_nil, or_false] at hf
    rcases hf with rfl | rfl | rfl | rfl
    · rfl
    · rfl
    · rfl
    · by_cases hr : r = 0
      · subst hr
        rfl
      · simp [hr, rankCode, decodeLane, isIeee, isTapered]
  simp only [rankMag, hn, if_pos he, Nat.shiftLeft_eq]

/-- The code of a rank has the rank's value. -/
theorem decodeLane_rankCode {r : Nat} (hr : r ≤ topRank f) :
    ∃ m e, decodeLane f (rankCode f r) = .fin false m e ∧ (m : ℚ) * 2 ^ e = rankVal f r := by
  obtain ⟨m, e, h, he⟩ := coarse_iff.mp (coarse_rankCode f hf r hr)
  refine ⟨m, e, h, ?_⟩
  rw [rankVal, rankMag_rankCode hf h he, Nat.cast_mul, two_zpow_toNat he, zpow_add₀ two_ne_zero]
  norm_num
  ring

theorem ratOf_rankCode {r : Nat} (hr : r ≤ topRank f) : ratOf (decodeLane f (rankCode f r)) = rankVal f r := by
  obtain ⟨m, e, h, hv⟩ := decodeLane_rankCode hf hr
  rw [h, ratOf_fin_false, hv]

theorem rankVal_zero : rankVal f 0 = 0 := by simp [rankVal, rankMag_zero f hf]

theorem rankVal_lt_succ {r : Nat} (hr : r < topRank f) : rankVal f r < rankVal f (r + 1) := by
  have := rankMag_lt_succ f hf r hr
  unfold rankVal
  gcongr

theorem rankVal_lt {r k : Nat} (h : r < k) (hk : k ≤ topRank f) : rankVal f r < rankVal f k := by
  induction k with
  | zero => omega
  | succ k ih =>
    rcases Nat.lt_succ_iff_lt_or_eq.mp h with h | rfl
    · exact (ih h (by omega)).trans (rankVal_lt_succ hf hk)
    · exact rankVal_lt_succ hf hk

theorem rankVal_le {r k : Nat} (h : r ≤ k) (hk : k ≤ topRank f) : rankVal f r ≤ rankVal f k := by
  rcases h.eq_or_lt with rfl | h
  · exact le_rfl
  · exact (rankVal_lt hf h hk).le

theorem rankVal_pos {r : Nat} (h : r ≠ 0) (hr : r ≤ topRank f) : 0 < rankVal f r := by
  rw [← rankVal_zero hf]
  exact rankVal_lt hf (Nat.pos_of_ne_zero h) hr

/-! ## Finding the rank of a value -/

omit hf in
/-- m × 2^e in units of 2^-16. -/
theorem scale16_spec (m : Nat) (e : Int) : 0 < (scale16 m e).2 ∧ (m : ℚ) * 2 ^ e = (scale16 m e).1 / (scale16 m e).2 / 2 ^ 16 := by
  unfold scale16
  split
  next h =>
    refine ⟨one_pos, ?_⟩
    simp only
    rw [Nat.shiftLeft_eq, Nat.cast_mul, two_zpow_toNat h, zpow_add₀ two_ne_zero]
    norm_num
    field_simp
  next h =>
    refine ⟨Nat.two_pow_pos _, ?_⟩
    simp only
    rw [two_zpow_toNat (by omega), zpow_neg, zpow_add₀ two_ne_zero]
    norm_num
    field_simp

omit hf in
theorem rankMag_mul_le_iff (r m : Nat) (e : Int) : rankMag f r * (scale16 m e).2 ≤ (scale16 m e).1 ↔ rankVal f r ≤ m * 2 ^ e := by
  obtain ⟨hden, hx⟩ := scale16_spec m e
  rw [hx, rankVal, div_le_div_iff_of_pos_right (by positivity), le_div_iff₀ (by exact_mod_cast hden)]
  exact_mod_cast Iff.rfl

omit hf in
theorem rankMag_mul_eq_iff (r m : Nat) (e : Int) : rankMag f r * (scale16 m e).2 = (scale16 m e).1 ↔ rankVal f r = m * 2 ^ e := by
  obtain ⟨hden, hx⟩ := scale16_spec m e
  rw [hx, rankVal, div_left_inj' (by positivity), eq_div_iff (by exact_mod_cast hden.ne')]
  exact_mod_cast Iff.rfl

omit hf in
theorem findRank_le (f num den t : Nat) : findRank f num den t ≤ t := by
  induction t with
  | zero => exact le_rfl
  | succ t ih =>
    rw [findRank]
    split
    · exact le_rfl
    · omega

omit hf in
/-- The rank found does not exceed the value, and every higher one does. -/
theorem findRank_eq_iff {num den t r : Nat} (h0 : rankMag f 0 = 0) : findRank f num den t = r ↔
    r ≤ t ∧ rankMag f r * den ≤ num ∧ ∀ k, r < k → k ≤ t → num < rankMag f k * den := by
  induction t with
  | zero =>
    constructor
    · rintro rfl
      exact ⟨le_rfl, by simp [findRank, h0], fun k h1 h2 => absurd h2 (by omega)⟩
    · rintro ⟨h, -, -⟩
      exact (Nat.le_zero.mp h).symm
  | succ t ih =>
    rw [findRank]
    split
    next hle =>
      constructor
      · rintro rfl
        exact ⟨le_rfl, hle, fun k h1 h2 => absurd h2 (by omega)⟩
      · rintro ⟨hr, -, hk⟩
        by_contra hne
        exact absurd (hk (t + 1) (by omega) le_rfl) (not_lt.mpr hle)
    next hgt =>
      rw [ih]
      constructor
      · rintro ⟨hr, hle, hk⟩
        refine ⟨by omega, hle, fun k h1 h2 => ?_⟩
        rcases h2.eq_or_lt with rfl | h2
        · exact not_le.mp hgt
        · exact hk k h1 (by omega)
      · rintro ⟨hr, hle, hk⟩
        have hne : r ≠ t + 1 := by
          rintro rfl
          exact hgt hle
        exact ⟨by omega, hle, fun k h1 h2 => hk k h1 (by omega)⟩

/-- The rank found is the one whose value is the last at or below m × 2^e. -/
theorem findRank_eq {m r : Nat} {e : Int} (hr : r ≤ topRank f) (h1 : rankVal f r ≤ m * 2 ^ e)
    (h2 : r < topRank f → (m : ℚ) * 2 ^ e < rankVal f (r + 1)) : findRank f (scale16 m e).1 (scale16 m e).2 (topRank f) = r := by
  rw [findRank_eq_iff (rankMag_zero f hf)]
  refine ⟨hr, (rankMag_mul_le_iff r m e).mpr h1, fun k hk hkt => ?_⟩
  rw [← not_le, rankMag_mul_le_iff, not_le]
  exact (h2 (by omega)).trans_le (rankVal_le hf hk hkt)

/-- A value is a rank's, lies beyond them all, or lies between two. -/
theorem rank_cases (m : Nat) (e : Int) :
    (∃ r ≤ topRank f, (m : ℚ) * 2 ^ e = rankVal f r) ∨ rankVal f (topRank f) < m * 2 ^ e ∨
      ∃ r < topRank f, rankVal f r < m * 2 ^ e ∧ (m : ℚ) * 2 ^ e < rankVal f (r + 1) := by
  obtain ⟨hr, hle, hgt⟩ := (findRank_eq_iff (rankMag_zero f hf)).mp (rfl : findRank f (scale16 m e).1 (scale16 m e).2 (topRank f) = _)
  generalize findRank f (scale16 m e).1 (scale16 m e).2 (topRank f) = r at hr hle hgt
  rw [rankMag_mul_le_iff] at hle
  rcases hle.eq_or_lt with h | h
  · exact .inl ⟨r, hr, h.symm⟩
  · rcases hr.eq_or_lt with rfl | hr
    · exact .inr (.inl h)
    · have h2 := hgt (r + 1) (by omega) hr
      rw [← not_le, rankMag_mul_le_iff, not_le] at h2
      exact .inr (.inr ⟨r, hr, h, h2⟩)

/-! ## The encoder (R80, R82) -/

/-- The value of a rank is encoded as its code, with no flag. -/
theorem encodeRank_of_eq {m r : Nat} {e : Int} (hr : r ≤ topRank f) (h : (m : ℚ) * 2 ^ e = rankVal f r) : encodeRank f m e = (rankCode f r, 0) := by
  have hfind := findRank_eq hf hr h.ge fun hlt => h.trans_lt (rankVal_lt_succ hf hlt)
  simp only [encodeRank, hfind]
  rw [if_pos ((rankMag_mul_eq_iff r m e).mpr h.symm)]

/-- A value beyond the largest saturates. -/
theorem encodeRank_of_lt {m : Nat} {e : Int} (h : rankVal f (topRank f) < m * 2 ^ e) : encodeRank f m e = (rankCode f (topRank f), fOF ||| fNX) := by
  have hfind := findRank_eq hf le_rfl h.le fun hlt => absurd hlt (lt_irrefl _)
  simp only [encodeRank, hfind]
  rw [if_neg ((rankMag_mul_eq_iff _ m e).not.mpr h.ne)]
  simp

/-- Whether a value x between ranks r and r + 1 goes to the lower one: it is nearer, or in a tie the lower one is zero or even. -/
def roundsDown (f r : Nat) (x : ℚ) : Prop :=
  x - rankVal f r < rankVal f (r + 1) - x ∨ (x - rankVal f r = rankVal f (r + 1) - x ∧ (r = 0 ∨ rankCode f r % 2 = 0))

omit hf in
/-- The distances of a value from the ranks around it, as the encoder counts them. -/
theorem cast_gap_below {m r : Nat} {e : Int} (h : rankVal f r ≤ m * 2 ^ e) :
    (((scale16 m e).1 - rankMag f r * (scale16 m e).2 : Nat) : ℚ) = (m * 2 ^ e - rankVal f r) * ((scale16 m e).2 * 2 ^ 16) := by
  obtain ⟨hden, hx⟩ := scale16_spec m e
  have hden' : ((scale16 m e).2 : ℚ) ≠ 0 := by exact_mod_cast hden.ne'
  rw [Nat.cast_sub ((rankMag_mul_le_iff r m e).mpr h), hx, rankVal]
  field_simp
  push_cast
  ring

omit hf in
theorem cast_gap_above {m r : Nat} {e : Int} (h : (m : ℚ) * 2 ^ e < rankVal f r) :
    ((rankMag f r * (scale16 m e).2 - (scale16 m e).1 : Nat) : ℚ) = (rankVal f r - m * 2 ^ e) * ((scale16 m e).2 * 2 ^ 16) := by
  obtain ⟨hden, hx⟩ := scale16_spec m e
  have hden' : ((scale16 m e).2 : ℚ) ≠ 0 := by exact_mod_cast hden.ne'
  have hle : (scale16 m e).1 ≤ rankMag f r * (scale16 m e).2 := by
    have := (rankMag_mul_le_iff (f := f) r m e).not.mpr (not_le.mpr h)
    omega
  rw [Nat.cast_sub hle, hx, rankVal]
  field_simp
  push_cast
  ring

/-- A value between two ranks goes to one of them, with NX, and with UF where that is zero. -/
theorem encodeRank_of_between {m r : Nat} {e : Int} (hr : r < topRank f) (h1 : rankVal f r < m * 2 ^ e) (h2 : (m : ℚ) * 2 ^ e < rankVal f (r + 1)) :
    ∃ k, encodeRank f m e = (rankCode f k, fNX ||| flagIf (k == 0) fUF) ∧
      (k = r ∧ roundsDown f r (m * 2 ^ e) ∨ k = r + 1 ∧ ¬ roundsDown f r (m * 2 ^ e)) := by
  have hfind := findRank_eq hf hr.le h1.le fun _ => h2
  have hden := (scale16_spec m e).1
  have hunit : (0 : ℚ) < (scale16 m e).2 * 2 ^ 16 := by positivity
  have hlo := cast_gap_below h1.le
  have hhi := cast_gap_above h2
  simp only [encodeRank, hfind]
  rw [if_neg ((rankMag_mul_eq_iff r m e).not.mpr h1.ne), if_neg hr.ne]
  generalize (scale16 m e).1 - rankMag f r * (scale16 m e).2 = lo at hlo ⊢
  generalize rankMag f (r + 1) * (scale16 m e).2 - (scale16 m e).1 = hi at hhi ⊢
  have hlt : lo < hi ↔ (m : ℚ) * 2 ^ e - rankVal f r < rankVal f (r + 1) - m * 2 ^ e := by
    rw [← Nat.cast_lt (α := ℚ), hlo, hhi, mul_lt_mul_iff_left₀ hunit]
  have heq : lo = hi ↔ (m : ℚ) * 2 ^ e - rankVal f r = rankVal f (r + 1) - m * 2 ^ e := by
    rw [← Nat.cast_inj (R := ℚ), hlo, hhi, mul_left_inj' hunit.ne']
  have hdown : (decide (lo < hi) || (decide (lo = hi) && (r == 0 || rankCode f r % 2 == 0))) = true ↔ roundsDown f r (m * 2 ^ e) := by
    simp [roundsDown, hlt, heq]
  by_cases h : roundsDown f r (m * 2 ^ e)
  · rw [if_pos (hdown.mpr h)]
    exact ⟨r, rfl, .inl ⟨rfl, h⟩⟩
  · rw [if_neg (hdown.not.mpr h)]
    exact ⟨r + 1, rfl, .inr ⟨rfl, h⟩⟩

end

/-! ## Numbers that a format holds (R75, R77, R82) -/

theorem encodeFloat_ieee {f : Nat} (hf : f ∈ [7, 8, 9]) (rm : Rm) (s : Bool) (m : Nat) (e : Int) :
    encodeFloat f rm (.fin s m e) = encodeIeee f rm s m e := by
  simp [encodeFloat, isIeee_of_mem hf]

theorem encodeFloat_nan {f : Nat} (hf : f ∈ [7, 8, 9]) (rm : Rm) (q : Bool) : encodeFloat f rm (.nan q) = (canonNan f, if q then fNV else 0) := by
  simp [encodeFloat, isIeee_of_mem hf, flagIf]

/-- The code of a rank under a sign; zero has none. -/
def signedCode (f : Nat) (s : Bool) (c : Nat) : Nat := if s && c != 0 then c + 2 ^ bodyBits f else c

theorem encodeFloat_tapered {f : Nat} (hf : f ∈ [10, 11, 12]) (rm : Rm) (s : Bool) {m : Nat} (hm : m ≠ 0) (e : Int) :
    encodeFloat f rm (.fin s m e) = (signedCode f s (encodeRank f m e).1, (encodeRank f m e).2) := by
  simp only [List.mem_cons, List.not_mem_nil, or_false] at hf
  rcases hf with rfl | rfl | rfl <;> simp [encodeFloat, isIeee, isTapered, hm, signedCode, bodyBits]

theorem encodeFloat_pq6 (rm : Rm) {m : Nat} (hm : m ≠ 0) (e : Int) : encodeFloat 13 rm (.fin false m e) = encodeRank 13 m e := by
  simp [encodeFloat, isIeee, isTapered, hm]

/-- A lane is a sign and the code below it. -/
theorem exists_sign_add {a k : Nat} (h : a < 2 ^ (k + 1)) : ∃ (s : Bool) (c : Nat), c < 2 ^ k ∧ a = (if s then 2 ^ k else 0) + c := by
  by_cases ha : a < 2 ^ k
  · exact ⟨false, a, ha, by simp⟩
  · exact ⟨true, a - 2 ^ k, by omega, by simp; omega⟩

theorem mantOf_eq_zero {f c : Nat} (h : mantOf f c = 0) : c = 0 := by
  unfold mantOf at h
  split at h
  · exact h
  · have := Nat.two_pow_pos (fracBits f)
    omega

/-- A magnitude that an IEEE format has, zero too, encodes to its code under the sign. -/
theorem encodeFloat_of_eq {f m c : Nat} {e : Int} (hf : f ∈ [7, 8, 9]) (rm : Rm) (s : Bool) (hc : c < infCode f) (h : (m : ℚ) * 2 ^ e = magOf f c) :
    encodeFloat f rm (.fin s m e) = (signPart f s + c, 0) := by
  rw [encodeFloat_ieee hf]
  by_cases hm : m = 0
  · have hc0 : c = 0 := by
      rw [hm, Nat.cast_zero, zero_mul, magOf] at h
      have h2 : (2 : ℚ) ^ expOf f c ≠ 0 := by positivity
      exact mantOf_eq_zero (by exact_mod_cast (mul_eq_zero.mp h.symm).resolve_right h2)
    rw [hm, encodeIeee_zero, hc0, Nat.add_zero]
  · exact encodeIeee_of_eq rm s hm hc h

theorem encodeFloat_decodeIeee {f a : Nat} (hf : f ∈ [7, 8, 9]) (rm : Rm) (ha : a < 2 ^ laneBits f) : encodeFloat f rm (decodeIeee f a) =
    if (decodeIeee f a).isNan then (canonNan f, if (decodeIeee f a).isSnan then fNV else 0) else (a, 0) := by
  rw [laneBits_ieee hf] at ha
  obtain ⟨s, c, hc, rfl⟩ := exists_sign_add ha
  change encodeFloat f rm (decodeIeee f (signPart f s + c)) = if (decodeIeee f (signPart f s + c)).isNan then
    (canonNan f, if (decodeIeee f (signPart f s + c)).isSnan then fNV else 0) else (signPart f s + c, 0)
  by_cases hfin : c < infCode f
  · rw [decodeIeee_finite f s hfin, encodeFloat_of_eq hf rm s hfin rfl]
    rfl
  · -- the infinities and NaNs
    have hdiv : c / 2 ^ fracBits f = 2 ^ expBits f - 1 := by
      have h1 : 2 ^ expBits f - 1 ≤ c / 2 ^ fracBits f := (Nat.le_div_iff_mul_le (Nat.two_pow_pos _)).mpr (not_lt.mp hfin)
      have h2 : c / 2 ^ fracBits f < 2 ^ expBits f := (Nat.div_lt_iff_lt_mul (Nat.two_pow_pos _)).mpr (by rwa [← Nat.pow_add])
      omega
    rw [decodeIeee_signPart f s hc, if_pos hdiv]
    split
    next hz =>
      have hc' : c = infCode f := by
        have := Nat.div_add_mod c (2 ^ fracBits f)
        rw [hdiv, hz, Nat.mul_comm, Nat.add_zero] at this
        exact this.symm
      rw [encodeFloat_inf hf, ieeeInf_eq, hc']
      rfl
    next => exact encodeFloat_nan hf rm _

theorem mem_ranked_of_tapered {f : Nat} (hf : f ∈ [10, 11, 12]) : f ∈ [10, 11, 12, 13] := by
  simp only [List.mem_cons, List.not_mem_nil, or_false] at hf ⊢
  omega

/-- A tapered code without sign is its own rank. -/
theorem tapered_rank {f : Nat} (hf : f ∈ [10, 11, 12]) : topRank f = 2 ^ bodyBits f - 1 ∧ laneBits f = bodyBits f + 1 ∧
    (∀ r, rankCode f r = r) ∧ ∀ x, decodeLane f x = decodeTapered f x := by
  simp only [List.mem_cons, List.not_mem_nil, or_false] at hf
  rcases hf with rfl | rfl | rfl <;> exact ⟨rfl, rfl, fun _ => rfl, fun _ => rfl⟩

/-- A signed tapered code has the signed magnitude of its rank. -/
theorem decodeTapered_signedCode {f c : Nat} (hf : f ∈ [10, 11, 12]) (s : Bool) (hc : c < 2 ^ bodyBits f) :
    ∃ m e, decodeTapered f (signedCode f s c) = .fin (s && c != 0) m e ∧ (m : ℚ) * 2 ^ e = rankVal f c := by
  obtain ⟨htop, -, hcode, hlane⟩ := tapered_rank hf
  obtain ⟨m, e, h, hv⟩ := decodeLane_rankCode (mem_ranked_of_tapered hf) (r := c) (by omega)
  rw [hcode, hlane] at h
  refine ⟨m, e, ?_, hv⟩
  cases hs : s && c != 0 with
  | false => rw [signedCode, hs, if_neg Bool.false_ne_true, h]
  | true =>
    have hc0 : c ≠ 0 := by
      rintro rfl
      simp at hs
    have hd := decodeTapered_sign f true hc
    rw [if_neg hc0, if_pos rfl, h, Nat.add_comm] at hd
    rw [signedCode, hs, if_pos rfl, hd]
    rfl

/-- A tapered lane that is not NaN is a signed rank. -/
theorem exists_signedCode {f a : Nat} (hf : f ∈ [10, 11, 12]) (ha : a < 2 ^ laneBits f) (hn : (decodeTapered f a).isNan = false) :
    ∃ (s : Bool) (c : Nat), c < 2 ^ bodyBits f ∧ a = signedCode f s c := by
  rw [(tapered_rank hf).2.1] at ha
  obtain ⟨s, c, hc, rfl⟩ := exists_sign_add ha
  refine ⟨s, c, hc, ?_⟩
  rw [decodeTapered_sign f s hc] at hn
  cases s with
  | false => simp [signedCode]
  | true =>
    have hc0 : c ≠ 0 := by
      rintro rfl
      simp at hn
    simp [signedCode, hc0, Nat.add_comm]

theorem encodeFloat_decodeTapered {f a : Nat} (hf : f ∈ [10, 11, 12]) (rm : Rm) (ha : a < 2 ^ laneBits f) (hn : (decodeTapered f a).isNan = false) :
    encodeFloat f rm (decodeTapered f a) = (a, 0) := by
  obtain ⟨s, c, hc, rfl⟩ := exists_signedCode hf ha hn
  obtain ⟨m, e, hd, hv⟩ := decodeTapered_signedCode hf s hc
  obtain ⟨htop, -, hcode, -⟩ := tapered_rank hf
  have hr : c ≤ topRank f := by omega
  rw [hd]
  by_cases hc0 : c = 0
  · have hm : m = 0 := by
      rw [hc0, rankVal_zero (mem_ranked_of_tapered hf)] at hv
      have h2 : (2 : ℚ) ^ e ≠ 0 := by positivity
      exact_mod_cast (mul_eq_zero.mp hv).resolve_right h2
    simp only [List.mem_cons, List.not_mem_nil, or_false] at hf
    rcases hf with rfl | rfl | rfl <;> simp [hc0, hm, signedCode, encodeFloat, isIeee, isTapered]
  · have hm : m ≠ 0 := by
      rintro rfl
      have := rankVal_pos (mem_ranked_of_tapered hf) hc0 hr
      simp [← hv] at this
    rw [encodeFloat_tapered hf rm _ hm, encodeRank_of_eq (mem_ranked_of_tapered hf) hr hv, hcode]
    simp [signedCode, hc0]

/-- The PQ6 codes of numbers other than zero are those of the ranks from 1 on. -/
theorem exists_rankCode_pq6 {a : Nat} (ha : a < 60) : ∃ r ≤ topRank 13, r ≠ 0 ∧ a = rankCode 13 r := by
  refine ⟨4 * (14 - a / 4) + a % 4 + 1, ?_, by omega, ?_⟩
  · simp only [topRank, if_true]
    omega
  · simp only [rankCode, if_true]
    rw [if_neg (by omega)]
    omega

theorem encodeFloat_decodePq6 (rm : Rm) {a : Nat} (ha : a < 60) : encodeFloat 13 rm (decodePq6 a) = (a, 0) := by
  have h13 : 13 ∈ [10, 11, 12, 13] := by decide
  obtain ⟨r, hr, hr0, rfl⟩ := exists_rankCode_pq6 ha
  obtain ⟨m, e, hd, hv⟩ := decodeLane_rankCode h13 hr
  have hm : m ≠ 0 := by
    rintro rfl
    have := rankVal_pos h13 hr0 hr
    simp [← hv] at this
  rw [show decodePq6 (rankCode 13 r) = .fin false m e from hd, encodeFloat_pq6 rm hm, encodeRank_of_eq h13 hr hv]

/-- Settles O25, for IEEE, tapered and PQ6 lanes in turn. -/
theorem encodeOfDecodedNumber : Obligations.EncodeOfDecodedNumber :=
  ⟨fun _ hf rm _ ha => encodeFloat_decodeIeee hf rm ha, fun _ hf rm _ ha hn => encodeFloat_decodeTapered hf rm ha hn,
    fun rm _ ha => encodeFloat_decodePq6 rm ha⟩

end Sys2Proof.Machine
end

section
/-! SUPPORT. The conversions (R138 to R143): the lanes that one produces, the integer encodings, and the encodings into the tapered formats and PQ6 as the nearest of their
values (R80, R82). -/

namespace Sys2Proof.Machine

open Sys2Proof.Safety

/-! ## The lanes of a conversion (R138) -/

theorem laneBits_cases (t : Nat) : laneBits t = 6 ∨ laneBits t = 4 ∨ laneBits t = 8 ∨ laneBits t = 16 ∨ laneBits t = 32 ∨ laneBits t = 64 := by
  unfold laneBits
  split <;> simp

theorem lanesOf_eq_laneCount (t : Nat) : lanesOf t = laneCount (laneBits t) := by
  rcases laneBits_cases t with h | h | h | h | h | h <;> simp [lanesOf, laneCount, h]

theorem convLanes_le (wide : Bool) (t : Nat) : convLanes wide t ≤ laneCount (laneBits t) := by
  cases wide
  · exact (laneCount_mul _ (laneBits_cases t)).2
  · exact (lanesOf_eq_laneCount t).le

theorem convVal_isLanes (wide : Bool) (t : Nat) {k : Nat} (g : Nat → Nat) (hk : k ≤ convLanes wide t) :
    IsLanes wide (laneBits t) t k (fun l => BitVec.ofNat (laneBits t) (g l)) (convVal wide t ((List.range k).map g)) := by
  have hle := hk.trans (convLanes_le wide t)
  have h := packed_isLanes wide (laneBits t) t k _ g ((Nat.mul_le_mul_left _ hle).trans (laneCount_mul _ (laneBits_cases t)).1) (fun _ _ => rfl) hle
  simpa [convVal, lanesOf_eq_laneCount] using h

/-- The lanes that a conversion of A into its target code produces. -/
def Env.convCount (v : Env) : Nat := min (convValid v.wide v.a) (convLanes v.wide v.o.tact.val)

/-- The value of a conversion whose lane l and flags are `at_ l`. -/
def Env.convResult (v : Env) (at_ : Nat → Nat × Flags) : Val := convVal v.wide v.o.tact.val ((List.range v.convCount).map fun l => (at_ l).1)

theorem Env.convResult_isLanes (v : Env) (at_ : Nat → Nat × Flags) : IsLanes v.wide (laneBits v.o.tact.val) v.o.tact.val v.convCount
    (fun l => BitVec.ofNat (laneBits v.o.tact.val) (at_ l).1) (v.convResult at_) :=
  convVal_isLanes v.wide _ _ (Nat.min_le_right _ _)

theorem convSem_trap (lat : Nat) {ok : Nat → Bool} (f : Env → Nat → Nat → Nat → Nat × Flags) {v : Env} (h : ok v.a.fmt = false) :
    convSem lat ok f v = .trap .badFormat 0 0 0 := by
  simp [convSem, h]

theorem convSem_go (lat : Nat) {ok : Nat → Bool} (f : Env → Nat → Nat → Nat → Nat × Flags) {v : Env} (h : ok v.a.fmt = true) :
    convSem lat ok f v =
      (let at_ := fun l => f v v.a.fmt (lane v.a (laneBits v.a.fmt) l).toNat l
       .go { lat := lat, d1 := some (v.convResult at_), d2 := some (v.convResult at_), flags := flagsOver v.convCount fun l => (at_ l).2 }) := by
  simp [convSem, h, lanewise_fst, lanewise_flags, Go.both, Env.convResult, Env.convCount, lane_toNat]

/-- A conversion fire does what the statement of conversions says of its lane function. -/
theorem convFire_result {mk : Op → Instr} {lat : Nat} {okb : Nat → Bool} {ok : Nat → Prop} {f g : Env → Nat → Nat → Nat → Nat × Flags}
    (hex : ∀ o s, exec (mk o) s = fire (convSem lat okb g) (mk o) s) (hp : ∀ o, ∃ k, (mk o).parts = some (k, o))
    (hok : ∀ x, okb x = true ↔ ok x) (hfg : f = g) : ConvResult mk lat ok f := by
  intro o s v h t w k at_
  subst hfg
  obtain ⟨c, hc⟩ := hp o
  have ho : v.o = o := op_of_decides h hc
  refine ⟨fun hf => ⟨v.convResult at_, ?_, ?_⟩, fun hf => ?_⟩
  · rw [Goes, hex]
    refine fire_go _ h ((convSem_go lat f ((hok _).mpr hf)).trans ?_)
    simp only [k, t, Env.convCount, ← ho]
    rfl
  · have := v.convResult_isLanes at_
    rw [Env.convCount, ho] at this
    exact this
  · rw [Traps, hex]
    exact fire_trap _ h (convSem_trap lat f (by simpa [← hok] using hf))

theorem isFloatFmt_iff (f : Nat) : isFloatFmt f = true ↔ 7 ≤ f ∧ f ≤ 14 := by simp [isFloatFmt]

theorem sextN_eq_toInt (n x : Nat) : sextN x n = (BitVec.ofNat n x).toInt := by
  simp [sextN, BitVec.toInt, BitVec.toNat_ofNat]

/-! ## Integer targets (R142) -/

/-- The ends of the range of an integer format. -/
def intLo (f : Nat) : Int := if f % 2 = 1 then -2 ^ (laneBits f - 1) else 0
def intHi (f : Nat) : Int := if f % 2 = 1 then 2 ^ (laneBits f - 1) - 1 else 2 ^ laneBits f - 1

theorem intRange_eq : ∀ f ∈ [1, 2, 3, 4, 5, 6], (if signedFmt f then -((2 ^ (laneBits f - 1) : Nat) : Int) else 0) = intLo f ∧
    (if signedFmt f then ((2 ^ (laneBits f - 1) : Nat) : Int) - 1 else ((2 ^ laneBits f : Nat) : Int) - 1) = intHi f := by decide

theorem wrapN_eq_ofInt (x : Int) (w : Nat) : wrapN x w = (BitVec.ofInt w x).toNat := by simp [wrapN, BitVec.toNat_ofInt]

/-- What an integer format makes of each kind of number. -/
theorem encodeInt_cases {f : Nat} (hf : f ∈ [1, 2, 3, 4, 5, 6]) (rm : Rm) :
    let put := fun (x : Int) => (BitVec.ofInt (laneBits f) x).toNat
    (∀ q, encodeInt f rm (.nan q) = (0, fNV)) ∧ encodeInt f rm (.inf false) = (put (intHi f), fNV) ∧ encodeInt f rm (.inf true) = (put (intLo f), fNV) ∧
    ∀ n m e,
      let r := roundTo rm n m e 0
      let x : Int := if n then -(r.1 : Int) else r.1
      encodeInt f rm (.fin n m e) = if x < intLo f then (put (intLo f), fNV) else if intHi f < x then (put (intHi f), fNV) else (put x, if r.2 then fNX else 0) := by
  obtain ⟨hlo, hhi⟩ := intRange_eq f hf
  refine ⟨fun q => rfl, ?_, ?_, fun n m e => ?_⟩
  · simp only [encodeInt, hlo, hhi, wrapN_eq_ofInt]
    rfl
  · simp only [encodeInt, hlo, hhi, wrapN_eq_ofInt]
    rfl
  · simp only [encodeInt, hlo, hhi, wrapN_eq_ofInt, flagIf]

/-! ## The nearest rank (R80, R82) -/

/-- The values of the codes of a tapered format or PQ6 lie among those of the ranks under both signs. -/
def IsRankValue (f : Nat) (y : ℚ) : Prop := ∃ j ≤ topRank f, |y| = rankVal f j

/-- Value a is, of the ranks' values, one nearest to x, and `even` holds where another is equally near. -/
def IsNearest (f : Nat) (x a : ℚ) (even : Prop) : Prop :=
  ∀ y, IsRankValue f y → |a - x| ≤ |y - x| ∧ (|a - x| = |y - x| → y ≠ a → even)

section

variable {f : Nat} (hf : f ∈ [10, 11, 12, 13])
include hf

omit hf in
theorem rankVal_nonneg (f r : Nat) : 0 ≤ rankVal f r := by
  unfold rankVal
  positivity

/-- No rank's value lies between those of two ranks that follow each other. -/
theorem IsRankValue.le_or_ge {y : ℚ} (hy : IsRankValue f y) {r : Nat} (hr : r < topRank f) : y ≤ rankVal f r ∨ rankVal f (r + 1) ≤ y := by
  obtain ⟨j, hj, hyj⟩ := hy
  rcases abs_choice y with h | h
  · rw [h] at hyj
    rw [hyj]
    rcases Nat.lt_or_ge r j with hlt | hge
    · exact .inr (rankVal_le hf hlt hj)
    · exact .inl (rankVal_le hf hge hr.le)
  · have h0 := rankVal_nonneg f j
    have h1 := rankVal_nonneg f r
    exact .inl (by linarith)

theorem IsRankValue.le_top {y : ℚ} (hy : IsRankValue f y) : y ≤ rankVal f (topRank f) := by
  obtain ⟨j, hj, hyj⟩ := hy
  exact (le_abs_self y).trans (hyj.trans_le (rankVal_le hf hj le_rfl))

omit hf in
theorem isNearest_self (x : ℚ) (even : Prop) : IsNearest f x x even := by
  intro y _
  refine ⟨by simp, fun h hne => absurd ?_ hne⟩
  rw [sub_self, abs_zero] at h
  exact sub_eq_zero.mp (abs_eq_zero.mp h.symm)

theorem isNearest_top {x : ℚ} (hx : rankVal f (topRank f) < x) (even : Prop) : IsNearest f x (rankVal f (topRank f)) even := by
  intro y hy
  have hle := hy.le_top hf
  rw [abs_of_neg (by linarith), abs_of_neg (by linarith)]
  exact ⟨by linarith, fun h hne => absurd (by linarith) hne⟩

/-- The rank to which a value between two of them goes is nearest. -/
theorem isNearest_between {x : ℚ} {r k : Nat} (hr : r < topRank f) (h1 : rankVal f r < x) (h2 : x < rankVal f (r + 1))
    (hk : k = r ∧ roundsDown f r x ∨ k = r + 1 ∧ ¬ roundsDown f r x) : IsNearest f x (rankVal f k) (rankCode f k % 2 = 0) := by
  intro y hy
  have hy := hy.le_or_ge hf hr
  obtain ⟨rfl, hd⟩ | ⟨rfl, hd⟩ := hk
  · -- the lower rank, which is no farther, and even in a tie
    rw [abs_of_neg (by linarith)]
    have hle : x - rankVal f k ≤ rankVal f (k + 1) - x := by
      rcases hd with h | ⟨h, -⟩ <;> linarith
    rcases hy with hy | hy
    · rw [abs_of_neg (by linarith)]
      exact ⟨by linarith, fun h hne => absurd (by linarith) hne⟩
    · rw [abs_of_pos (by linarith)]
      refine ⟨by linarith, fun h _ => ?_⟩
      rcases hd with hd | ⟨-, rfl | he⟩
      · linarith
      · exact rankCode_zero_even f hf
      · exact he
  · -- the upper rank, which is no farther, and even in a tie, as the lower one is odd
    rw [abs_of_pos (by linarith)]
    have hle : rankVal f (r + 1) - x ≤ x - rankVal f r := by
      by_contra hlt
      exact hd (.inl (not_le.mp hlt))
    rcases hy with hy | hy
    · rw [abs_of_neg (by linarith)]
      refine ⟨by linarith, fun h _ => ?_⟩
      have htie : x - rankVal f r = rankVal f (r + 1) - x := by linarith
      have hodd : r ≠ 0 ∧ rankCode f r % 2 ≠ 0 := not_or.mp fun h0 => hd (.inr ⟨htie, h0⟩)
      exact rankCode_succ_even f hf r hr hodd.1 hodd.2
    · rw [abs_of_pos (by linarith)]
      exact ⟨by linarith, fun h hne => absurd (by linarith) hne⟩

/-- A nonzero magnitude is encoded as the nearest rank, with NX, OF and UF as R80 and R82 say. -/
theorem encodeRank_nearest {m : Nat} {e : Int} (hm : m ≠ 0) :
    ∃ k ≤ topRank f, (encodeRank f m e).1 = rankCode f k ∧ IsNearest f (m * 2 ^ e) (rankVal f k) (rankCode f k % 2 = 0) ∧
      (encodeRank f m e).2 = (if rankVal f k = m * 2 ^ e then 0 else fNX) ||| (if rankVal f (topRank f) < m * 2 ^ e then fOF else 0) |||
        (if rankVal f k = 0 then fUF else 0) := by
  have hpos : (0 : ℚ) < m * 2 ^ e := by
    have : 0 < m := Nat.pos_of_ne_zero hm
    positivity
  obtain ⟨r, hr, h⟩ | h | ⟨r, hr, h1, h2⟩ := rank_cases hf m e
  · refine ⟨r, hr, by rw [encodeRank_of_eq hf hr h], h ▸ isNearest_self _ _, ?_⟩
    have htop := rankVal_le hf hr le_rfl
    have h0 : rankVal f r ≠ 0 := by linarith
    rw [encodeRank_of_eq hf hr h, h, if_pos rfl, if_neg (not_lt.mpr htop), if_neg h0]
    rfl
  · refine ⟨topRank f, le_rfl, by rw [encodeRank_of_lt hf h], isNearest_top hf h _, ?_⟩
    have h0 : rankVal f (topRank f) ≠ 0 := by
      refine (rankVal_pos hf ?_ le_rfl).ne'
      simp only [List.mem_cons, List.not_mem_nil, or_false] at hf
      rcases hf with rfl | rfl | rfl | rfl <;> decide
    rw [encodeRank_of_lt hf h, if_neg h.ne, if_pos h, if_neg h0]
    exact (by decide : fOF ||| fNX = fNX ||| fOF ||| 0)
  · obtain ⟨k, hk, hor⟩ := encodeRank_of_between hf hr h1 h2
    have hkt : k ≤ topRank f := by omega
    have hne : rankVal f k ≠ m * 2 ^ e := by
      rcases hor with ⟨rfl, -⟩ | ⟨rfl, -⟩
      · exact h1.ne
      · exact h2.ne'
    have htop : (m : ℚ) * 2 ^ e ≤ rankVal f (topRank f) := h2.le.trans (rankVal_le hf hr le_rfl)
    have h0 : rankVal f k = 0 ↔ k = 0 := by
      constructor
      · intro h
        by_contra hk0
        exact (rankVal_pos hf hk0 hkt).ne' h
      · rintro rfl
        exact rankVal_zero hf
    refine ⟨k, hkt, by rw [hk], isNearest_between hf hr h1 h2 hor, ?_⟩
    rw [hk, if_neg hne, if_neg (not_lt.mpr htop)]
    simp [flagIf, h0]

end

/-! ## Tapered targets and PQ6 -/

/-- A sign as a factor. -/
def signFactor (n : Bool) : ℚ := if n then -1 else 1

theorem abs_sub_signFactor (n : Bool) (y x : ℚ) : |y - signFactor n * x| = |signFactor n * y - x| := by
  cases n
  · simp [signFactor]
  · rw [signFactor, if_pos rfl, ← abs_neg]
    congr 1
    ring

theorem signFactor_mul_self (n : Bool) (y : ℚ) : signFactor n * (signFactor n * y) = y := by cases n <;> simp [signFactor]

theorem signFactor_mul_inj (n : Bool) {y x : ℚ} : signFactor n * y = signFactor n * x ↔ y = x := by cases n <;> simp [signFactor]

theorem IsRankValue.signFactor_mul {f : Nat} {y : ℚ} (h : IsRankValue f y) (n : Bool) : IsRankValue f (signFactor n * y) := by
  obtain ⟨j, hj, hy⟩ := h
  refine ⟨j, hj, ?_⟩
  rw [← hy]
  cases n <;> simp [signFactor]

section

variable {f : Nat} (hf : f ∈ [10, 11, 12, 13])
include hf

theorem eq_pq6_or_tapered : f = 13 ∨ f ∈ [10, 11, 12] := by
  simp only [List.mem_cons, List.not_mem_nil, or_false] at hf ⊢
  omega

theorem encodeFloat_ranked (rm : Rm) {n : Bool} {m : Nat} (hn : f = 13 → n = false) (hm : m ≠ 0) (e : Int) :
    encodeFloat f rm (.fin n m e) = (signedCode f n (encodeRank f m e).1, (encodeRank f m e).2) := by
  rcases eq_pq6_or_tapered hf with rfl | ht
  · rw [hn rfl, encodeFloat_pq6 rm hm]
    rfl
  · exact encodeFloat_tapered ht rm n hm e

/-- The code of a signed rank is a lane of the format, no NaN, with the rank's value under the sign. -/
theorem decodeLane_signedCode {n : Bool} (hn : f = 13 → n = false) {k : Nat} (hk : k ≤ topRank f) :
    signedCode f n (rankCode f k) < 2 ^ laneBits f ∧ (decodeLane f (signedCode f n (rankCode f k))).isNan = false ∧
      ratOf (decodeLane f (signedCode f n (rankCode f k))) = signFactor n * rankVal f k := by
  rcases eq_pq6_or_tapered hf with rfl | ht
  · obtain ⟨m, e, hd, hv⟩ := decodeLane_rankCode hf hk
    rw [hn rfl, show signedCode 13 false (rankCode 13 k) = rankCode 13 k from rfl, hd, ratOf_fin_false, hv]
    exact ⟨(rankCode_lt 13 hf k hk).1, rfl, (one_mul _).symm⟩
  · obtain ⟨htop, hbits, hcode, hlane⟩ := tapered_rank ht
    have hb := Nat.two_pow_pos (bodyBits f)
    have hc : k < 2 ^ bodyBits f := by omega
    obtain ⟨m, e, hd, hv⟩ := decodeTapered_signedCode ht n hc
    rw [hcode, hlane, hd, ratOf_fin, hv, hbits]
    refine ⟨?_, rfl, ?_⟩
    · rw [signedCode, Nat.pow_succ]
      split <;> omega
    · by_cases h0 : k = 0
      · rw [h0, rankVal_zero hf, mul_zero, mul_zero]
      · simp [h0, signFactor]

theorem isRankValue_decodeLane {c : Nat} (hc : c < 2 ^ laneBits f) (hn : (decodeLane f c).isNan = false) : IsRankValue f (ratOf (decodeLane f c)) := by
  have hval : ∃ (n : Bool) (k : Nat), (f = 13 → n = false) ∧ k ≤ topRank f ∧ ratOf (decodeLane f c) = signFactor n * rankVal f k := by
    rcases eq_pq6_or_tapered hf with rfl | ht
    · refine ⟨false, ?_⟩
      rcases Nat.lt_or_ge c 60 with h | h
      · obtain ⟨r, hr, -, rfl⟩ := exists_rankCode_pq6 h
        exact ⟨r, fun _ => rfl, hr, (decodeLane_signedCode hf (n := false) (fun _ => rfl) hr).2.2⟩
      · -- the codes of zero
        have hz : ∀ c < 64, 60 ≤ c → decodeLane 13 c = .fin false 0 0 := by decide
        refine ⟨0, fun _ => rfl, Nat.zero_le _, ?_⟩
        rw [hz c hc h, rankVal_zero hf]
        simp [ratOf]
    · obtain ⟨htop, -, hcode, hlane⟩ := tapered_rank ht
      rw [hlane] at hn
      obtain ⟨s, k, hk, rfl⟩ := exists_signedCode ht hc hn
      have hkt : k ≤ topRank f := by omega
      have h13 : f = 13 → s = false := by
        rintro rfl
        simp at ht
      refine ⟨s, k, h13, hkt, ?_⟩
      have := (decodeLane_signedCode hf h13 hkt).2.2
      rwa [hcode] at this
  obtain ⟨n, k, -, hk, hv⟩ := hval
  rw [hv]
  exact IsRankValue.signFactor_mul ⟨k, hk, abs_of_nonneg (rankVal_nonneg f k)⟩ n

theorem signedCode_mod_two (n : Bool) (c : Nat) : signedCode f n c % 2 = c % 2 := by
  have hb : bodyBits f = (bodyBits f - 1) + 1 := by
    simp only [List.mem_cons, List.not_mem_nil, or_false] at hf
    rcases hf with rfl | rfl | rfl | rfl <;> rfl
  rw [signedCode]
  split
  · rw [hb, Nat.pow_succ, Nat.add_mul_mod_self_right]
  · rfl

/-- The largest values (R77, R82). -/
theorem rankVal_top : rankVal f (topRank f) = if f = 10 then 4096 else if f = 11 then 256 else if f = 12 then 4 else 7 / 4 := by
  have h : ∀ f ∈ [10, 11, 12, 13], rankMag f (topRank f) = if f = 10 then 2 ^ 28 else if f = 11 then 2 ^ 24 else if f = 12 then 2 ^ 18 else 7 * 2 ^ 14 := by
    decide
  rw [rankVal, h f hf]
  simp only [List.mem_cons, List.not_mem_nil, or_false] at hf
  rcases hf with rfl | rfl | rfl | rfl <;> norm_num

/-- A tapered format and PQ6 take the nearest of their values, of two equally near ones that of the even code, whatever the mode (R80, R82). -/
theorem encodeFloat_nearest (rm : Rm) {n : Bool} {m : Nat} (e : Int) (hm : m ≠ 0) (hn : f = 13 → n = false) :
    let v := ratOf (.fin n m e)
    let out := encodeFloat f rm (.fin n m e)
    let val := fun (c : Nat) => ratOf (decodeLane f c)
    out.1 < 2 ^ laneBits f ∧ (decodeLane f out.1).isNan = false ∧
      (∀ c < 2 ^ laneBits f, (decodeLane f c).isNan = false → |val out.1 - v| ≤ |val c - v| ∧
        (|val out.1 - v| = |val c - v| → val c ≠ val out.1 → out.1 % 2 = 0)) ∧
      out.2 = (if val out.1 = v then 0 else fNX) ||| (if rankVal f (topRank f) < |v| then fOF else 0) ||| (if val out.1 = 0 then fUF else 0) := by
  intro v out val
  obtain ⟨k, hk, hcode, hnear, hflags⟩ := encodeRank_nearest hf (e := e) hm
  have hout : out = (signedCode f n (rankCode f k), (encodeRank f m e).2) := by rw [← hcode]; exact encodeFloat_ranked hf rm hn hm e
  obtain ⟨hlt, hnan, hval⟩ := decodeLane_signedCode hf hn hk
  have hv : v = signFactor n * (m * 2 ^ e) := ratOf_fin n m e
  have hvo : val out.1 = signFactor n * rankVal f k := by simp only [val, hout, hval]
  have habs : |v| = m * 2 ^ e := abs_ratOf_fin n m e
  refine ⟨by rw [hout]; exact hlt, by rw [hout]; exact hnan, fun c hc hcn => ?_, ?_⟩
  · obtain ⟨hle, heven⟩ := hnear _ ((isRankValue_decodeLane hf hc hcn).signFactor_mul n)
    rw [hvo, hv, abs_sub_signFactor, abs_sub_signFactor, signFactor_mul_self]
    refine ⟨hle, fun htie hne => ?_⟩
    rw [hout, signedCode_mod_two hf]
    refine heven htie fun h => hne ?_
    rw [← h, signFactor_mul_self]
  · rw [(congrArg Prod.snd hout).trans hflags, hvo, habs, hv]
    have h0 : signFactor n * rankVal f k = 0 ↔ rankVal f k = 0 := by cases n <;> simp [signFactor]
    simp only [signFactor_mul_inj, h0]

end

/-- What a tapered format makes of NaN and zero, and PQ6 of those, of -∞ and of negative numbers (R80, R82). -/
theorem encodeFloat_specials (rm : Rm) :
    (∀ f ∈ [10, 11, 12], (∀ q, encodeFloat f rm (.nan q) = (canonNan f, if q then fNV else 0)) ∧ ∀ n e, encodeFloat f rm (.fin n 0 e) = (0, 0)) ∧
    (∀ q, encodeFloat 13 rm (.nan q) = (0x3C, fNV)) ∧ encodeFloat 13 rm (.inf true) = (0x3C, fNV) ∧ (∀ n e, encodeFloat 13 rm (.fin n 0 e) = (0x3C, 0)) ∧
    ∀ m e, m ≠ 0 → encodeFloat 13 rm (.fin true m e) = (0x3C, fNV) := by
  refine ⟨fun f hf => ?_, fun q => rfl, rfl, fun n e => rfl, fun m e hm => ?_⟩
  · simp only [List.mem_cons, List.not_mem_nil, or_false] at hf
    rcases hf with rfl | rfl | rfl <;> exact ⟨fun q => rfl, fun n e => rfl⟩
  · simp [encodeFloat, isIeee, isTapered, hm]

/-- Settles O30: the five conversions by their lane functions, then integer, tapered and PQ6 targets. -/
theorem conversions : Obligations.Conversions := by
  refine ⟨convFire_result (fun _ _ => rfl) (fun o => ⟨0x70, rfl⟩) isFloatFmt_iff rfl, convFire_result (fun _ _ => rfl) (fun o => ⟨0x72, rfl⟩) isFloatFmt_iff rfl,
    convFire_result (fun _ _ => rfl) (fun o => ⟨0x73, rfl⟩) isFloatFmt_iff rfl,
    convFire_result (fun _ _ => rfl) (fun o => ⟨0x74, rfl⟩) (fun f => decide_eq_true_iff) ?_,
    convFire_result (fun _ _ => rfl) (fun o => ⟨0x75, rfl⟩) (fun f => decide_eq_true_iff) rfl, fun f hf rm => encodeInt_cases hf rm, fun rm => ?_⟩
  · funext v fmt x l
    rw [sextN_eq_toInt]
  · obtain ⟨htap, hnan, hinf, hzero, hneg⟩ := encodeFloat_specials rm
    refine ⟨htap, hnan, hinf, hzero, hneg, fun f hf n m e hm hn => ?_⟩
    rw [← rankVal_top hf]
    exact encodeFloat_nearest hf rm e hm hn

end Sys2Proof.Machine
end

section
/-! SUPPORT. Stochastic rounding, scales and codes rewritten (R83, R93, R141, R145, R146): the encoder between two neighbours of an IEEE and of a tapered format, then CVTS,
SCALE and FMTOF. -/

namespace Sys2Proof.Machine

open Sys2Proof.Safety

/-! ## Stochastic rounding of an IEEE target (R93) -/

theorem or_fNX_and_fNX (a b : Flags) : (a ||| fNX ||| b) &&& fNX = fNX := by
  ext i
  simp only [BitVec.getElem_and, BitVec.getElem_or]
  cases fNX[i] <;> simp

/-- The floor by which R93 decides, as a quotient of natural numbers. -/
theorem floor_eq_div {x : ℚ} {a b : Nat} (h : x = a / b) : ⌊x⌋ = ((a / b : Nat) : Int) := by
  rw [h, Rat.floor_natCast_div_natCast]
  rfl

/-- The stochastic encoder of an IEEE format, at the last place of the value. -/
theorem encodeStochastic_ieee {f u m : Nat} {s : Bool} {e : Int} (hf : f ∈ [7, 8, 9]) (hm : m ≠ 0) : encodeStochastic f u (.fin s m e) =
    (let q := ulpExp f m e
     let sh := (q - e).toNat
     let kk := if u < m % 2 ^ sh * 2 ^ 16 / 2 ^ sh then m >>> sh + 1 else m >>> sh
     let c := encodeFloat f .rne (.fin s kk q)
     if q ≤ e then encodeFloat f .rne (.fin s m e)
     else if m % 2 ^ sh = 0 then encodeFloat f .rne (.fin s m e)
     else (c.1, c.2 ||| fNX ||| flagIf (decide (kk < 2 ^ fracBits f) && decide (q = 1 - ieeeBias f - fracBits f)) fUF)) :=
  (if_neg hm).trans (if_pos (isIeee_of_mem hf))

/-- m × 2^e in units of a place above e: the whole units and what is left of one. -/
theorem div_add_mod_two_zpow (m : Nat) {e q : Int} (h : e ≤ q) :
    (m : ℚ) * 2 ^ e = ((m >>> (q - e).toNat : Nat) + (m % 2 ^ (q - e).toNat : Nat) / (2 ^ (q - e).toNat : Nat)) * 2 ^ q := by
  rw [div_two_zpow_eq h]
  congr 1
  have hm := Nat.div_add_mod m (2 ^ (q - e).toNat)
  have h2 : ((2 ^ (q - e).toNat : Nat) : ℚ) ≠ 0 := by positivity
  rw [Nat.shiftRight_eq_div_pow, eq_comm, ← mul_left_inj' h2, add_mul, div_mul_cancel₀ _ h2, div_mul_cancel₀ _ h2]
  conv_rhs => rw [← hm]
  push_cast
  ring

section

variable {f c m : Nat} {e : Int} (hm : m ≠ 0)
include hm

/-- A value that the format has is encoded as it is. -/
theorem encodeStochastic_of_eq (hf : f ∈ [7, 8, 9]) (u : Nat) (s : Bool) (hc : c < infCode f) (h : (m : ℚ) * 2 ^ e = magOf f c) :
    encodeStochastic f u (.fin s m e) = (signPart f s + c, 0) := by
  have hq : ulpExp f m e = expOf f c := ulpExp_eq hm h.ge (h.trans_lt (magOf_lt_succ f c))
  have henc := encodeFloat_of_eq hf .rne s hc h
  rw [encodeStochastic_ieee hf hm]
  simp only [hq, henc]
  by_cases hle : expOf f c ≤ e
  · rw [if_pos hle]
  · -- the value is a multiple of its last place
    have hmul : m = mantOf f c * 2 ^ (expOf f c - e).toNat := by
      rw [div_two_zpow_eq (show e ≤ expOf f c by omega), magOf] at h
      have h2 := mul_right_cancel₀ (show (2 : ℚ) ^ expOf f c ≠ 0 by positivity) h
      rw [div_eq_iff (by positivity)] at h2
      exact_mod_cast h2
    rw [if_neg hle, if_pos (by rw [hmul, Nat.mul_mod_left])]

/-- A value between two neighbours has the lower one's units of the last place and a part of one more. -/
theorem units_of_between (h1 : magOf f c < m * 2 ^ e) (h2 : (m : ℚ) * 2 ^ e < magOf f (c + 1)) :
    let sh := (expOf f c - e).toNat
    ulpExp f m e = expOf f c ∧ e < expOf f c ∧ m >>> sh = mantOf f c ∧ m % 2 ^ sh ≠ 0 ∧
      ⌊2 ^ 16 * ((m : ℚ) * 2 ^ e - magOf f c) / (magOf f (c + 1) - magOf f c)⌋ = ((m % 2 ^ sh * 2 ^ 16 / 2 ^ sh : Nat) : Int) := by
  intro sh
  have hq : ulpExp f m e = expOf f c := ulpExp_eq hm h1.le h2
  have hpos : (0 : ℚ) < 2 ^ expOf f c := by positivity
  have hsucc := magOf_succ f c
  have hlt : e < expOf f c := by
    by_contra hle
    rw [mul_two_zpow_eq (not_lt.mp hle)] at h1 h2
    rw [hsucc, mul_lt_mul_iff_left₀ hpos, Nat.cast_lt] at h2
    rw [magOf, mul_lt_mul_iff_left₀ hpos, Nat.cast_lt] at h1
    omega
  have hdm := div_add_mod_two_zpow m hlt.le
  have hshpos : (0 : ℚ) < (2 ^ sh : Nat) := by positivity
  have hr0 : (0 : ℚ) ≤ (m % 2 ^ sh : Nat) / (2 ^ sh : Nat) := by positivity
  have hr1 : ((m % 2 ^ sh : Nat) : ℚ) / (2 ^ sh : Nat) < 1 := by
    rw [div_lt_one hshpos]
    exact_mod_cast Nat.mod_lt _ (Nat.two_pow_pos _)
  have hk : m >>> sh = mantOf f c := by
    rw [hdm, magOf, mul_lt_mul_iff_left₀ hpos] at h1
    rw [hdm, hsucc, mul_lt_mul_iff_left₀ hpos] at h2
    have ha : (mantOf f c : ℚ) < (m >>> sh : Nat) + 1 := h1.trans_le (add_le_add_right hr1.le _)
    have hb : ((m >>> sh : Nat) : ℚ) < (mantOf f c + 1 : Nat) := (le_add_of_nonneg_right hr0).trans_lt h2
    have ha' : mantOf f c < m >>> sh + 1 := by exact_mod_cast ha
    have hb' : m >>> sh < mantOf f c + 1 := by exact_mod_cast hb
    omega
  rw [hk] at hdm
  refine ⟨hq, hlt, hk, fun hr => ?_, ?_⟩
  · rw [hr, Nat.cast_zero, zero_div, add_zero] at hdm
    exact absurd hdm h1.ne'
  · refine floor_eq_div ?_
    rw [hdm, hsucc, magOf]
    push_cast
    field_simp
    ring

/-- A value between two neighbours of an IEEE format goes to the upper one where the lane's draw says so, else to the lower one, with NX. -/
theorem encodeStochastic_of_between (hf : f ∈ [7, 8, 9]) (u : Nat) (s : Bool) (hc : c + 1 < infCode f) (h1 : magOf f c < m * 2 ^ e) (h2 : (m : ℚ) * 2 ^ e < magOf f (c + 1)) :
    (encodeStochastic f u (.fin s m e)).2 &&& fNX = fNX ∧ (encodeStochastic f u (.fin s m e)).1 = signPart f s +
      if (u : Int) < ⌊2 ^ 16 * ((m : ℚ) * 2 ^ e - magOf f c) / (magOf f (c + 1) - magOf f c)⌋ then c + 1 else c := by
  obtain ⟨hq, hlt, hk, hr, hfloor⟩ := units_of_between hm h1 h2
  rw [encodeStochastic_ieee hf hm, hfloor]
  simp only [hq, hk]
  rw [if_neg (not_le.mpr hlt), if_neg hr]
  refine ⟨or_fNX_and_fNX _ _, ?_⟩
  simp only [Nat.cast_lt]
  split
  · rw [encodeFloat_of_eq hf .rne s hc (magOf_succ f c).symm]
  · rw [encodeFloat_of_eq hf .rne s (by omega) (show (mantOf f c : ℚ) * 2 ^ expOf f c = magOf f c from rfl)]

end

/-! ## Stochastic rounding of a tapered target (R93) -/

theorem encodeStochastic_tapered {f u m : Nat} {s : Bool} {e : Int} (hf : f ∈ [10, 11, 12]) (hm : m ≠ 0) : encodeStochastic f u (.fin s m e) =
    (let num := (scale16 m e).1
     let den := (scale16 m e).2
     let r := findRank f num den (topRank f)
     let th := (num - rankMag f r * den) * 2 ^ 16 / ((rankMag f (r + 1) - rankMag f r) * den)
     let k := if u < th then r + 1 else r
     if (r = topRank f || rankMag f r * den = num) = true then encodeFloat f .rne (.fin s m e)
     else (signedCode f s (rankCode f k), fNX ||| flagIf (k == 0) fUF)) := by
  have ht : isTapered f = true := by
    simp only [List.mem_cons, List.not_mem_nil, or_false] at hf
    rcases hf with rfl | rfl | rfl <;> rfl
  have hi : isIeee f = false := by
    simp only [List.mem_cons, List.not_mem_nil, or_false] at hf
    rcases hf with rfl | rfl | rfl <;> rfl
  have h13 : ¬ ((decide (f = 13) && s) = true) := by
    simp only [List.mem_cons, List.not_mem_nil, or_false] at hf
    rcases hf with rfl | rfl | rfl <;> simp
  simp only [encodeStochastic, if_neg hm, hi, if_neg Bool.false_ne_true, if_neg h13, ht, Bool.and_true, signedCode, bodyBits]

section

variable {f c m : Nat} {e : Int} (hf : f ∈ [10, 11, 12]) (hm : m ≠ 0)
include hf hm

theorem encodeStochastic_of_rank (u : Nat) (s : Bool) (hc : c ≤ topRank f) (h : (m : ℚ) * 2 ^ e = rankVal f c) :
    encodeStochastic f u (.fin s m e) = (signedCode f s c, 0) := by
  have hf' := mem_ranked_of_tapered hf
  have hfind := findRank_eq hf' hc h.ge fun hlt => h.trans_lt (rankVal_lt_succ hf' hlt)
  have heq := (rankMag_mul_eq_iff c m e).mpr h.symm
  rw [encodeStochastic_tapered hf hm]
  simp only [hfind]
  rw [if_pos (by simp [heq]), encodeFloat_tapered hf .rne s hm, encodeRank_of_eq hf' hc h, (tapered_rank hf).2.2.1]

/-- A value between two neighbours of a tapered format goes to the upper one where the lane's draw says so, else to the lower one, with NX. -/
theorem encodeStochastic_of_ranks (u : Nat) (s : Bool) (hc : c < topRank f) (h1 : rankVal f c < m * 2 ^ e) (h2 : (m : ℚ) * 2 ^ e < rankVal f (c + 1)) :
    (encodeStochastic f u (.fin s m e)).2 &&& fNX = fNX ∧ (encodeStochastic f u (.fin s m e)).1 = signedCode f s
      (if (u : Int) < ⌊2 ^ 16 * ((m : ℚ) * 2 ^ e - rankVal f c) / (rankVal f (c + 1) - rankVal f c)⌋ then c + 1 else c) := by
  have hf' := mem_ranked_of_tapered hf
  have hfind := findRank_eq hf' hc.le h1.le fun _ => h2
  have hne := (rankMag_mul_eq_iff c m e).not.mpr h1.ne
  have hden : ((scale16 m e).2 : ℚ) ≠ 0 := by exact_mod_cast (scale16_spec m e).1.ne'
  have hlt := rankMag_lt_succ f hf' c hc
  have hfloor : ⌊2 ^ 16 * ((m : ℚ) * 2 ^ e - rankVal f c) / (rankVal f (c + 1) - rankVal f c)⌋ =
      (((((scale16 m e).1 - rankMag f c * (scale16 m e).2) * 2 ^ 16 / ((rankMag f (c + 1) - rankMag f c) * (scale16 m e).2) : Nat)) : Int) := by
    refine floor_eq_div ?_
    have hgap : ((rankMag f (c + 1) : ℚ) - rankMag f c) ≠ 0 := by
      rw [sub_ne_zero]
      exact_mod_cast hlt.ne'
    rw [Nat.cast_mul, cast_gap_below h1.le, Nat.cast_mul, Nat.cast_sub hlt.le]
    simp only [rankVal]
    push_cast
    field_simp
    ring
  rw [encodeStochastic_tapered hf hm, hfloor]
  simp only [hfind]
  rw [if_neg (by simp [hc.ne, hne])]
  refine ⟨?_, ?_⟩
  · simpa using or_fNX_and_fNX 0 _
  · simp only [Nat.cast_lt, (tapered_rank hf).2.2.1]

end

/-! ## The statement's codes and magnitudes -/

/-- The code of magnitude c under a sign, as the statement of the scaled conversions writes it. -/
def stochasticCode (f : Nat) (n : Bool) (c : Nat) : Nat := if n && (decide (f < 10) || c != 0) then 2 ^ (laneBits f - 1) + c else c

theorem stochasticCode_ieee {f : Nat} (hf : f ∈ [7, 8, 9]) (n : Bool) (c : Nat) : stochasticCode f n c = signPart f n + c := by
  have hlt : f < 10 := by
    simp only [List.mem_cons, List.not_mem_nil, or_false] at hf
    omega
  cases n <;> simp [stochasticCode, hlt, signPart, laneBits_ieee hf]

theorem stochasticCode_tapered {f : Nat} (hf : f ∈ [10, 11, 12]) (n : Bool) (c : Nat) : stochasticCode f n c = signedCode f n c := by
  have hlt : ¬ f < 10 := by
    simp only [List.mem_cons, List.not_mem_nil, or_false] at hf
    omega
  simp [stochasticCode, hlt, signedCode, (tapered_rank hf).2.1, Nat.add_comm]

theorem decodeLane_ieee {f : Nat} (hf : f ∈ [7, 8, 9]) (c : Nat) : decodeLane f c = decodeIeee f c := by
  rw [decodeLane, if_pos (isIeee_of_mem hf)]

theorem infCode_pos (f : Nat) : 0 < infCode f := by
  have : 2 ≤ 2 ^ expBits f := by rcases expBits_cases f with h | h <;> rw [h] <;> decide
  exact Nat.mul_pos (by omega) (Nat.two_pow_pos _)

/-- Stochastic rounding into an IEEE or a tapered format (R93). -/
theorem encodeStochastic_cases {f u m : Nat} {n : Bool} {e : Int} (hf : f ∈ [7, 8, 9, 10, 11, 12]) (hm : m ≠ 0) :
    let x : ℚ := |ratOf (.fin n m e)|
    let mag := fun (c : Nat) => ratOf (decodeLane f c)
    let out := encodeStochastic f u (.fin n m e)
    let top := if f < 10 then ieeeInf f false - 1 else 2 ^ (laneBits f - 1) - 1
    (∀ c ≤ top, x = mag c → out = (stochasticCode f n c, 0)) ∧
    (∀ c < top, mag c < x → x < mag (c + 1) → out.2 &&& fNX = fNX ∧
      out.1 = stochasticCode f n (if (u : Int) < ⌊2 ^ 16 * (x - mag c) / (mag (c + 1) - mag c)⌋ then c + 1 else c)) := by
  intro x mag out top
  have hx : x = m * 2 ^ e := abs_ratOf_fin n m e
  have hcase : f ∈ [7, 8, 9] ∨ f ∈ [10, 11, 12] := by
    simp only [List.mem_cons, List.not_mem_nil, or_false] at hf ⊢
    omega
  rcases hcase with hi | ht
  · have htop : top = infCode f - 1 := by
      have hlt : f < 10 := by
        simp only [List.mem_cons, List.not_mem_nil, or_false] at hi
        omega
      simp only [top, if_pos hlt, ieeeInf_eq, signPart, if_neg Bool.false_ne_true, Nat.zero_add]
    have hpos := infCode_pos f
    have hmag : ∀ c ≤ top, mag c = magOf f c := fun c hc => by
      simp only [mag, decodeLane_ieee hi]
      exact ratOf_decodeIeee (by omega)
    refine ⟨fun c hc h => ?_, fun c hc h1 h2 => ?_⟩
    · rw [stochasticCode_ieee hi]
      exact encodeStochastic_of_eq hm hi u n (by omega) (hx ▸ (h.trans (hmag c hc)))
    · rw [hx, hmag c hc.le] at h1
      rw [hx, hmag (c + 1) hc] at h2
      rw [stochasticCode_ieee hi, hx, hmag c hc.le, hmag (c + 1) hc]
      exact encodeStochastic_of_between hm hi u n (by omega) h1 h2
  · have htop : top = topRank f := by
      have hlt : ¬ f < 10 := by
        simp only [List.mem_cons, List.not_mem_nil, or_false] at ht
        omega
      simp only [top, if_neg hlt, (tapered_rank ht).1, (tapered_rank ht).2.1, Nat.add_sub_cancel]
    have hmag : ∀ c ≤ top, mag c = rankVal f c := fun c hc => by
      rw [← ratOf_rankCode (mem_ranked_of_tapered ht) (htop ▸ hc), (tapered_rank ht).2.2.1]
    refine ⟨fun c hc h => ?_, fun c hc h1 h2 => ?_⟩
    · rw [stochasticCode_tapered ht]
      exact encodeStochastic_of_rank ht hm u n (htop ▸ hc) (hx ▸ (h.trans (hmag c hc)))
    · rw [hx, hmag c hc.le] at h1
      rw [hx, hmag (c + 1) hc] at h2
      rw [stochasticCode_tapered ht, hx, hmag c hc.le, hmag (c + 1) hc]
      exact encodeStochastic_of_ranks ht hm u n (htop ▸ hc) h1 h2

/-! ## Scales (R83) -/

theorem scaleBy_255 (x : Num) : scaleBy x 255 = .nan x.isSnan := rfl

theorem ratOf_scaleBy {c : Nat} (hc : c < 255) (n : Bool) (m : Nat) (e : Int) :
    ratOf (scaleBy (.fin n m e) c) = ratOf (.fin n m e) * 2 ^ ((c : Int) - 127) := by
  rw [scaleBy, if_neg hc.ne]
  simp only [ratOf_fin]
  rw [show e + c - 127 = e + ((c : Int) - 127) by ring, zpow_add₀ two_ne_zero]
  ring

/-! ## CVTS, SCALE and FMTOF -/

section

variable {o : Op} {s : State} {v : Env}

/-- The lane of CVTS (R141). -/
def cvtsLane (v : Env) (d : Word) (l : Nat) : Nat × Flags :=
  encodeStochastic v.o.tact.val (drawLane d l) (decodeLane v.a.fmt (lane v.a (laneBits v.a.fmt) l).toNat)

/-- What CVTS does with its draw. -/
def cvtsDraw (v : Env) (d : Word) : Dec :=
  convSem 3 isFloatFmt (fun v fmt x l => encodeStochastic v.o.tact.val (drawLane d l) (decodeLane fmt x)) v

theorem cvtsDraw_go {v : Env} (h : isFloatFmt v.a.fmt = true) (d : Word) : cvtsDraw v d =
    .go { lat := 3, d1 := some (v.convResult (cvtsLane v d)), d2 := some (v.convResult (cvtsLane v d)), flags := flagsOver v.convCount fun l => (cvtsLane v d l).2 } :=
  convSem_go 3 _ h

theorem exec_cvts (o : Op) (s : State) :
    exec (.cvts o) s = fire (fun v => if !isFloatFmt v.a.fmt then .trap .badFormat 0 0 0 else drawing cvtsDraw v) (.cvts o) s := rfl

theorem cvts_badFormat (h : Decides (.cvts o) s v) (hf : isFloatFmt v.a.fmt = false) : Traps (.cvts o) s v .badFormat 0 0 0 := by
  rw [Traps, exec_cvts]
  exact fire_trap _ h (by simp [hf])

theorem cvts_rngSat (h : Decides (.cvts o) s v) (hf : isFloatFmt v.a.fmt = true) (hl : drawSat v.c.rngpos = true)
    (hr : v.c.frm.toNat.testBit 8 = true) : Traps (.cvts o) s v .rngSat 0 0 0 := by
  rw [Traps, exec_cvts]
  refine fire_trap _ h ?_
  rw [hf, drawing_trap hl hr]
  rfl

theorem cvts_goes (h : Decides (.cvts o) s v) (hf : isFloatFmt v.a.fmt = true) (hd : ¬ (drawSat v.c.rngpos = true ∧ v.c.frm.toNat.testBit 8 = true)) :
    let at_ := cvtsLane v (drawOf v.c.rngseed v.c.rngpos)
    Goes (.cvts o) s v { lat := 3, d1 := some (v.convResult at_), d2 := some (v.convResult at_), draw := true
                         flags := (flagsOver v.convCount fun l => (at_ l).2) ||| (if drawSat v.c.rngpos then fRNGSAT else 0) } := by
  intro at_
  rw [Goes, exec_cvts]
  refine fire_go _ h ?_
  rw [hf, drawing_go hd (cvtsDraw_go hf _)]
  rfl

/-- The lane of SCALE (R145). -/
def scaleLane (v : Env) (l : Nat) : Nat × Flags :=
  encodeFloat v.o.tact.val v.modeRm (scaleBy (decodeLane v.a.fmt (lane v.a (laneBits v.a.fmt) l).toNat) (lane v.b 8 (l / 32)).toNat)

theorem exec_scale (o : Op) (s : State) : exec (.scale o) s = fire (fun v => if !(v.b.fmt == 14 || v.b.fmt == 0) then .trap .badFormat 0 0 0
    else convSem 3 (fun f => decide (7 ≤ f) && decide (f ≤ 13)) (fun v fmt x l =>
      encodeFloat v.o.tact.val v.modeRm (scaleBy (decodeLane fmt x) (laneAt v.b.bits.toNat 8 (l / 32)))) v) (.scale o) s := rfl

theorem scale_badFormat (h : Decides (.scale o) s v) (hf : ¬ (v.b.fmt = 14 ∨ v.b.fmt = 0) ∨ ¬ (7 ≤ v.a.fmt ∧ v.a.fmt ≤ 13)) :
    Traps (.scale o) s v .badFormat 0 0 0 := by
  rw [Traps, exec_scale]
  refine fire_trap _ h ?_
  split
  · rfl
  next hb =>
    have ha : ¬ (7 ≤ v.a.fmt ∧ v.a.fmt ≤ 13) := hf.resolve_left (by simpa using hb)
    exact convSem_trap 3 _ (by simpa using ha)

theorem scale_goes (h : Decides (.scale o) s v) (hb : v.b.fmt = 14 ∨ v.b.fmt = 0) (ha : 7 ≤ v.a.fmt ∧ v.a.fmt ≤ 13) :
    Goes (.scale o) s v { lat := 3, d1 := some (v.convResult (scaleLane v)), d2 := some (v.convResult (scaleLane v))
                          flags := flagsOver v.convCount fun l => (scaleLane v l).2 } := by
  have hok : (decide (7 ≤ v.a.fmt) && decide (v.a.fmt ≤ 13)) = true := by simpa using ha
  have hlane : scaleLane v = fun l => encodeFloat v.o.tact.val v.modeRm
      (scaleBy (decodeLane v.a.fmt (lane v.a (laneBits v.a.fmt) l).toNat) (laneAt v.b.bits.toNat 8 (l / 32))) := by
    funext l
    rw [scaleLane, lane_toNat v.b]
  rw [Goes, exec_scale, hlane]
  refine fire_go _ h ?_
  have hb' : ¬ (!(v.b.fmt == 14 || v.b.fmt == 0)) = true := by simpa [or_iff_not_imp_left] using hb
  rw [if_neg hb']
  exact convSem_go 3 _ hok

/-- A's value under the target code, as FMTOF writes it (R146). -/
def fmtofVal (v : Env) : Val := ({ v.a with fmt := v.o.tact.val } : Val).clean v.wide

theorem exec_fmtof (o : Op) (s : State) : exec (.fmtof o) s = fire (fun v => if v.a.vl != 0 && laneBits v.a.fmt != laneBits v.o.tact.val then .trap .badLane 0 0 0
    else .go (.both 1 (fmtofVal v))) (.fmtof o) s := rfl

theorem fmtofVal_bits (v : Env) : (fmtofVal v).bits.toNat = v.a.bits.toNat % 2 ^ (if v.wide = false then laneBits v.o.tact.val else
    (let all := if laneBits v.o.tact.val = 6 then 504 else 512
     if v.a.vl = 0 then all else min all (v.a.vl * laneBits v.o.tact.val))) := by
  simp only [fmtofVal, Val.clean]
  rw [BitVec.toNat_ofNat, Nat.mod_eq_of_lt ((Nat.mod_le _ _).trans_lt v.a.bits.isLt)]
  cases v.wide <;> rfl

end

/-- Settles O31: the stochastic encoder and the scales, then the three instructions. -/
theorem scaledConversions : Obligations.ScaledConversions := by
  refine ⟨fun f u n m e hf _ hm => encodeStochastic_cases hf hm, fun x c => ⟨scaleBy_255 x, fun hc n m e hx => hx ▸ ratOf_scaleBy hc n m e⟩, ?_⟩
  intro o s v c t w k
  refine ⟨?_, ?_, ?_⟩
  · intro h last at_
    have ho : v.o = o := op_of_decides h rfl
    have hc : v.c = c := ctx_of_decides h
    have hlast : drawSat v.c.rngpos = last := by rw [hc, drawSat_eq]
    have hat : cvtsLane v (drawOf v.c.rngseed v.c.rngpos) = at_ := by
      funext l
      simp only [cvtsLane, ho, hc]
      rfl
    have hk : v.convCount = k := by rw [Env.convCount, ho]
    simp only [← isFloatFmt_iff]
    refine ⟨fun hf => cvts_badFormat h (by simpa using hf), fun hf hl hr => cvts_rngSat h hf (hlast.trans hl) (hc ▸ hr), fun hf hd => ?_⟩
    have hgo := cvts_goes h hf (by rwa [hlast, hc])
    have hlanes := v.convResult_isLanes at_
    rw [hat, hlast, hk] at hgo
    rw [hk, ho] at hlanes
    exact ⟨v.convResult at_, hgo, hlanes⟩
  · intro h at_
    have ho : v.o = o := op_of_decides h rfl
    have hat : scaleLane v = at_ := by
      funext l
      simp only [scaleLane, ho]
      rfl
    have hk : v.convCount = k := by rw [Env.convCount, ho]
    refine ⟨scale_badFormat h, fun hb ha => ?_⟩
    have hgo := scale_goes h hb ha
    have hlanes := v.convResult_isLanes at_
    rw [hat, hk] at hgo
    rw [hk, ho] at hlanes
    exact ⟨v.convResult at_, hgo, hlanes⟩
  · intro h
    have ho : v.o = o := op_of_decides h rfl
    refine ⟨fun ⟨hvl, hw⟩ => ?_, fun hok => ⟨fmtofVal v, ?_, congrArg (fun o => o.tact.val) ho, rfl, ?_⟩⟩
    · rw [Traps, exec_fmtof]
      exact fire_trap _ h (by simp [ho, hvl, show laneBits v.a.fmt ≠ laneBits o.tact.val from hw])
    · rw [Goes, exec_fmtof]
      refine fire_go _ h ((if_neg ?_).trans rfl)
      rcases hok with hvl | hw
      · simp [hvl]
      · simp [ho, show laneBits v.a.fmt = laneBits o.tact.val from hw]
    · rw [fmtofVal_bits, ho]

end Sys2Proof.Machine
end

section
/-! SUPPORT. The sums of a matrix node (R84 to R86): exact sums and products as rationals, the elements and scales of a vector, and a column's sum as the statement
about matrix nodes writes it. -/

namespace Sys2Proof.Machine

open Sys2Proof.Safety

/-! ## Exact arithmetic as rational arithmetic (R127) -/

theorem ratOf_eq_unitsOf (s : Bool) (m : Nat) {e q : Int} (h : q ≤ e) : ratOf (.fin s m e) = (unitsOf s m e q : ℚ) * 2 ^ q := by
  rw [ratOf_fin, mul_two_zpow_eq h, unitsOf]
  cases s
  · simp only [Bool.false_eq_true, if_false, Int.cast_natCast, one_mul]
  · simp only [if_true, Int.cast_neg, Int.cast_natCast, neg_mul, one_mul]

theorem ratOf_natAbs (v : Int) (q : Int) : ratOf (.fin (decide (v < 0)) v.natAbs q) = (v : ℚ) * 2 ^ q := by
  rcases lt_or_ge v 0 with h | h
  · rw [ratOf_fin, Nat.cast_natAbs, abs_of_neg h]
    simp [h]
  · rw [ratOf_fin, Nat.cast_natAbs, abs_of_nonneg h]
    simp [not_lt.mpr h]

/-- A sum of finite numbers is exact, and its zero is +0 under RNE where the first operand is no -0. -/
theorem Num.add_fin_exact (rm : Rm) (s t : Bool) (m n : Nat) (e f : Int) :
    ∃ k j g, Num.add rm (.fin s m e) (.fin t n f) = .fin k j g ∧ ratOf (.fin k j g) = ratOf (.fin s m e) + ratOf (.fin t n f) ∧
      (rm = .rne → (m = 0 → s = false) → j = 0 → k = false) := by
  have hz : ∀ (s : Bool) (e : Int), ratOf (.fin s 0 e) = 0 := fun s e => by simp [ratOf_fin]
  by_cases hm : m = 0
  · subst hm
    by_cases hn : n = 0
    · subst hn
      refine ⟨_, 0, 0, by simp only [Num.add]; rfl, by rw [hz, hz, hz, add_zero], ?_⟩
      rintro rfl hs -
      rw [hs rfl]
      cases t <;> rfl
    · exact ⟨t, n, f, by simp [Num.add, hn], by rw [hz, zero_add], fun _ _ h => absurd h hn⟩
  · by_cases hn : n = 0
    · subst hn
      exact ⟨s, m, e, Num.add_zero_right rm s t e f hm, by rw [hz, add_zero], fun _ _ h => absurd h hm⟩
    · let q := if e ≤ f then e else f
      let v := unitsOf s m e q + unitsOf t n f q
      have hqe : q ≤ e := by simp only [q]; split <;> omega
      have hqf : q ≤ f := by simp only [q]; split <;> omega
      have hadd : Num.add rm (.fin s m e) (.fin t n f) = if v = 0 then .fin (decide (rm = .rdn)) 0 0 else .fin (decide (v < 0)) v.natAbs q := by
        simp [Num.add, hm, hn, v, q]
      have hsum : (v : ℚ) * 2 ^ q = ratOf (.fin s m e) + ratOf (.fin t n f) := by
        rw [ratOf_eq_unitsOf s m hqe, ratOf_eq_unitsOf t n hqf, Int.cast_add, add_mul]
      by_cases hv : v = 0
      · refine ⟨_, 0, 0, hadd.trans (if_pos hv), ?_, fun h _ _ => by simp [h]⟩
        rw [hz, ← hsum, hv, Int.cast_zero, zero_mul]
      · exact ⟨_, _, q, hadd.trans (if_neg hv), (ratOf_natAbs v q).trans hsum, fun _ _ h => absurd (Int.natAbs_eq_zero.mp h) hv⟩

theorem ratOf_mul_fin (s t : Bool) (m n : Nat) (e f : Int) :
    ratOf (Num.mul (.fin s m e) (.fin t n f)) = ratOf (.fin s m e) * ratOf (.fin t n f) := by
  rw [Num.mul_fin_fin, ratOf_fin, ratOf_fin, ratOf_fin, zpow_add₀ two_ne_zero]
  cases s <;> cases t <;> push_cast <;> simp <;> ring

/-! ## The exact sum of a block -/

theorem isNan_foldl_add (l : List Num) : ∀ x : Num, x.isNan = true ∨ (∃ y ∈ l, y.isNan = true) → (l.foldl (Num.add .rne) x).isNan = true := by
  induction l with
  | nil =>
    rintro x (h | ⟨y, hy, -⟩)
    · exact h
    · cases hy
  | cons z l ih =>
    intro x h
    refine ih _ ?_
    rcases h with h | ⟨y, hy, h⟩
    · exact .inl (Num.isNan_add_of_isNan _ (.inl h))
    · rcases List.mem_cons.mp hy with rfl | hy
      · exact .inl (Num.isNan_add_of_isNan _ (.inr h))
      · exact .inr ⟨y, hy, h⟩

/-- The exact sum of finite numbers from a start that is no -0. -/
theorem foldl_add_fin (l : List Num) : ∀ (k : Bool) (m : Nat) (e : Int), (m = 0 → k = false) → (∀ y ∈ l, ∃ k m e, y = .fin k m e) →
    ∃ k' m' e', l.foldl (Num.add .rne) (.fin k m e) = .fin k' m' e' ∧ (m' = 0 → k' = false) ∧
      ratOf (.fin k' m' e') = ratOf (.fin k m e) + (l.map ratOf).sum := by
  induction l with
  | nil => exact fun k m e h _ => ⟨k, m, e, rfl, h, by simp⟩
  | cons y l ih =>
    intro k m e hk hl
    obtain ⟨t, n, f, rfl⟩ := hl _ List.mem_cons_self
    obtain ⟨k1, m1, e1, hadd, hval, hzero⟩ := Num.add_fin_exact .rne k t m n e f
    obtain ⟨k2, m2, e2, hfold, hz2, hval2⟩ := ih k1 m1 e1 (hzero rfl hk) fun x hx => hl x (List.mem_cons_of_mem _ hx)
    refine ⟨k2, m2, e2, by rw [List.foldl_cons, hadd, hfold], hz2, ?_⟩
    rw [hval2, hval, List.map_cons, List.sum_cons, add_assoc]

/-- The sum of a block's products: NaN where an operand is; of finite operands the exact sum, no -0. -/
theorem exactSum_products (b : List (Num × Num)) :
    ((∃ p ∈ b, p.1.isNan = true ∨ p.2.isNan = true) → (exactSum (b.map fun p => Num.mul p.1 p.2)).isNan = true) ∧
    ((∀ p ∈ b, (∃ k m e, p.1 = .fin k m e) ∧ ∃ k m e, p.2 = .fin k m e) →
      (∃ k m e, exactSum (b.map fun p => Num.mul p.1 p.2) = .fin k m e ∧ (m = 0 → k = false)) ∧
        ratOf (exactSum (b.map fun p => Num.mul p.1 p.2)) = (b.map fun p => ratOf p.1 * ratOf p.2).sum) := by
  constructor
  · rintro ⟨p, hp, h⟩
    exact isNan_foldl_add _ _ (.inr ⟨_, List.mem_map_of_mem hp, Num.isNan_mul_of_isNan h⟩)
  · intro h
    have hfin : ∀ y ∈ b.map fun p => Num.mul p.1 p.2, ∃ k m e, y = .fin k m e := by
      intro y hy
      obtain ⟨p, hp, rfl⟩ := List.mem_map.mp hy
      obtain ⟨⟨k, m, e, h1⟩, ⟨l, n, f, h2⟩⟩ := h p hp
      exact ⟨_, _, _, by rw [h1, h2, Num.mul_fin_fin]⟩
    obtain ⟨k, m, e, hsum, hz, hval⟩ := foldl_add_fin _ false 0 0 (fun _ => rfl) hfin
    refine ⟨⟨k, m, e, hsum, hz⟩, ?_⟩
    rw [exactSum, hsum, hval, List.map_map, ratOf_fin_false, Nat.cast_zero, zero_mul, zero_add]
    congr 1
    refine List.map_congr_left fun p hp => ?_
    obtain ⟨⟨k, m, e, h1⟩, ⟨l, n, f, h2⟩⟩ := h p hp
    simp only [Function.comp, h1, h2, ratOf_mul_fin]

/-! ## The elements of a vector (R296) -/

theorem mapIdx_map_range {α β : Type} (g : Nat → α) (f : Nat → α → β) (n : Nat) :
    ((List.range n).map g).mapIdx f = (List.range n).map fun i => f i (g i) := by
  apply List.ext_getElem <;> simp

theorem take_drop_map_range {α : Type} (g : Nat → α) (n j m : Nat) :
    (((List.range n).map g).drop j).take m = (List.range (min m (n - j))).map fun i => g (j + i) := by
  apply List.ext_getElem <;> simp

/-- n rows of q elements are n × q elements in a row. -/
theorem flatMap_range_eq {α : Type} (g : Nat → Nat → α) {q : Nat} (hq : 0 < q) (n : Nat) :
    ((List.range n).flatMap fun j => (List.range q).map (g j)) = (List.range (n * q)).map fun r => g (r / q) (r % q) := by
  induction n with
  | zero => simp
  | succ n ih =>
    rw [List.range_succ, List.flatMap_append, ih, Nat.succ_mul, List.range_add, List.map_append, List.map_map]
    congr 1
    simp only [List.flatMap_cons, List.flatMap_nil, List.append_nil]
    refine List.map_congr_left fun i hi => ?_
    have hi := List.mem_range.mp hi
    simp only [Function.comp]
    rw [Nat.mul_comm, Nat.mul_add_div hq, Nat.mul_add_mod, Nat.div_eq_of_lt hi, Nat.mod_eq_of_lt hi, Nat.add_zero]

theorem portElems_pos (f : Nat) : 0 < portElems f := by
  unfold portElems
  split
  · decide
  · split <;> decide

/-- Element r of a vector of a format: lane r mod Q of the word of port r div Q. -/
def vectorElem (f : Nat) (word : Nat → Token) (r : Nat) : Nat :=
  laneAt (word (r / portElems f)).val.bits.toNat (laneBits f) (r % portElems f)

theorem vectorElems_eq {st : Stream} (word : Nat → Token) (hk : st.k ≤ 4 * portElems st.fmt) :
    vectorElems st ((List.range 4).map word) = (List.range st.k).map (vectorElem st.fmt word) := by
  simp only [vectorElems]
  rw [List.flatMap_map, flatMap_range_eq (fun j i => laneAt (word j).val.bits.toNat (laneBits st.fmt) i) (portElems_pos _), ← List.map_take, List.take_range,
    Nat.min_eq_left hk]
  rfl

/-- A fold that adds one element at each step yields as many as it has read. -/
theorem length_of_foldr_some {α β : Type} {F : α → Option (List β) → Option (List β)}
    (hF : ∀ a r l, F a r = some l → ∃ v l', r = some l' ∧ l = v :: l') (xs : List α) :
    ∀ l, xs.foldr F (some []) = some l → l.length = xs.length := by
  induction xs with
  | nil =>
    intro l h
    rw [← Option.some.inj h]
    rfl
  | cons a xs ih =>
    intro l h
    obtain ⟨v, l', hr, rfl⟩ := hF _ _ _ h
    rw [List.length_cons, List.length_cons, ih l' hr]

/-- A vector of a tapered format has a scale for each block; another has none. -/
theorem length_vectorScales {x : MxNode} {st : Stream} {t : Nat} {sc : List Nat} (h : x.vectorScales st t = some sc) :
    sc.length = if scaled st.fmt then blocksOf st.k else 0 := by
  cases hs : scaled st.fmt with
  | false =>
    simp only [MxNode.vectorScales, hs] at h
    rw [← Option.some.inj h]
    rfl
  | true =>
    simp only [MxNode.vectorScales, hs] at h
    refine (length_of_foldr_some ?_ _ sc h).trans List.length_range
    intro i r l hl
    split at hl
    · exact ⟨_, _, rfl, (Option.some.inj hl).symm⟩
    · cases hl

/-- The activation scale of a block, 1 where the format has none. -/
theorem decodeE8_vectorScale {x : MxNode} {st : Stream} {t j : Nat} {sc : List Nat} (h : x.vectorScales st t = some sc) (hj : j < blocksOf st.k) :
    decodeE8 (sc.getD j 0x7F) = if scaled st.fmt then decodeE8 (sc.getD j 0) else .fin false 1 0 := by
  have hl := length_vectorScales h
  cases hs : scaled st.fmt with
  | false =>
    rw [hs] at hl
    rw [List.eq_nil_of_length_eq_zero hl, List.getD_nil, if_neg Bool.false_ne_true]
    decide
  | true =>
    rw [hs, if_pos rfl] at hl
    simp [List.getD_eq_getElem?_getD, List.getElem?_eq_getElem (hl ▸ hj : j < sc.length)]

/-! ## A column's sum (R86) -/

theorem sumOut_fst (rm : Rm) (fmt : Nat) (x y : Num) (a b : Flags) : (sumOut rm fmt x y a).1 = (sumOut rm fmt x y b).1 := by
  simp only [sumOut]
  split <;> rfl

/-- A partial sum with a number added, rounded once to FP32. -/
def addColumn (p : Nat) (y : Num) : Nat := (sumOut .rne 7 (decodeLane 7 p) y 0).1

theorem addFp32_fst (p : Nat) (y : Num) : (addFp32 p y).1 = addColumn p y := sumOut_fst _ _ _ _ _ _

/-- The sum of a BF16 column: each exact product added at its row. -/
theorem bf16Column_fst (w : Weights) (free k c : Nat) (elem : Nat → Nat) : (bf16Column w free ((List.range k).map elem) c).1 =
    (List.range k).foldl (fun p r => addColumn p (Num.mul (decodeLane 8 (elem r)) (decodeLane 8 (w.code free r c)))) 0 := by
  rw [bf16Column, mapIdx_map_range, List.foldl_map]
  refine (List.foldl_hom (g₂ := fun p r => addColumn p (Num.mul (decodeLane 8 (elem r)) (decodeLane 8 (w.code free r c)))) Prod.fst fun p r => ?_).symm
  exact (addFp32_fst _ _).symm

/-- The products of a block, each activation with its weight. -/
def blockPairs (w : Weights) (free f k c : Nat) (elem : Nat → Nat) (j : Nat) : List (Num × Num) :=
  (List.range (min 32 (k - 32 * j))).map fun i => (decodeLane f (elem (32 * j + i)), decodeLane w.fmt (w.code free (32 * j + i) c))

/-- The exact sum of a block. -/
def blockSum (w : Weights) (free f k c : Nat) (elem : Nat → Nat) (j : Nat) : Num :=
  exactSum ((blockPairs w free f k c elem j).map fun p => Num.mul p.1 p.2)

/-- The sum of a column of another format: each block's exact sum, scaled exactly, added in block order. -/
theorem blockColumn_fst (w : Weights) (free f k c : Nat) (sc : List Nat) (elem : Nat → Nat) : (blockColumn w free f ((List.range k).map elem) sc c).1 =
    (List.range (blocksOf k)).foldl (fun p j => addColumn p (Num.mul (blockSum w free f k c elem j)
      (Num.mul (decodeE8 (w.scale free j c)) (decodeE8 (sc.getD j 0x7F))))) 0 := by
  have hprods : ∀ j, ((((List.range k).map elem).drop (32 * j)).take 32).mapIdx
      (fun i x => Num.mul (decodeLane f x) (decodeLane w.fmt (w.code free (32 * j + i) c))) =
      (blockPairs w free f k c elem j).map fun p => Num.mul p.1 p.2 := fun j => by
    rw [take_drop_map_range, mapIdx_map_range, blockPairs, List.map_map]
    rfl
  rw [blockColumn, List.length_map, List.length_range]
  simp only [hprods]
  refine (List.foldl_hom (g₂ := fun p j => addColumn p (Num.mul (blockSum w free f k c elem j) (Num.mul (decodeE8 (w.scale free j c)) (decodeE8 (sc.getD j 0x7F)))))
    Prod.fst fun p j => ?_).symm
  exact (addFp32_fst _ _).symm

theorem vectorSums_getD (w : Weights) (free f : Nat) (a sc : List Nat) {c : Nat} (hc : c < 128) : (vectorSums w free f a sc).1.getD c 0 =
    BitVec.ofNat 32 (if w.fmt = 8 then bf16Column w free a c else blockColumn w free f a sc c).1 := by
  simp [vectorSums, List.getD_eq_getElem?_getD, hc]

theorem length_vectorSums (w : Weights) (free f : Nat) (a sc : List Nat) : (vectorSums w free f a sc).1.length = 128 := by
  simp [vectorSums]

end Sys2Proof.Machine
end

section
/-! SUPPORT. The steps of matrix and repeat nodes (R297 to R304, R322, R324): what an update of a node or of a flight leaves, replies, and the commands a node
takes. -/

namespace Sys2Proof.Machine

open Sys2Proof.Safety

/-! ## Dispatch -/

theorem exec_unitCommandAccept (i : Nat) (s : State) : exec (.unitCommandAccept i) s = execUnitCommandAccept i s := rfl
theorem exec_weightLoadEnd (n : Nat) (s : State) : exec (.weightLoadEnd n) s = execWeightLoadEnd n s := rfl
theorem exec_planeSwap (n : Nat) (s : State) : exec (.planeSwap n) s = execPlaneSwap n s := rfl
theorem exec_vectorStart (n : Nat) (s : State) : exec (.vectorStart n) s = execVectorStart n s := rfl
theorem exec_rowWrite (n : Nat) (s : State) : exec (.rowWrite n) s = execRowWrite n s := rfl
theorem exec_mdrainEmit (n : Nat) (s : State) : exec (.mdrainEmit n) s = execMdrainEmit n s := rfl
theorem exec_repeatCapture (n p : Nat) (s : State) : exec (.repeatCapture n p) s = execRepeatCapture n p s := rfl

/-! ## Nodes and flights after an update -/

@[simp] theorem State.node_modNode (s : State) (n : Nat) (f : MxNode → MxNode) : (s.modNode n f).node n = f (s.node n) := by
  simp [State.node, tget_tput_same]

@[simp] theorem State.node_useFree (s : State) (n : Nat) : s.useFree.node n = s.node n := rfl

theorem tget_tput_of_ne {α : Type} (t : Table α) {j k : Nat} (h : j ≠ k) (v d : α) : tget (tput t k v) j d = tget t j d := by
  induction t with
  | nil => simp [tput, tget, h.symm]
  | cons p r ih =>
    obtain ⟨i, w⟩ := p
    simp only [tput]
    split
    · simp [tget, h.symm]
    · split
      · next hki => subst hki; simp [tget, h.symm]
      · simp only [tget, ih]

/-- A flight found by its number, after an update of the flights of a number that keeps it. -/
theorem State.flight?_modFlight (s : State) (i k : Nat) {f : Flight → Flight} (hf : ∀ x, (f x).id = x.id) :
    (s.modFlight i f).flight? k = (s.flight? k).map fun x => if x.id == i then f x else x := by
  have hid : (fun x : Flight => x.id == k) ∘ (fun x => if x.id == i then f x else x) = fun x => x.id == k := by
    funext x; simp only [Function.comp]; split <;> simp [hf]
  simp only [State.flight?, State.modFlight_flights, List.find?_map, hid]

theorem State.id_of_flight? {s : State} {i : Nat} {f : Flight} (h : s.flight? i = some f) : f.id = i := by
  simpa using List.find?_some h

theorem State.flight?_modFlight_same {s : State} {i : Nat} {x : Flight} (h : s.flight? i = some x) {f : Flight → Flight} (hf : ∀ x, (f x).id = x.id) :
    (s.modFlight i f).flight? i = some (f x) := by
  simp [s.flight?_modFlight i i hf, h, State.id_of_flight? h]

theorem State.flight?_modFlight_of_ne (s : State) {i k : Nat} (hk : k ≠ i) {f : Flight → Flight} (hf : ∀ x, (f x).id = x.id) :
    (s.modFlight i f).flight? k = s.flight? k := by
  rw [s.flight?_modFlight i k hf]
  cases h : s.flight? k with
  | none => rfl
  | some x => simp [State.id_of_flight? h, hk]

theorem State.flight?_resolve_of_ne (s : State) {i k : Nat} (hk : k ≠ i) (d1 d2 : Option Val) (p : Bool) (due : Nat) :
    (s.resolve i d1 d2 p due).flight? k = s.flight? k := s.flight?_modFlight_of_ne hk fun _ => rfl

/-! ## Replies of units (R319, R323, R324) -/

/-- A reply changes flights alone. -/
theorem State.unitReply_eq (s : State) (i v : Nat) : ∃ l, s.unitReply i v = { s with flights := l } := by
  unfold State.unitReply
  split
  · split
    · exact ⟨_, rfl⟩
    · exact ⟨s.flights, rfl⟩
  · exact ⟨s.flights, rfl⟩

@[simp] theorem State.unitReply_tick (s : State) (i v : Nat) : (s.unitReply i v).tick = s.tick := by obtain ⟨l, h⟩ := s.unitReply_eq i v; rw [h]
@[simp] theorem State.unitReply_mem (s : State) (i v : Nat) : (s.unitReply i v).mem = s.mem := by obtain ⟨l, h⟩ := s.unitReply_eq i v; rw [h]
@[simp] theorem State.unitReply_node (s : State) (i v n : Nat) : (s.unitReply i v).node n = s.node n := by obtain ⟨l, h⟩ := s.unitReply_eq i v; rw [h]; rfl

theorem scalarVal_isScalar (wide : Bool) (fmt x : Nat) : IsScalar wide fmt (BitVec.ofNat 64 x) (scalarVal wide fmt x) := by
  refine ⟨?_, rfl, rfl⟩
  simp only [scalarVal, BitVec.toNat_ofNat]
  exact Nat.mod_eq_of_lt (by omega)

/-- Flight i, of element e, has v as its reply. -/
def Replied (s : State) (i e v : Nat) : Prop :=
  ∃ h : Flight, s.flight? i = some h ∧ h.elem = e ∧ h.ready = true ∧ h.res.d1 = some (scalarVal (isWide e) 6 v)

theorem Replied.isScalar {s : State} {i e v : Nat} (h : Replied s i e v) :
    ∃ (f : Flight) (x : Val), s.flight? i = some f ∧ f.ready = true ∧ f.res.d1 = some x ∧ IsScalar (isWide e) 6 (BitVec.ofNat 64 v) x := by
  obtain ⟨f, hf, -, hr, hd⟩ := h
  exact ⟨f, _, hf, hr, hd, scalarVal_isScalar _ _ _⟩

theorem State.unitReply_of_unit {s : State} {i u : Nat} {f : Flight} (hf : s.flight? i = some f) (hw : f.wait = .unit u) (v : Nat) :
    s.unitReply i v = s.resolve i (some (scalarVal (isWide f.elem) 6 v)) (some (scalarVal (isWide f.elem) 6 v)) true s.tick := by
  simp only [State.unitReply, hf, hw]

/-- A fire that waits for its unit has the reply. -/
theorem replied_unitReply {s : State} {i u : Nat} {f : Flight} (hf : s.flight? i = some f) (hw : f.wait = .unit u) (v : Nat) :
    Replied (s.unitReply i v) i f.elem v := by
  rw [State.unitReply_of_unit hf hw]
  exact ⟨_, State.flight?_modFlight_same hf fun _ => rfl, rfl, rfl, rfl⟩

/-- A reply of the same value to any fire keeps it. -/
theorem Replied.unitReply {s : State} {i e v : Nat} (h : Replied s i e v) (j : Nat) : Replied (s.unitReply j v) i e v := by
  obtain ⟨f, hf, he, hr, hd⟩ := h
  unfold State.unitReply
  split
  · next g hg =>
    split
    · by_cases hj : i = j
      · subst hj
        cases hf.symm.trans hg
        exact ⟨_, State.flight?_modFlight_same hf fun _ => rfl, he, rfl, by rw [he]⟩
      · exact ⟨f, (s.flight?_resolve_of_ne hj _ _ _ _).trans hf, he, hr, hd⟩
    · exact ⟨f, hf, he, hr, hd⟩
  · exact ⟨f, hf, he, hr, hd⟩

/-- It depends on the flights alone. -/
theorem Replied.of_flights {s t : State} {i e v : Nat} (h : Replied s i e v) (ht : t.flights = s.flights) : Replied t i e v := by
  obtain ⟨f, hf, h⟩ := h
  exact ⟨f, by rw [← hf, State.flight?, State.flight?, ht], h⟩

theorem FaultFrame.flights {s t : State} (h : FaultFrame s t) : t.flights = s.flights := by obtain ⟨_, _, _, _, _, rfl⟩ := h; rfl
theorem FaultFrame.tick {s t : State} (h : FaultFrame s t) : t.tick = s.tick := by obtain ⟨_, _, _, _, _, rfl⟩ := h; rfl

/-! ## Commands that a node takes (R322) -/

theorem State.cutting_of_none {s : State} {c : Cmd} {g : Region} (hg : s.region? c.region = some g) (hc : g.cut = .none) : s.cutting c = false := by
  simp [State.cutting, hg, hc]

theorem State.worksFor_of_region {s : State} {c : Cmd} {g : Region} (hs : s.dbg.stopped = false) (hg : s.region? c.region = some g) : s.worksFor c = true := by
  simp [State.worksFor, hg, hs]

theorem State.settleNode_of_idle {s : State} {n : Nat} (h : (s.node n).cmds = []) : s.settleNode n = s := by
  simp [State.settleNode, State.takeCmds, h]

/-- A node that takes commands replies with the present tick alone: a reply of that tick stays. -/
theorem Replied.takeCmds {i e n : Nat} (fuel : Nat) : ∀ s : State, Replied s i e s.tick → Replied (s.takeCmds n fuel) i e s.tick := by
  induction fuel with
  | zero => exact fun s h => h
  | succ fuel ih =>
    intro s h
    simp only [State.takeCmds]
    split
    · exact h
    · next c r hc =>
      split
      · exact h
      · split
        · exact h
        · have hf := State.unitFault_frame (s.modNode n fun x => { x with stopped := true }) c.region (by assumption) 1 (nodeTile n) n c.elem c.ctx c.slot
            (if c.opc = 0xC0 then c.a.toNat else 0) []
          exact h.of_flights hf.flights
        · next y _ =>
          have hrest : ∀ t : State, t.tick = s.tick → Replied t i e s.tick →
              Replied ((if atOnce c.opc then t.unitDone c.fire else t).takeCmds n fuel) i e s.tick := by
            intro t ht hr
            rw [← ht] at hr ⊢
            split
            · simpa [State.unitDone] using ih (t.unitDone c.fire) (by simpa [State.unitDone] using hr.unitReply c.fire)
            · exact ih t hr
          apply hrest <;> split
          · rfl
          · rfl
          · exact h.of_flights rfl
          · exact h.of_flights rfl

theorem Replied.settleNode {s : State} {i e : Nat} (h : Replied s i e s.tick) (n : Nat) : Replied (s.settleNode n) i e s.tick := h.takeCmds 17 s

end Sys2Proof.Machine
end

section
/-! SUPPORT. Commands, weights, planes and repeat nodes of matrix nodes (R297, R299, R304, R322, R324), clause by clause. -/

namespace Sys2Proof.Machine

open Sys2Proof.Safety

/-! ## Acceptance of a command (R322) -/

theorem unitCommandAccept_setsOut {s : State} {i u : Nat} {f : Flight} (hs : s.dbg.stopped = false) (hf : s.flight? i = some f) (hw : f.wait = .unitSend u)
    (hd : f.due = none) (hm : s.maySend f u = true) : Answers (.unitCommandAccept i) s fun t =>
      t.flight? i = some { f with due := some (s.tick + travel (elemTile f.elem) (unitTile u)) } ∧ t.elems = s.elems ∧ t.mem = s.mem := by
  refine ⟨s.modFlight i fun x => { x with due := some (s.tick + travel (elemTile f.elem) (unitTile u)) }, ?_, ?_, rfl, rfl⟩
  · simp [exec_unitCommandAccept, execUnitCommandAccept, hf, Flight.sends, hw, hs, hd, hm, guarded]
  · exact State.flight?_modFlight_same hf fun _ => rfl

/-- A taken fire waits for its unit. -/
theorem State.flight?_taken {s : State} {i : Nat} {f : Flight} (hf : s.flight? i = some f) (u : Nat) :
    ∃ h, (s.taken f u).flight? i = some h ∧ h.wait = .unit u ∧ h.elem = f.elem := by
  have hid : f.id = i := State.id_of_flight? hf
  subst hid
  refine ⟨_, State.flight?_modFlight_same hf fun x => ?_, ?_, ?_⟩
  · split <;> rfl
  · split <;> rfl
  · split <;> rfl

/-- What a command at the head of its matrix node's arrivals meets: a node with room takes it. -/
structure ReachesNode (s : State) (i n : Nat) (f : Flight) : Prop where
  running : s.dbg.stopped = false
  small : n < 64
  found : s.flight? i = some f
  sent : f.wait = .unitSend (256 + n)
  arrived : ∃ d, f.due = some d ∧ d ≤ s.tick
  first : s.firstAt f (256 + n) = true
  free : s.holdsUnit i = false
  room : (s.node n).held < 16

theorem ReachesNode.exec {s : State} {i n : Nat} {f : Flight} (h : ReachesNode s i n f) :
    exec (.unitCommandAccept i) s = .next ((s.taken f (256 + n)).enterNode n (s.cmdOf f)) := by
  obtain ⟨hs, hn, hf, hw, ⟨d, hd, hle⟩, hfirst, hh, hroom⟩ := h
  have hkind : (256 + n) / 256 = 1 := by omega
  have hidx : (256 + n) % 256 = n := by omega
  have hnode : (s.taken f (256 + n)).node n = s.node n := rfl
  simp [exec_unitCommandAccept, execUnitCommandAccept, hf, Flight.sends, hw, hs, hd, State.atUnit, hle, hfirst, hh, hkind, State.takeCmd, unitIdx, hidx, hnode, hroom]

theorem unitCommandAccept_rptset {s : State} {i n : Nat} {f : Flight} (h : ReachesNode s i n f) (hop : f.opc = 0xC6)
    (hp : bits f.a.toNat 17 16 < (s.node n).repeats.length) : Answers (.unitCommandAccept i) s fun t =>
      (∃ h : Flight, t.flight? i = some h ∧ h.wait = .unit (256 + n)) ∧
        ((t.node n).repeats.getD (bits f.a.toNat 17 16) {}).sets = ((s.node n).repeats.getD (bits f.a.toNat 17 16) {}).sets ++ [s.cmdOf f] ∧ t.mem = s.mem := by
  refine ⟨_, h.exec, ?_⟩
  have henter : (s.taken f (256 + n)).enterNode n (s.cmdOf f) = (s.taken f (256 + n)).modNode n fun x =>
      { x with repeats := x.repeats.modify (bits f.a.toNat 17 16) fun r => { r with sets := r.sets ++ [s.cmdOf f] } } := by
    simp [State.enterNode, State.cmdOf, hop]
  have hnode : (s.taken f (256 + n)).node n = s.node n := rfl
  obtain ⟨x, hx, hwait, -⟩ := State.flight?_taken h.found (256 + n)
  rw [henter]
  refine ⟨⟨x, hx, hwait⟩, ?_, rfl⟩
  simp [hnode, List.getD_eq_getElem?_getD, hp]

theorem unitCommandAccept_mmode {s : State} {i n : Nat} {f : Flight} (h : ReachesNode s i n f) (hop : f.opc = 0xC3) :
    Answers (.unitCommandAccept i) s fun t =>
      ∃ (h : Flight) (x : Val), t.flight? i = some h ∧ h.ready = true ∧ h.res.d1 = some x ∧ IsScalar (isWide f.elem) 6 (BitVec.ofNat 64 s.tick) x := by
  refine ⟨_, h.exec, Replied.isScalar ?_⟩
  have henter : (s.taken f (256 + n)).enterNode n (s.cmdOf f) = (((s.taken f (256 + n)).unitDone f.id).modNode n fun x =>
      { x with cmds := x.cmds ++ [s.cmdOf f] }).settleNode n := by
    simp [State.enterNode, State.cmdOf, Cmd.inRange, hop]
  obtain ⟨x, hx, hwait, helem⟩ := State.flight?_taken h.found (256 + n)
  have hdone : Replied ((s.taken f (256 + n)).unitDone f.id) i f.elem s.tick := by
    rw [State.id_of_flight? h.found, ← helem]
    exact replied_unitReply hx hwait _
  have htick : ((s.taken f (256 + n)).unitDone f.id).tick = s.tick := State.unitReply_tick _ _ _
  rw [henter]
  have hset := Replied.settleNode (n := n) (s := ((s.taken f (256 + n)).unitDone f.id).modNode n fun x => { x with cmds := x.cmds ++ [s.cmdOf f] })
    (by rw [State.modNode_tick, htick]; exact hdone.of_flights rfl)
  rwa [State.modNode_tick, htick] at hset

/-! ## Weights and planes (R297, R299) -/

/-- What lets a weight load go on: its time has come, and its node and its region may work. -/
structure LoadDue (s : State) (n : Nat) (l : Loading) : Prop where
  loading : (s.node n).loading = some l
  due : l.due ≤ s.tick
  works : s.worksFor l.cmd = true
  running : (s.node n).stopped = false
  free : s.holdsUnit l.cmd.fire = false
  uncut : s.cutting l.cmd = false

theorem LoadDue.exec_shown {s : State} {n : Nat} {l : Loading} (h : LoadDue s n l) {w : Weights} (hw : l.tile = some w) :
    exec (.weightLoadEnd n) s = .next (((s.modNode n fun x => { x with loading := none, shadow := some w }).unitDone l.cmd.fire).settleNode n) := by
  obtain ⟨hl, hd, hwk, hst, hh, hc⟩ := h
  simp [exec_weightLoadEnd, execWeightLoadEnd, hl, hd, hwk, hst, hh, hc, hw, guarded]

theorem LoadDue.exec_fetch {s : State} {n : Nat} {l : Loading} (h : LoadDue s n l) (hw : l.tile = none) : exec (.weightLoadEnd n) s = .next (s.fetchTile n l) := by
  obtain ⟨hl, hd, hwk, hst, hh, hc⟩ := h
  simp [exec_weightLoadEnd, execWeightLoadEnd, hl, hd, hwk, hst, hh, hc, hw, guarded]

theorem weightLoadEnd_shows {s : State} {n : Nat} {l : Loading} (h : LoadDue s n l) {w : Weights} (hw : l.tile = some w) (hc : (s.node n).cmds = []) :
    Answers (.weightLoadEnd n) s fun t =>
      (t.node n).shadow = some w ∧ (t.node n).loading = none ∧ (t.node n).active = (s.node n).active ∧ t.mem = s.mem := by
  refine ⟨_, h.exec_shown hw, ?_⟩
  rw [State.settleNode_of_idle (by simp [State.unitDone, hc])]
  simp [State.unitDone]

theorem weightLoadEnd_fetches {s u : State} {n : Nat} {l : Loading} (h : LoadDue s n l) {b : List Byte} (hw : l.tile = none)
    (hr : s.unitRead l.cmd.region 16 l.cmd.a.toNat (tileBytes l.cmd) = .done (b, false) u) :
    Answers (.weightLoadEnd n) s fun t => ∃ m : Loading, (t.node n).loading = some m ∧ m.due = s.tick + 128 ∧ m.tile = some (tileOf l.cmd b) := by
  refine ⟨_, h.exec_fetch hw, { l with due := s.tick + 128, tile := some (tileOf l.cmd b) }, ?_, rfl, rfl⟩
  simp [State.fetchTile, hr]

theorem planeSwap_exchanges {s : State} {n : Nat} {c : Cmd} (hq : (s.node n).cmds = [c]) (hsw : (s.node n).swappable s.tick = true)
    (hwk : s.worksFor c = true) (hc : s.cutting c = false) :
    Answers (.planeSwap n) s fun t => (t.node n).active = (s.node n).shadow ∧ (t.node n).shadow = (s.node n).active ∧ (t.node n).nextIn = s.tick + 1 ∧
      (t.node n).cmds = [] ∧ (t.node n).acc = (s.node n).acc ∧ t.mem = s.mem := by
  refine ⟨(((s.modNode n fun x => { x with cmds := [], active := x.shadow, shadow := x.active, mloads := 0, nextIn := s.tick + 1 }).unitDone c.fire).settleNode n), ?_, ?_⟩
  · simp [exec_planeSwap, execPlaneSwap, hq, hsw, hwk, hc, guarded]
  · rw [State.settleNode_of_idle (by simp [State.unitDone])]
    simp [State.unitDone]

/-! ## Repeat nodes (R304) -/

/-- A repeat node with no RPTSET has its next word go on. -/
theorem Repeat.step_passes {r : Repeat} {t : Nat} {k : Token} {rest : List Token} (hq : r.inq = k :: rest) (hs : r.sets = []) (hk : k.seen ≤ t)
    (h3 : k.tag ≠ 3) (h4 : k.tag ≠ 4) : r.step t = some { node := { r with inq := rest, mid := k.carries && !k.ends }, out := [k] } := by
  simp [Repeat.step, hs, hq, not_lt.mpr hk, h3, h4]

theorem repeatCapture_passes {s : State} (hs : s.dbg.stopped = false) {n p : Nat} {k : Token} {rest : List Token} (hp : p < 4) (hst : (s.node n).stopped = false)
    (hmk : (s.node n).marks = 0) (hacts : (s.node n).acts.length = 4) (hreps : (s.node n).repeats.length = 4) (hroom : ((s.node n).acts.getD p []).length < 4)
    (hnew : ∀ x ∈ (s.node n).acts.getD p [], x.seen ≠ s.tick + 1) (hq : ((s.node n).repeats.getD p {}).inq = k :: rest)
    (hsets : ((s.node n).repeats.getD p {}).sets = []) (hk : k.seen ≤ s.tick) (h3 : k.tag ≠ 3) (h4 : k.tag ≠ 4) :
    Answers (.repeatCapture n p) s fun t =>
      (t.node n).acts.getD p [] = (s.node n).acts.getD p [] ++ [{ k with seen := s.tick + 1 }] ∧ ((t.node n).repeats.getD p {}).inq = rest ∧ t.mem = s.mem := by
  let r := (s.node n).repeats.getD p {}
  have hany : ((s.node n).acts.getD p []).any (fun x => x.seen == s.tick + 1) = false := by simpa using hnew
  refine ⟨s.modNode n fun x => { x with
    repeats := x.repeats.set p { r with inq := rest, mid := k.carries && !k.ends }, acts := x.acts.modify p (· ++ [{ k with seen := s.tick + 1 }]) }, ?_, ?_⟩
  · have hguard : ((s.node n).stopped || s.dbg.stopped || (s.node n).marks != 0 || decide (4 ≤ p) || decide (4 ≤ ((s.node n).acts.getD p []).length) ||
        ((s.node n).acts.getD p []).any (fun k => k.seen == s.tick + 1)) = false := by
      rw [hst, hs, hmk, hany, decide_eq_false (not_le.mpr hp), decide_eq_false (not_le.mpr hroom)]
      rfl
    rw [exec_repeatCapture, execRepeatCapture, hguard, Repeat.step_passes hq hsets hk h3 h4]
    rfl
  · refine ⟨?_, ?_, rfl⟩
    · simp [List.getD_eq_getElem?_getD, hacts, hp]
    · simp [List.getD_eq_getElem?_getD, hreps, hp]

end Sys2Proof.Machine
end

section
/-! SUPPORT. Vectors, rows and drains of matrix nodes (R298, R300 to R302), clause by clause. -/

namespace Sys2Proof.Machine

open Sys2Proof.Safety

/-! ## The vector that enters (R296, R298) -/

theorem MxNode.streams_of_current {x : MxNode} {k : Nat} {st : Stream} (h : x.current = some (k, st)) : x.streams[k]? = some st := by
  unfold MxNode.current at h
  split at h
  · next i _ =>
    obtain ⟨a, ha, heq⟩ := Option.map_eq_some_iff.mp h
    cases heq
    exact ha
  · cases h

/-- The head words of the activation ports. -/
def MxNode.heads (x : MxNode) (t : Nat) : List Token := (List.range 4).filterMap fun j => headWord (x.acts.getD j []) t

theorem MxNode.heads_eq {x : MxNode} {t : Nat} {word : Nat → Token} (h : ∀ j < 4, headWord (x.acts.getD j []) t = some (word j)) :
    x.heads t = (List.range 4).map word := by
  rw [← List.filterMap_eq_map]
  exact List.filterMap_congr fun j hj => h j (List.mem_range.mp hj)

/-- What enters: the next vector of the current stream, with the sums of the head words. -/
theorem MxNode.entry_eq {x : MxNode} {free t k : Nat} {st : Stream} {e : Entry} (hc : x.current = some (k, st)) (h : x.entry free t = some e) :
    e.idx = k ∧ ∀ (w : Weights) (sc : List Nat), x.active = some w → x.vectorScales st t = some sc →
      e.sums = (vectorSums w free st.fmt (vectorElems st (x.heads t)) sc).1 := by
  unfold MxNode.entry at h
  rw [hc] at h
  split at h
  · next i st' w hcur hw =>
    cases hcur
    split at h
    · next sc hsc =>
      dsimp only at h
      split at h
      · cases h
        refine ⟨rfl, fun w' sc' hw' hsc' => ?_⟩
        cases hw.symm.trans hw'
        cases hsc.symm.trans hsc'
        rfl
      · cases h
    · cases h
  · cases h

/-- The sums of the vector that enters, by its elements. -/
theorem MxNode.entry_sums {x : MxNode} {free t k : Nat} {st : Stream} {e : Entry} (hc : x.current = some (k, st)) (h : x.entry free t = some e)
    {w : Weights} {word : Nat → Token} {sc : List Nat} (hw : x.active = some w) (hk : st.k ≤ 4 * portElems st.fmt)
    (hword : ∀ j < 4, headWord (x.acts.getD j []) t = some (word j)) (hsc : x.vectorScales st t = some sc) :
    e.sums = (vectorSums w free st.fmt ((List.range st.k).map (vectorElem st.fmt word)) sc).1 := by
  rw [(MxNode.entry_eq hc h).2 w sc hw hsc, MxNode.heads_eq hword, vectorElems_eq word hk]

/-- Counting for the trace changes no node and no byte. -/
theorem State.perf_if_eq (s : State) (p : Bool) (j n : Nat) : ∃ d, (if p = true then s.perf j n else s) = { s with dbg := d } := by
  split
  · exact ⟨_, rfl⟩
  · exact ⟨s.dbg, rfl⟩

theorem vectorStart_enters {s : State} {n k : Nat} {st : Stream} {e : Entry} (hc : (s.node n).current = some (k, st)) (hwk : s.worksFor st.cmd = true)
    (hst : (s.node n).stopped = false) (hcut : s.cutting st.cmd = false) (hbad : (s.node n).badPort st s.tick = none)
    (he : (s.node n).entry s.free s.tick = some e) :
    Answers (.vectorStart n) s fun t => t.node n = (s.node n).enter e s.tick ∧ t.mem = s.mem := by
  let s1 : State := { s.modNode n (fun x => x.enter e s.tick) with free := s.free + 2 ^ 17 }
  have hexec : exec (.vectorStart n) s = .next (if s1.traced st.cmd.region then s1.perf 5 1 else s1) := by
    simp [exec_vectorStart, execVectorStart, hc, hwk, hst, hcut, hbad, he, s1]
  obtain ⟨d, hd⟩ := s1.perf_if_eq (s1.traced st.cmd.region) 5 1
  rw [hd] at hexec
  exact ⟨_, hexec, tget_tput_same s.nodes n ((s.node n).enter e s.tick) {}, rfl⟩

theorem MxNode.streams_enter {x : MxNode} {k t : Nat} {st : Stream} {e : Entry} (hs : x.streams[k]? = some st) (hi : e.idx = k) :
    ∃ y : Stream, (x.enter e t).streams[k]? = some y ∧ y.started = st.started + 1 ∧ y.lastIn = t ∧ y.inside = st.inside ++ [(t, e.sums, e.flags)] := by
  subst hi
  refine ⟨{ st with started := st.started + 1, lastIn := t, popped := if st.started + 1 = st.m then 0 else st.popped + e.used
                    inside := st.inside ++ [(t, e.sums, e.flags)] }, ?_, rfl, rfl, rfl⟩
  simp [MxNode.enter, hs]

/-! ## Rows (R298, R301) -/

theorem MxNode.row_tput (x y : MxNode) (r : Nat) (v : List Word32) (h : y.acc = tput x.acc r v) : y.row r = v ∧ ∀ j, j ≠ r → y.row j = x.row j := by
  refine ⟨?_, fun j hj => ?_⟩
  · rw [MxNode.row, h, tget_tput_same]
  · rw [MxNode.row, h, tget_tput_of_ne _ hj, MxNode.row]

/-- The row that a vector's sums are written into, with no column in the spill map. -/
theorem MxNode.row_write {x : MxNode} (hsp : x.spill = []) (st : Stream) (v : List Word32) (fl : Flags) :
    (x.write st v fl).row (st.base + st.written) = (combine st.mode (x.row (st.base + st.written)) v).1 ∧
      ∀ r, r ≠ st.base + st.written → (x.write st v fl).row r = x.row r := by
  have hrow : ((combine st.mode (x.row (st.base + st.written)) v).1.mapIdx fun j w => if x.spill.contains j then 0 else w) =
      (combine st.mode (x.row (st.base + st.written)) v).1 := by
    apply List.ext_getElem <;> simp [hsp]
  refine MxNode.row_tput x _ _ _ ?_
  rw [← hrow]
  rfl

theorem MxNode.flags_write (x : MxNode) (st : Stream) (v : List Word32) (fl : Flags) :
    (x.write st v fl).flags = x.flags ||| fl ||| (combine st.mode (x.row (st.base + st.written)) v).2 := rfl

/-- Under a mode that adds, a column of the row is the sum rounded once. -/
theorem combine_getD {mode : Nat} (hm : mode ≠ 1) {row v : List Word32} (hr : row.length = 128) (hv : v.length = 128) {c : Nat} (hc : c < 128) :
    (combine mode row v).1.getD c 0 = BitVec.ofNat 32 (sumOut .rne 7 (decodeLane 7 (row.getD c 0).toNat) (decodeLane 7 (v.getD c 0).toNat) 0).1 := by
  have hcr : c < row.length := hr ▸ hc
  have hcv : c < v.length := hv ▸ hc
  simp only [combine, hm, if_false, List.getD_eq_getElem?_getD, List.getElem?_map, List.getElem?_zipWith, List.getElem?_eq_getElem hcr, List.getElem?_eq_getElem hcv,
    Option.map_some, Option.getD_some]
  rw [addFp32_fst, addColumn]

theorem rowWrite_writes {s : State} {n c : Nat} {st : Stream} {more : List Stream} {v : List Word32} {fl : BitVec 6} {rest : List (Nat × List Word32 × BitVec 6)}
    (hstr : (s.node n).streams = st :: more) (hin : st.inside = (c, v, fl) :: rest) (hdue : c + 260 ≤ s.tick) (hwk : s.worksFor st.cmd = true)
    (hst : (s.node n).stopped = false) (hlast : st.written + 1 ≠ st.m ∨ (s.node n).cmds = []) :
    Answers (.rowWrite n) s fun t => t.node n = (s.node n).write st v fl ∧ t.mem = s.mem := by
  have hexec : exec (.rowWrite n) s = .next (if st.written + 1 = st.m then ((s.modNode n fun x => x.write st v fl).unitDone st.cmd.fire).settleNode n
      else s.modNode n fun x => x.write st v fl) := by
    simp [exec_rowWrite, execRowWrite, hstr, hin, hdue, hwk, hst, guarded]
  refine ⟨_, hexec, ?_⟩
  split
  · next hm =>
    have hcmds : ((s.node n).write st v fl).cmds = [] := hlast.resolve_left (not_not.mpr hm)
    rw [State.settleNode_of_idle (by simpa [State.unitDone] using hcmds)]
    simp [State.unitDone]
  · simp

/-! ## Drains (R302) -/

/-- A drained word of FP32 has the row's columns as they stand. -/
theorem MxNode.drainWord_fp32 {x : MxNode} (hsp : x.spill = []) {d : Drain} (hd : d.dfmt = 0) (p : Nat) (u : Word) (sw : Nat) :
    (x.drainWord d p u sw).1 = { bits := BitVec.ofNat 512 (packLanes 32 ((List.range 16).map fun l =>
      ((x.row (d.base + d.word / 4)).getD (64 * p + d.word % 4 * 16 + l) 0).toNat)), fmt := 7, vl := 0 } := by
  simp only [MxNode.drainWord, Drain.per, Drain.fmt, hd, hsp, List.map_map, if_true, List.contains_nil, Bool.false_eq_true, if_false, laneBits]
  rfl

theorem MxNode.lane_drainWord {x : MxNode} (hsp : x.spill = []) {d : Drain} (hd : d.dfmt = 0) (p : Nat) (u : Word) (sw : Nat) {l : Nat} (hl : l < 16) :
    lane (x.drainWord d p u sw).1 32 l = (x.row (d.base + d.word / 4)).getD (64 * p + d.word % 4 * 16 + l) 0 := by
  rw [MxNode.drainWord_fp32 hsp hd]
  exact (packed_isLanes false 32 7 16 (fun l => (x.row (d.base + d.word / 4)).getD (64 * p + d.word % 4 * 16 + l) 0) _ (by decide)
    (fun l _ => by rw [BitVec.ofNat_toNat, BitVec.setWidth_eq]) (by decide)).1 l hl

/-- The node after it has put a word of FP32 on each port. -/
theorem MxNode.outs_emit {x : MxNode} (hsp : x.spill = []) {d : Drain} (hd : d.dfmt = 0) (swap : Bool) {wired : Nat → Bool} (t : Nat) (ho : x.outs.length = 2)
    {p : Nat} (hp : p < 2) (hw : wired p = true) : (x.emit d swap wired t).outs[p]? =
      (x.outs[p]?).map (· ++ [{ val := (x.drainWord d p 0 0).1, tag := if d.word + 1 = d.total then 1 else 0, seen := t }]) := by
  obtain rfl | rfl : p = 0 ∨ p = 1 := by omega
  · simp [MxNode.emit, hd, hw, ho, MxNode.drainWord_fp32 hsp hd]
  · simp [MxNode.emit, hd, hw, ho, MxNode.drainWord_fp32 hsp hd]

theorem mdrainEmit_emits {s : State} {n : Nat} {d : Drain} (hdr : (s.node n).drain = some d) (hwk : s.worksFor d.cmd = true) (hst : (s.node n).stopped = false)
    (hd : d.dfmt = 0) (hmay : (s.node n).mayEmit d s.tick = true) (hsp : (s.node n).spill = []) (ho : (s.node n).outs.length = 2) {p : Nat} (hp : p < 2)
    (hw : s.resultWired d.cmd n p = true) :
    Answers (.mdrainEmit n) s fun t => ∃ k : Token, (t.node n).outs[p]? = ((s.node n).outs[p]?).map (· ++ [k]) ∧ k.val.fmt = 7 ∧
      ∀ l < 16, lane k.val 32 l = ((s.node n).row (d.base + d.word / 4)).getD (64 * p + d.word % 4 * 16 + l) 0 := by
  have hlt : d.word < d.total := by
    simp only [MxNode.mayEmit, Bool.and_eq_true, decide_eq_true_eq] at hmay
    exact hmay.1.1
  have hexec : exec (.mdrainEmit n) s = .next ((s.modNode n fun x => x.emit d (decide (Config.freeChoice s.free % 2 = 1)) (s.resultWired d.cmd n) s.tick).useFree) := by
    simp [exec_mdrainEmit, execMdrainEmit, hdr, hwk, hst, hlt, hmay, guarded]
  have hout := MxNode.outs_emit hsp hd (decide (Config.freeChoice s.free % 2 = 1)) s.tick ho hp hw
  refine ⟨_, hexec, { val := ((s.node n).drainWord d p 0 0).1, tag := if d.word + 1 = d.total then 1 else 0, seen := s.tick }, ?_, ?_, ?_⟩
  · rw [State.node_useFree, State.node_modNode, hout]
  · rw [MxNode.drainWord_fp32 hsp hd]
  · exact fun l hl => MxNode.lane_drainWord hsp hd p 0 0 hl

theorem mdrainEmit_ends {s : State} {n : Nat} {d : Drain} (hdr : (s.node n).drain = some d) (hwk : s.worksFor d.cmd = true) (hst : (s.node n).stopped = false)
    (hend : d.total ≤ d.word) (ho : (s.node n).outs.all List.isEmpty = true) (hc : (s.node n).cmds = []) {f : Flight} (hf : s.flight? d.cmd.fire = some f)
    (hw : f.wait = .unit (256 + n)) :
    Answers (.mdrainEmit n) s fun t => (t.node n).drain = none ∧ (t.node n).flags = 0 ∧
      ∃ (h : Flight) (x : Val), t.flight? d.cmd.fire = some h ∧ h.ready = true ∧ h.res.d1 = some x ∧
        IsScalar (isWide f.elem) 6 (BitVec.ofNat 64 ((s.node n).flags.toNat &&& 0x37)) x := by
  let s1 := s.modNode n fun x => { x with drain := none, flags := 0 }
  have hexec : exec (.mdrainEmit n) s = .next ((s1.unitReply d.cmd.fire ((s.node n).flags.toNat &&& 0x37)).settleNode n) := by
    simp [exec_mdrainEmit, execMdrainEmit, hdr, hwk, hst, not_lt.mpr hend, ho, hf, guarded, s1]
  have hidle : ((s1.unitReply d.cmd.fire ((s.node n).flags.toNat &&& 0x37)).node n).cmds = [] := by simp [s1, hc]
  refine ⟨_, hexec, ?_⟩
  rw [State.settleNode_of_idle hidle]
  have hf1 : s1.flight? d.cmd.fire = some f := hf
  exact ⟨by simp [s1], by simp [s1], (replied_unitReply hf1 hw _).isScalar⟩

end Sys2Proof.Machine
end

section
/-! SUPPORT. The sums that enter a matrix node as the statement about it writes them (R85, R86), and the statement. -/

namespace Sys2Proof.Machine

open Sys2Proof.Safety

theorem vectorSums_bf16 {w : Weights} (hw : w.fmt = 8) (free f k : Nat) (elem : Nat → Nat) (sc : List Nat) {c : Nat} (hc : c < 128) :
    (vectorSums w free f ((List.range k).map elem) sc).1.getD c 0 = BitVec.ofNat 32 ((List.range k).foldl (fun p r =>
      addColumn p (Num.mul (decodeLane 8 (elem r)) (decodeLane 8 (w.code free r c)))) 0) := by
  rw [vectorSums_getD _ _ _ _ _ hc, if_pos hw, bf16Column_fst]

theorem vectorSums_blocks {w : Weights} (hw : w.fmt ≠ 8) {x : MxNode} {st : Stream} {t : Nat} {sc : List Nat} (hsc : x.vectorScales st t = some sc) (free : Nat)
    (elem : Nat → Nat) {c : Nat} (hc : c < 128) :
    (vectorSums w free st.fmt ((List.range st.k).map elem) sc).1.getD c 0 = BitVec.ofNat 32 ((List.range (blocksOf st.k)).foldl (fun p j =>
      addColumn p (Num.mul (blockSum w free st.fmt st.k c elem j)
        (Num.mul (decodeE8 (w.scale free j c)) (if scaled st.fmt then decodeE8 (sc.getD j 0) else .fin false 1 0)))) 0) := by
  rw [vectorSums_getD _ _ _ _ _ hc, if_neg hw, blockColumn_fst]
  congr 1
  refine List.foldl_ext _ _ _ fun p j hj => ?_
  rw [decodeE8_vectorScale hsc (List.mem_range.mp hj)]

/-- Flags stay set as others are set. -/
theorem or_and_self_left {n : Nat} (x y : BitVec n) : (x ||| y) &&& x = x := by
  ext i hi
  rw [BitVec.getElem_and, BitVec.getElem_or]
  cases x[i] <;> simp

/-- Settles O54: each clause is its step's lemma; the sums of a vector are those of its columns. -/
theorem matrixSteps : Obligations.MatrixSteps := by
  unfold Obligations.MatrixSteps
  intro s hs
  refine ⟨fun i u f hf hw hd hm => unitCommandAccept_setsOut hs hf hw hd hm, ?_, ?_, ?_, ?_, ?_, ?_, ?_, ?_⟩
  · intro i n d f hn hf hw hd hle hfirst hh hroom hop hp
    exact unitCommandAccept_rptset ⟨hs, hn, hf, hw, ⟨d, hd, hle⟩, hfirst, hh, hroom⟩ hop hp
  · intro i n d f hn hf hw hd hle hfirst hh hroom hop
    exact unitCommandAccept_mmode ⟨hs, hn, hf, hw, ⟨d, hd, hle⟩, hfirst, hh, hroom⟩ hop
  · intro n l g hl hdue hg hst hh hcut
    have hload : LoadDue s n l := ⟨hl, hdue, State.worksFor_of_region hs hg, hst, hh, State.cutting_of_none hg hcut⟩
    exact ⟨fun w hw hc => weightLoadEnd_shows hload hw hc, fun b u hw hr => weightLoadEnd_fetches hload hw hr⟩
  · intro n c g hq hsw hg hcut
    exact planeSwap_exchanges hq hsw (State.worksFor_of_region hs hg) (State.cutting_of_none hg hcut)
  · intro n k st e g hc hg hst hcut hbad he
    obtain ⟨t, hexec, hnode, hmem⟩ := vectorStart_enters hc (State.worksFor_of_region hs hg) hst (State.cutting_of_none hg hcut) hbad he
    obtain ⟨y, hy, hys, hyl, hyi⟩ := MxNode.streams_enter (t := s.tick) (MxNode.streams_of_current hc) (MxNode.entry_eq hc he).1
    refine ⟨t, hexec, ?_⟩
    beta_reduce
    rw [hnode]
    refine ⟨rfl, rfl, rfl, ⟨y, hy, hys, hyl, hyi⟩, hmem, ?_⟩
    intro w word sc hw hk hword hsc elem add
    rw [MxNode.entry_sums hc he hw hk hword hsc]
    refine ⟨length_vectorSums _ _ _ _ _, fun c hc => ⟨fun h8 _ => vectorSums_bf16 h8 _ _ _ _ _ hc, fun h8 => ?_⟩⟩
    exact ⟨blockSum w s.free st.fmt st.k c (vectorElem st.fmt word), vectorSums_blocks h8 hsc _ _ hc, fun j _ => exactSum_products _⟩
  · intro n c st more v fl rest g hstr hin hdue hg hst hsp hlast
    obtain ⟨t, hexec, hnode, hmem⟩ := rowWrite_writes hstr hin hdue (State.worksFor_of_region hs hg) hst hlast
    obtain ⟨hrow, hothers⟩ := MxNode.row_write hsp st v fl
    refine ⟨fun hm => ⟨t, hexec, ?_⟩, fun hm hv hr => ⟨t, hexec, ?_⟩⟩
    · beta_reduce
      rw [hnode, hrow, MxNode.flags_write]
      simp only [combine, hm, if_true]
      exact ⟨trivial, BitVec.or_zero, hothers, hmem⟩
    · beta_reduce
      rw [hnode, hrow]
      refine ⟨fun c hc => combine_getD hm hr hv hc, ?_, hothers, hmem⟩
      rw [MxNode.flags_write, or_and_self_left]
  · intro n d g hdr hg hst
    have hwk := State.worksFor_of_region hs hg (c := d.cmd)
    exact ⟨fun hd hmay hsp ho p hp hw => mdrainEmit_emits hdr hwk hst hd hmay hsp ho hp hw, fun hend ho hc f hf hw => mdrainEmit_ends hdr hwk hst hend ho hc hf hw⟩
  · intro n p k rest hp hst hmk hacts hreps hroom hnew hq hsets hk h3 h4
    exact repeatCapture_passes hs hp hst hmk hacts hreps hroom hnew hq hsets hk h3 h4

end Sys2Proof.Machine
end

section
/-! SUPPORT. The integer instructions lane by lane (R96 to R101, R113, R114): the model's arithmetic on the numbers of a lane as arithmetic of bit vectors, the
saturations, and from them the integer arithmetic, the logic and the divisions. -/

namespace Sys2Proof.Machine

open Sys2Proof.Safety

/-! ## Results lane by lane -/

/-- The lane function of the model computes `f` of bit vectors, with the condition `c`, at every lane width. -/
def LaneComputes (fn : Nat → Nat → Nat → Nat → Nat × Bool) (f : (n : Nat) → BitVec n → BitVec n → BitVec n → BitVec n)
    (c : (n : Nat) → BitVec n → BitVec n → Prop) : Prop :=
  ∀ n, 0 < n → ∀ a b old : BitVec n,
    BitVec.ofNat n (fn n a.toNat b.toNat old.toNat).1 = f n a b old ∧ ((fn n a.toNat b.toNat old.toNat).2 = true ↔ c n a b)

/-- The dispatch sends an instruction to `ex`, which is the fire `fr`, and the opcode map gives its operands back. -/
def RunsAs (mk : Op → Instr) (ex fr : Op → State → Host.Outcome State Fault Refusal) : Prop :=
  ∀ o, (∃ k, (mk o).parts = some (k, o)) ∧ ∀ s, exec (mk o) s = ex o s ∧ ex o s = fr o s

theorem RunsAs.exec_eq {mk : Op → Instr} {ex fr : Op → State → Host.Outcome State Fault Refusal} (h : RunsAs mk ex fr) (o : Op) (s : State) :
    exec (mk o) s = fr o s :=
  ((h o).2 s).1.trans ((h o).2 s).2

section

variable {mk : Op → Instr} {f : (n : Nat) → BitVec n → BitVec n → BitVec n → BitVec n} {c : (n : Nat) → BitVec n → BitVec n → Prop}
  (ex : Op → State → Host.Outcome State Fault Refusal)

/-- An integer instruction has the results of the bit-vector function that its lane function computes. -/
theorem intResult_of_intSem {two : Bool} {lat : Nat → Nat} {fn : Nat → Nat → Nat → Nat → Nat × Bool} (h : LaneComputes fn f c)
    (hr : RunsAs mk ex fun o => fire (intSem two lat fn) (mk o) := by exact fun _ => ⟨⟨_, rfl⟩, fun _ => ⟨rfl, rfl⟩⟩) : IntResult mk two lat f c := by
  have hpos : ∀ n, (n = 64 ∨ n = 32 ∨ n = 16 ∨ n = 8) → 0 < n := by omega
  refine intFire_result mk two lat fn f c hr.exec_eq (fun o => (hr o).1) ?_ ?_
  · exact fun n hn a b old => (h n (hpos n hn) a b old).1.symm
  · exact fun n hn a b old => (h n (hpos n hn) a b old).2

theorem intResult_of_intFire {lat : Nat} {fn : Nat → Nat → Nat → Nat × Bool} (h : LaneComputes (fun n a b _ => fn n a b) f c)
    (hr : RunsAs mk ex fun o => intFire lat fn (mk o) := by exact fun _ => ⟨⟨_, rfl⟩, fun _ => ⟨rfl, rfl⟩⟩) : IntResult mk true (fun _ => lat) f c :=
  intResult_of_intSem ex h hr

theorem intResult_of_intFire1 {lat : Nat} {fn : Nat → Nat → Nat × Bool} (h : LaneComputes (fun n a _ _ => fn n a) f c)
    (hr : RunsAs mk ex fun o => intFire1 lat fn (mk o) := by exact fun _ => ⟨⟨_, rfl⟩, fun _ => ⟨rfl, rfl⟩⟩) : IntResult mk false (fun _ => lat) f c :=
  intResult_of_intSem ex h hr

theorem intResult_of_divFire {fn : Nat → Nat → Nat → Nat × Bool} (h : LaneComputes (fun n a b _ => fn n a b) f c)
    (hr : RunsAs mk ex fun o => divFire fn (mk o) := by exact fun _ => ⟨⟨_, rfl⟩, fun _ => ⟨rfl, rfl⟩⟩) : IntResult mk true divisionLatency f c :=
  intResult_of_intSem ex h hr

theorem intResult_of_cmpFire {fn : Nat → Nat → Nat → Bool} (h : LaneComputes (fun n a b _ => (if fn n a b then 1 else 0, fn n a b)) f c)
    (hr : RunsAs mk ex fun o => cmpFire fn (mk o) := by exact fun _ => ⟨⟨_, rfl⟩, fun _ => ⟨rfl, rfl⟩⟩) : IntResult mk true (fun _ => 1) f c :=
  intResult_of_intSem ex h hr

end

/-! ## The numbers of a lane as bit vectors -/

theorem ofNat_toNat_self {n : Nat} (a : BitVec n) : BitVec.ofNat n a.toNat = a := by rw [BitVec.ofNat_toNat, BitVec.setWidth_eq]

theorem sextN_toNat {n : Nat} (a : BitVec n) : sextN a.toNat n = a.toInt := by rw [sextN_eq_toInt, ofNat_toNat_self]

theorem ofNat_wrapN (n : Nat) (x : Int) : BitVec.ofNat n (wrapN x n) = BitVec.ofInt n x := by rw [wrapN_eq_ofInt, ofNat_toNat_self]

theorem minS_eq (n : Nat) : minS n = -2 ^ (n - 1) := by simp [minS]

theorem toInt_eq_minS_iff {n : Nat} (hn : 0 < n) (a : BitVec n) : a.toInt = minS n ↔ a = BitVec.intMin n := by
  rw [minS_eq, ← BitVec.toInt_intMin_of_pos hn, BitVec.toInt_inj]

theorem toInt_eq_neg_one_iff {n : Nat} (hn : 0 < n) (a : BitVec n) : a.toInt = -1 ↔ a = BitVec.allOnes n := by
  rw [← BitVec.toInt_inj, BitVec.toInt_allOnes, if_pos hn]

/-- The complement of a lane in its width. -/
theorem ofNat_complement {n : Nat} (a : BitVec n) : BitVec.ofNat n (2 ^ n - 1 - a.toNat) = ~~~a := by
  rw [← BitVec.toNat_not, ofNat_toNat_self]

theorem ofNat_allOnes (n : Nat) : BitVec.ofNat n (2 ^ n - 1) = BitVec.allOnes n := by rw [← BitVec.toNat_allOnes, ofNat_toNat_self]

theorem toNat_eq_zero_iff {n : Nat} (a : BitVec n) : a.toNat = 0 ↔ a = 0 := by rw [BitVec.toNat_eq]; rfl
theorem isZero_iff {n : Nat} (a : BitVec n) : decide (a.toNat = 0) = true ↔ a = 0 := decide_eq_true_iff.trans (toNat_eq_zero_iff a)

/-! ## Saturation (R113) -/

/-- The range of a signed lane. -/
def InRange (n : Nat) (x : Int) : Prop := -2 ^ (n - 1) ≤ x ∧ x < 2 ^ (n - 1)

theorem toInt_ofInt_eq_iff {n : Nat} (hn : 0 < n) (x : Int) : (BitVec.ofInt n x).toInt = x ↔ InRange n x := by
  refine ⟨fun h => ?_, fun h => BitVec.toInt_ofInt_eq_self hn h.1 h.2⟩
  rw [← h]
  exact ⟨BitVec.le_toInt _, BitVec.toInt_lt⟩

theorem satI_eq_clamp (n : Nat) (x : Int) : satI x (minS n) (-minS n - 1) = max (-2 ^ (n - 1)) (min (2 ^ (n - 1) - 1) x) := by
  have h : (0 : Int) < 2 ^ (n - 1) := by positivity
  rw [satI, minS_eq]
  split_ifs <;> omega

theorem satI_eq_self_iff (n : Nat) (x : Int) : satI x (minS n) (-minS n - 1) = x ↔ InRange n x := by
  have h : (0 : Int) < 2 ^ (n - 1) := by positivity
  rw [satI_eq_clamp, InRange]
  omega

/-- A saturated result. -/
theorem satS_fst (n : Nat) (x : Int) : BitVec.ofNat n (satS n x).1 = BitVec.ofInt n (max (-2 ^ (n - 1)) (min (2 ^ (n - 1) - 1) x)) := by
  rw [← satI_eq_clamp]
  exact ofNat_wrapN n _

/-- It has been saturated where the result of n bits is another number. -/
theorem satS_snd {n : Nat} (hn : 0 < n) (x : Int) : (satS n x).2 = true ↔ (BitVec.ofInt n x).toInt ≠ x := by
  rw [Ne, toInt_ofInt_eq_iff hn, ← satI_eq_self_iff]
  exact decide_eq_true_iff

theorem ofInt_toInt_add {n : Nat} (a b : BitVec n) : BitVec.ofInt n (a.toInt + b.toInt) = a + b := by simp [BitVec.ofInt_add]
theorem ofInt_toInt_mul {n : Nat} (a b : BitVec n) : BitVec.ofInt n (a.toInt * b.toInt) = a * b := by simp [BitVec.ofInt_mul]
theorem ofInt_toInt_sub {n : Nat} (a b : BitVec n) : BitVec.ofInt n (a.toInt - b.toInt) = a - b := by
  rw [Int.sub_eq_add_neg, BitVec.ofInt_add, BitVec.ofInt_neg, BitVec.ofInt_toInt, BitVec.ofInt_toInt, BitVec.sub_eq_add_neg]
theorem ofInt_natCast_sub (n x y : Nat) : BitVec.ofInt n ((x : Int) - y) = BitVec.ofNat n x - BitVec.ofNat n y := by
  rw [Int.sub_eq_add_neg, BitVec.ofInt_add, BitVec.ofInt_neg, BitVec.ofInt_natCast, BitVec.ofInt_natCast, BitVec.sub_eq_add_neg]

/-- The magnitude of a signed lane. -/
theorem ofNat_natAbs {n : Nat} (a : BitVec n) : BitVec.ofNat n a.toInt.natAbs = if a.toInt < 0 then -a else a := by
  rw [← BitVec.ofInt_natCast]
  split
  next h => rw [Int.ofNat_natAbs_of_nonpos h.le, BitVec.ofInt_neg, BitVec.ofInt_toInt]
  next h => rw [Int.natAbs_of_nonneg (not_lt.mp h), BitVec.ofInt_toInt]

/-- A lane by cases is the bit vector by the same cases. -/
theorem ofNat_ite_eq {n x y : Nat} {X Y : BitVec n} {p q : Prop} [Decidable p] [Decidable q] (hpq : p ↔ q) (hx : q → BitVec.ofNat n x = X)
    (hy : ¬ q → BitVec.ofNat n y = Y) : BitVec.ofNat n (if p then x else y) = if q then X else Y := by
  by_cases hq : q
  · rw [if_pos (hpq.mpr hq), if_pos hq, hx hq]
  · rw [if_neg (hpq.not.mpr hq), if_neg hq, hy hq]

theorem ofNat_ite (n : Nat) (p : Prop) [Decidable p] (a b : BitVec n) : BitVec.ofNat n (if p then a.toNat else b.toNat) = if p then a else b :=
  ofNat_ite_eq Iff.rfl (fun _ => ofNat_toNat_self a) fun _ => ofNat_toNat_self b

/-- Of two lanes the one with the greater key is the same whichever of them stands in a tie. -/
theorem greater_comm {α β : Type} [LinearOrder β] {key : α → β} (hk : Function.Injective key) (a b : α) :
    (if key b ≤ key a then a else b) = if key a ≤ key b then b else a := by
  rcases lt_trichotomy (key a) (key b) with h | h | h
  · rw [if_neg h.not_ge, if_pos h.le]
  · rw [hk h, ite_self]
  · rw [if_pos h.le, if_neg h.not_ge]

theorem toInt_injective (n : Nat) : Function.Injective (BitVec.toInt (n := n)) := fun _ _ => BitVec.eq_of_toInt_eq
theorem toNat_injective (n : Nat) : Function.Injective (BitVec.toNat (w := n)) := fun _ _ => BitVec.eq_of_toNat_eq

/-- An instruction without a predicate result has a condition that never holds. -/
theorem noCondition : false = true ↔ False := iff_of_false Bool.false_ne_true not_false

/-- Settles O16: each lane function computes its operation on bit vectors. -/
theorem integerResults : Obligations.IntegerResults := by
  refine ⟨intResult_of_intFire execAdd ?add,
    intResult_of_intFire execSub ?sub,
    intResult_of_intFire1 execNeg ?neg,
    intResult_of_intFire execMul ?mul,
    intResult_of_intFire execMulh ?mulh,
    intResult_of_intFire execMulhu ?mulhu,
    intResult_of_intSem execMad ?mad,
    intResult_of_intFire execAddsat ?addsat,
    intResult_of_intFire execSubsat ?subsat,
    intResult_of_intFire1 execAbs ?abs,
    intResult_of_intFire execMin ?min,
    intResult_of_intFire execMax ?max,
    intResult_of_intFire execMinu ?minu,
    intResult_of_intFire execMaxu ?maxu,
    intResult_of_intFire execAnd ?and,
    intResult_of_intFire execOr ?or,
    intResult_of_intFire execXor ?xor,
    intResult_of_intFire execAndn ?andn,
    intResult_of_intFire execOrn ?orn,
    intResult_of_intFire1 execNot ?not⟩
  all_goals
    intro n hn a b old
    dsimp only
  case add => exact ⟨by rw [BitVec.ofNat_add, ofNat_toNat_self, ofNat_toNat_self], decide_eq_true_iff⟩
  case sub =>
    rw [ofNat_wrapN, ofInt_natCast_sub, ofNat_toNat_self, ofNat_toNat_self]
    exact ⟨rfl, decide_eq_true_iff⟩
  case neg =>
    rw [sextN_toNat, decide_eq_true_iff, toInt_eq_minS_iff hn, ofNat_wrapN, BitVec.ofInt_neg, BitVec.ofInt_natCast, ofNat_toNat_self]
    exact ⟨rfl, Iff.rfl⟩
  case mul =>
    rw [sextN_toNat, sextN_toNat, satS_snd hn, ofInt_toInt_mul]
    exact ⟨by rw [BitVec.ofNat_mul, ofNat_toNat_self, ofNat_toNat_self], Iff.rfl⟩
  case mulh =>
    rw [sextN_toNat, sextN_toNat, ofNat_wrapN]
    exact ⟨by norm_cast, noCondition⟩
  case mulhu => exact ⟨rfl, noCondition⟩
  case mad => exact ⟨by rw [BitVec.ofNat_add, BitVec.ofNat_mul, ofNat_toNat_self, ofNat_toNat_self, ofNat_toNat_self], noCondition⟩
  case addsat =>
    rw [sextN_toNat, sextN_toNat, satS_fst, satS_snd hn, ofInt_toInt_add]
    exact ⟨rfl, Iff.rfl⟩
  case subsat =>
    rw [sextN_toNat, sextN_toNat, satS_fst, satS_snd hn, ofInt_toInt_sub]
    exact ⟨rfl, Iff.rfl⟩
  case abs =>
    rw [sextN_toNat, ofNat_natAbs, decide_eq_true_iff, toInt_eq_minS_iff hn]
    exact ⟨rfl, Iff.rfl⟩
  case min =>
    rw [sextN_toNat, sextN_toNat, ofNat_ite n]
    exact ⟨rfl, noCondition⟩
  case max =>
    rw [sextN_toNat, sextN_toNat]
    exact ⟨(ofNat_ite n _ a b).trans (greater_comm (toInt_injective n) a b), noCondition⟩
  case minu => exact ⟨ofNat_ite n _ a b, noCondition⟩
  case maxu => exact ⟨(ofNat_ite n _ a b).trans (greater_comm (toNat_injective n) a b), noCondition⟩
  case and => exact ⟨by rw [BitVec.ofNat_and, ofNat_toNat_self, ofNat_toNat_self], noCondition⟩
  case or => exact ⟨by rw [BitVec.ofNat_or, ofNat_toNat_self, ofNat_toNat_self], noCondition⟩
  case xor => exact ⟨by rw [BitVec.ofNat_xor, ofNat_toNat_self, ofNat_toNat_self], noCondition⟩
  case andn => exact ⟨by rw [BitVec.ofNat_and, ofNat_complement, ofNat_toNat_self], noCondition⟩
  case orn => exact ⟨by rw [BitVec.ofNat_or, ofNat_complement, ofNat_toNat_self], noCondition⟩
  case not => exact ⟨ofNat_complement a, noCondition⟩

/-- The condition of DIV and REM (R113). -/
theorem divCond_iff {n : Nat} (hn : 0 < n) (a b : BitVec n) :
    divCond n a.toNat b.toNat = true ↔ b = 0 ∨ (a = BitVec.intMin n ∧ b = BitVec.allOnes n) := by
  simp only [divCond, sextN_toNat, Bool.or_eq_true, Bool.and_eq_true, decide_eq_true_iff, toNat_eq_zero_iff, toInt_eq_minS_iff hn, toInt_eq_neg_one_iff hn]

/-- Where the divisor is not zero, that condition is the signed overflow. -/
theorem divCond_overflow {n : Nat} (hn : 0 < n) (a : BitVec n) {b : BitVec n} (hb : b ≠ 0) :
    divCond n a.toNat b.toNat = true ↔ a = BitVec.intMin n ∧ b = BitVec.allOnes n := by
  rw [divCond_iff hn, or_iff_right hb]

theorem ofNat_toNat_div {n : Nat} (a b : BitVec n) : BitVec.ofNat n (a.toNat / b.toNat) = a.udiv b := ofNat_toNat_self (a.udiv b)
theorem ofNat_toNat_mod {n : Nat} (a b : BitVec n) : BitVec.ofNat n (a.toNat % b.toNat) = a.umod b := ofNat_toNat_self (a.umod b)

/-- Settles O17: the divisor of zero, the overflow, and the division of bit vectors. -/
theorem divisionResults : Obligations.DivisionResults := by
  refine ⟨intResult_of_divFire execDivu ?divu,
    intResult_of_divFire execRemu ?remu,
    intResult_of_divFire execDiv ?div,
    intResult_of_divFire execRem ?rem⟩
  all_goals
    intro n hn a b old
    dsimp only
  case divu => exact ⟨ofNat_ite_eq (toNat_eq_zero_iff b) (fun _ => ofNat_allOnes n) fun _ => ofNat_toNat_div a b, isZero_iff b⟩
  case remu =>
    exact ⟨ofNat_ite_eq (toNat_eq_zero_iff b) (fun _ => ofNat_toNat_self a) fun _ => ofNat_toNat_mod a b, isZero_iff b⟩
  case div =>
    refine ⟨ofNat_ite_eq (toNat_eq_zero_iff b) (fun _ => ofNat_allOnes n) fun hb => ofNat_ite_eq (divCond_overflow hn a hb) (fun ho => ?_) fun _ => ?_,
      divCond_iff hn a b⟩
    · rw [ofNat_toNat_self, ho.1]
    · rw [ofNat_wrapN, sextN_toNat, sextN_toNat]
  case rem =>
    refine ⟨ofNat_ite_eq (toNat_eq_zero_iff b) (fun _ => ofNat_toNat_self a) fun hb => ofNat_ite_eq (divCond_overflow hn a hb) (fun _ => rfl) fun _ => ?_,
      divCond_iff hn a b⟩
    rw [ofNat_wrapN, sextN_toNat, sextN_toNat]

end Sys2Proof.Machine
end

section
/-! SUPPORT. The fixed-width instructions and HASH on 64-bit lanes (R115, R122). -/

namespace Sys2Proof.Machine

open Sys2Proof.Safety

/-- A fixed-width instruction has the results of the bit-vector function that its lane function computes. -/
theorem fixedResult_of_fixFire {mk : Op → Instr} (ex : Op → State → Host.Outcome State Fault Refusal) {two : Bool} {lat fmt : Nat} {fn : Nat → Nat → Nat}
    {f : Word → Word → Word} (h : ∀ a b : Word, BitVec.ofNat 64 (fn a.toNat b.toNat) = f a b)
    (hr : RunsAs mk ex fun o => fixFire two lat fmt fn (mk o) := by exact fun _ => ⟨⟨_, rfl⟩, fun _ => ⟨rfl, rfl⟩⟩) : FixedResult mk two lat fmt f := by
  intro o s v hd
  obtain ⟨hmul, hpos⟩ := laneCount_mul 64 (by decide)
  have hk := validOf_le v.wide 64 (if two then [v.a, v.b] else [v.a]) hpos
  let g := fun l => fn (laneAt v.a.bits.toNat 64 l) (laneAt v.b.bits.toNat 64 l) % 2 ^ 64
  refine ⟨laneVal v.wide 64 fmt ((List.range (validOf v.wide 64 (if two then [v.a, v.b] else [v.a]))).map g), ?_, ?_⟩
  · rw [Goes, hr.exec_eq]
    refine fire_go _ hd ?_
    simp only [lanewise_fst]
    rfl
  · refine laneVal_isLanes v.wide 64 fmt _ _ g ((Nat.mul_le_mul_left _ hk).trans hmul) (fun l _ => ?_) hk
    rw [← h, lane_toNat, lane_toNat]
    exact BitVec.eq_of_toNat_eq (by simp [g])

/-- The sign extension of the low m bits of a number. -/
theorem ofNat_signExtend (m x : Nat) : BitVec.ofNat 64 (wrapN (sextN x m) 64) = (BitVec.ofNat m x).signExtend 64 := by
  rw [ofNat_wrapN, sextN_eq_toInt]
  rfl

/-- The zero extension of the low m bits of a lane. -/
theorem ofNat_zeroExtend (m : Nat) (a : Word) : BitVec.ofNat 64 (a.toNat % 2 ^ m) = (a.setWidth m).setWidth 64 :=
  BitVec.eq_of_toNat_eq (by simp)



theorem setWidth_sub {m n : Nat} (a b : BitVec n) (h : m ≤ n) : (a - b).setWidth m = a.setWidth m - b.setWidth m := by
  rw [BitVec.sub_eq_add_neg, BitVec.setWidth_add a (-b) h, BitVec.setWidth_neg_of_le h, ← BitVec.sub_eq_add_neg]

/-- Settles O18: each lane function computes its extension of the low bits, and HASH its mixing. -/
theorem fixedWidthResults : Obligations.FixedWidthResults := by
  refine ⟨fixedResult_of_fixFire execAddw ?addw, fixedResult_of_fixFire execSubw ?subw, fixedResult_of_fixFire execMulw ?mulw,
    fixedResult_of_fixFire execSextb ?sextb, fixedResult_of_fixFire execSexth ?sexth, fixedResult_of_fixFire execSextw ?sextw,
    fixedResult_of_fixFire execZextb ?zextb, fixedResult_of_fixFire execZexth ?zexth, fixedResult_of_fixFire execZextw ?zextw,
    fixedResult_of_fixFire execHash ?hash⟩
  all_goals intro a b
  case addw => rw [ofNat_signExtend, BitVec.ofNat_add, BitVec.ofNat_toNat, BitVec.ofNat_toNat, BitVec.setWidth_add a b (by decide)]
  case subw => rw [ofNat_signExtend, ofNat_wrapN, ofInt_natCast_sub, BitVec.ofNat_toNat, BitVec.ofNat_toNat, setWidth_sub a b (by decide)]
  case mulw => rw [ofNat_signExtend, BitVec.ofNat_mul, BitVec.ofNat_toNat, BitVec.ofNat_toNat, BitVec.setWidth_mul a b (by decide)]
  case sextb => exact ofNat_signExtend 8 a.toNat
  case sexth => exact ofNat_signExtend 16 a.toNat
  case sextw => exact ofNat_signExtend 32 a.toNat
  case zextb => exact ofNat_zeroExtend 8 a
  case zexth => exact ofNat_zeroExtend 16 a
  case zextw => exact ofNat_zeroExtend 32 a
  case hash => simp only [ofNat_toNat_self]; rfl

end Sys2Proof.Machine
end

section
/-! SUPPORT. The comparisons and the selections CMOVNZ and CMOVZ (R71, R116, R117). -/

namespace Sys2Proof.Machine

open Sys2Proof.Safety

/-! ## Comparisons (R116) -/

/-- A comparison's lane is 1 where its condition holds. -/
theorem cmp_computes {n : Nat} {t : Bool} {p : Prop} [Decidable p] (h : t = true ↔ p) :
    BitVec.ofNat n (if t = true then 1 else 0) = (if p then 1 else 0) ∧ (t = true ↔ p) :=
  ⟨ofNat_ite_eq h (fun _ => rfl) fun _ => rfl, h⟩

/-- The same for a condition that is a negation. -/
theorem cmp_computes_not {n : Nat} {t : Bool} {p : Prop} [Decidable p] (h : t = true ↔ ¬ p) :
    BitVec.ofNat n (if t = true then 1 else 0) = (if p then 0 else 1) ∧ (t = true ↔ ¬ p) :=
  ⟨(cmp_computes h).1.trans (ite_not p 1 0), h⟩

theorem toNat_and_eq_zero_iff {n : Nat} (a b : BitVec n) : a.toNat &&& b.toNat = 0 ↔ a &&& b = 0 := by
  rw [← BitVec.toNat_and, toNat_eq_zero_iff]

/-! ## Selection (R117) -/

/-- Lane l of B chooses A: it is nonzero for CMOVNZ, zero for CMOVZ. -/
abbrev Env.selects (v : Env) (nz : Bool) (l : Nat) : Prop := (lane v.b (intWidth v.o.mode.val) l ≠ 0) = (nz = true)

/-- The valid lanes of a selection: those of A and B. -/
def Env.selectCount (v : Env) : Nat := validOf v.wide (intWidth v.o.mode.val) [v.a, v.b]

/-- The lane function of a selection. -/
def Env.selectLane (v : Env) (nz : Bool) (l : Nat) : Nat × Bool × Flags :=
  let n := intWidth v.o.mode.val
  let c := (laneAt v.b.bits.toNat n l != 0) == nz
  (if c then laneAt v.a.bits.toNat n l else laneAt v.old.bits.toNat n l, c, 0)

/-- The lanes that a selection writes, before they are cut to the lane of the result's code. -/
def Env.selection (v : Env) (nz : Bool) : Val :=
  let n := intWidth v.o.mode.val
  laneVal v.wide n (if isIntFmt v.a.fmt && laneBits v.a.fmt == n then v.a.fmt else v.old.fmt)
    ((List.range v.selectCount).map fun l => (v.selectLane nz l).1)

theorem Env.selectLane_cond (v : Env) (nz : Bool) (l : Nat) : (v.selectLane nz l).2.1 = true ↔ v.selects nz l := by
  rw [selectLane, beq_iff_eq, Bool.eq_iff_iff, bne_iff_ne, ← lane_toNat, Ne, toNat_eq_zero_iff, selects, eq_iff_iff]

theorem Env.selectLane_value (v : Env) (nz : Bool) (l : Nat) : BitVec.ofNat (intWidth v.o.mode.val) (v.selectLane nz l).1 =
    if v.selects nz l then lane v.a (intWidth v.o.mode.val) l else lane v.old (intWidth v.o.mode.val) l :=
  ofNat_ite_eq (v.selectLane_cond nz l) (fun _ => (lane_eq_ofNat v.a _ l).symm) fun _ => (lane_eq_ofNat v.old _ l).symm

theorem cmovSem_eq (nz : Bool) (v : Env) : cmovSem nz v =
    .go { Go.both 1 ((v.selection nz).trim v.wide) with pred := (lanewise v.selectCount (v.selectLane nz)).2.1 } := by
  rw [Env.selection, ← lanewise_fst]
  rfl

theorem intFmt_kept_iff (fmt n : Nat) : (isIntFmt fmt && laneBits fmt == n) = true ↔ 1 ≤ fmt ∧ fmt ≤ 6 ∧ laneBits fmt = n := by
  simp [isIntFmt, and_assoc]

theorem Env.selection_isLanes (v : Env) (nz : Bool) : let n := intWidth v.o.mode.val
    IsLanes v.wide n (if 1 ≤ v.a.fmt ∧ v.a.fmt ≤ 6 ∧ laneBits v.a.fmt = n then v.a.fmt else v.old.fmt) v.selectCount
      (fun l => if v.selects nz l then lane v.a n l else lane v.old n l) (v.selection nz) := by
  intro n
  obtain ⟨hmul, hpos⟩ := laneCount_mul n (by have := intWidth_cases _ v.o.mode.isLt; omega)
  have hk : v.selectCount ≤ laneCount n := validOf_le _ _ _ hpos
  rw [selection, if_congr (intFmt_kept_iff v.a.fmt n) rfl rfl]
  exact laneVal_isLanes v.wide n _ _ _ _ ((Nat.mul_le_mul_left n hk).trans hmul) (fun l _ => (v.selectLane_value nz l).symm) hk

theorem Val.trim_fields (x : Val) (wide : Bool) : (x.trim wide).fmt = x.fmt ∧ (x.trim wide).vl = x.vl ∧
    (x.trim wide).bits.toNat = x.bits.toNat % 2 ^ (if wide = true then (if laneBits x.fmt = 6 then 504 else 512) else laneBits x.fmt) :=
  ⟨rfl, rfl, by rw [Val.trim, BitVec.toNat_ofNat, Nat.mod_eq_of_lt ((Nat.mod_le _ _).trans_lt x.bits.isLt)]⟩

/-- Settles O19: each comparison decides its condition, and the selections choose lane by lane. -/
theorem compareAndSelect : Obligations.CompareAndSelect := by
  refine ⟨intResult_of_cmpFire execCeq ?ceq, intResult_of_cmpFire execCne ?cne, intResult_of_cmpFire execClt ?clt,
    intResult_of_cmpFire execCle ?cle, intResult_of_cmpFire execCltu ?cltu, intResult_of_cmpFire execCleu ?cleu,
    intResult_of_cmpFire execCtst ?ctst, ?cmov⟩
  case ceq => exact fun n hn a b old => cmp_computes (decide_eq_true_iff.trans BitVec.toNat_inj)
  case cne => exact fun n hn a b old => cmp_computes_not (decide_eq_true_iff.trans BitVec.toNat_inj.not)
  case clt => exact fun n hn a b old => cmp_computes (by rw [sextN_toNat, sextN_toNat, decide_eq_true_iff])
  case cle => exact fun n hn a b old => cmp_computes (by rw [sextN_toNat, sextN_toNat, decide_eq_true_iff])
  case cltu => exact fun n hn a b old => cmp_computes decide_eq_true_iff
  case cleu => exact fun n hn a b old => cmp_computes decide_eq_true_iff
  case ctst => exact fun n hn a b old => cmp_computes_not (decide_eq_true_iff.trans (toNat_and_eq_zero_iff a b).not)
  case cmov =>
    intro o s v nz i hd
    have hi : (∃ c, i.parts = some (c, o)) ∧ exec i s = fire (cmovSem nz) i s := by cases nz <;> exact ⟨⟨_, rfl⟩, rfl⟩
    obtain ⟨⟨c, hp⟩, hex⟩ := hi
    obtain rfl : v.o = o := op_of_decides hd hp
    obtain ⟨hfmt, hvl, hbits⟩ := (v.selection nz).trim_fields v.wide
    refine ⟨v.selection nz, (v.selection nz).trim v.wide, (lanewise v.selectCount (v.selectLane nz)).2.1, ?_, hfmt, hvl, hbits,
      v.selection_isLanes nz, ?_⟩
    · exact hex.trans (fire_go _ hd (cmovSem_eq nz v))
    · exact (lanewise_any _ _).trans (exists_congr fun l => and_congr_right fun _ => v.selectLane_cond nz l)

end Sys2Proof.Machine
end

section
/-! SUPPORT. Shifts and rotates, the counts of bits and their reorderings (R118, R119). -/

namespace Sys2Proof.Machine

open Sys2Proof.Safety

/-! ## Shifts and rotates (R118) -/

theorem ofNat_shiftLeft {n : Nat} (a : BitVec n) (c : Nat) : BitVec.ofNat n (a.toNat * 2 ^ c) = a <<< c := by
  apply BitVec.eq_of_toNat_eq
  rw [BitVec.toNat_ofNat, BitVec.toNat_shiftLeft, Nat.shiftLeft_eq]

theorem ofNat_shiftRight {n : Nat} (a : BitVec n) (c : Nat) : BitVec.ofNat n (a.toNat / 2 ^ c) = a >>> c := by
  rw [← Nat.shiftRight_eq_div_pow, ← BitVec.toNat_ushiftRight, ofNat_toNat_self]

theorem ofNat_sshiftRight {n : Nat} (a : BitVec n) (c : Nat) : BitVec.ofNat n (wrapN (sextN a.toNat n / (2 ^ c : Nat)) n) = a.sshiftRight c := by
  rw [ofNat_wrapN, sextN_toNat, BitVec.sshiftRight, Int.shiftRight_eq_div_pow]

theorem ofNat_rotateLeft {n : Nat} (a : BitVec n) (c : Nat) :
    BitVec.ofNat n (a.toNat * 2 ^ (c % n) % 2 ^ n ||| a.toNat / 2 ^ (n - c % n)) = a.rotateLeft (c % n) := by
  rw [← Nat.shiftLeft_eq, ← Nat.shiftRight_eq_div_pow, ← BitVec.toNat_rotateLeft, ofNat_toNat_self, BitVec.rotateLeft_mod_eq_rotateLeft]

theorem ofNat_rotateRight {n : Nat} (a : BitVec n) (c : Nat) :
    BitVec.ofNat n (a.toNat / 2 ^ (c % n) ||| a.toNat * 2 ^ (n - c % n) % 2 ^ n) = a.rotateRight (c % n) := by
  rw [← Nat.shiftLeft_eq, ← Nat.shiftRight_eq_div_pow, ← BitVec.toNat_rotateRight, ofNat_toNat_self, BitVec.rotateRight_mod_eq_rotateRight]

/-! ## Bits in reverse order and counts of bits (R119) -/

theorem testBit_eq_laneAt (x i : Nat) : x.testBit i = decide (laneAt x 1 i = 1) := by
  rw [Nat.testBit_eq_decide_div_mod_eq, laneAt, Nat.shiftRight_eq_div_pow, Nat.one_mul, Nat.pow_one]

/-- Lane j of lanes packed by their number. -/
theorem laneAt_packLanes_range (w k : Nat) (g : Nat → Nat) {j : Nat} (hj : j < k) : laneAt (packLanes w ((List.range k).map g)) w j = g j % 2 ^ w := by
  rw [laneAt_packLanes]
  simp [List.getD, hj]

theorem testBit_revBits {n i : Nat} (x : Nat) (hi : i < n) : (revBits n x).testBit i = x.testBit (n - 1 - i) := by
  have h : laneAt (revBits n x) 1 i = laneAt x 1 (n - 1 - i) :=
    (laneAt_packLanes_range 1 n _ hi).trans (Nat.mod_eq_of_lt (laneAt_lt _ _ _))
  rw [testBit_eq_laneAt, testBit_eq_laneAt, h]

theorem ofNat_revBits {n : Nat} (a : BitVec n) : BitVec.ofNat n (revBits n a.toNat) = a.reverse := by
  apply BitVec.eq_of_getLsbD_eq
  intro i hi
  rw [BitVec.getLsbD_ofNat, testBit_revBits _ hi, BitVec.getLsbD_reverse, BitVec.getMsbD_eq_getLsbD, BitVec.testBit_toNat]

theorem revBits_toNat {n : Nat} (a : BitVec n) : revBits n a.toNat = a.reverse.toNat := by
  have hlt : revBits n a.toNat < 2 ^ n := by simpa [revBits] using packLanes_lt 1 ((List.range n).map fun j => laneAt a.toNat 1 (n - 1 - j))
  rw [← ofNat_revBits, toNat_ofNat_lt hlt]

/-- The zeros below the lowest 1 are those that the library counts. -/
theorem ofNat_trailing {n : Nat} (a : BitVec n) : BitVec.ofNat n (trailing n a.toNat) = a.ctz := by
  by_cases ha : a = 0
  · have h : (0 : BitVec n).reverse = 0 := BitVec.reverse_eq_zero_iff.mpr rfl
    have hnone : (List.range n).find? (fun j => bit (0 : BitVec n).toNat j) = none := List.find?_range_eq_none.mpr fun i _ => by simp [bit]
    rw [ha, trailing, hnone, BitVec.ctz_eq_reverse_clz, BitVec.clz_eq_iff_eq_zero.mpr h]
    rfl
  · have hlt : a.ctz.toNat < n := by
      have h := BitVec.ctz_lt_iff_ne_zero.mpr ha
      rwa [BitVec.lt_def, BitVec.natCast_eq_ofNat, toNat_ofNat_lt Nat.lt_two_pow_self] at h
    have hsome : (List.range n).find? (fun j => bit a.toNat j) = some a.ctz.toNat := by
      refine List.find?_range_eq_some.mpr ⟨BitVec.getLsbD_true_ctz_of_ne_zero ha, List.mem_range.mpr hlt, fun j hj => ?_⟩
      rw [bit, BitVec.testBit_toNat, BitVec.getLsbD_false_of_lt_ctz hj]
      rfl
    rw [trailing, hsome]
    exact ofNat_toNat_self _

theorem ofNat_leading {n : Nat} (a : BitVec n) : BitVec.ofNat n (trailing n (revBits n a.toNat)) = a.clz := by
  rw [revBits_toNat, ofNat_trailing, ← BitVec.clz_eq_reverse_ctz]

theorem cpopNatRec_eq_length {n : Nat} (a : BitVec n) (m acc : Nat) :
    a.cpopNatRec m acc = ((List.range m).filter fun j => bit a.toNat j).length + acc := by
  induction m generalizing acc with
  | zero => simp
  | succ m ih =>
    rw [BitVec.cpopNatRec_succ, ih, List.range_succ, List.filter_append, List.length_append, ← BitVec.testBit_toNat]
    cases h : a.toNat.testBit m
    · simp [bit, h]
    · simp [bit, h]
      omega

theorem ofNat_popc {n : Nat} (a : BitVec n) : BitVec.ofNat n ((List.range n).filter fun j => bit a.toNat j).length = a.cpop := by
  rw [BitVec.cpop, cpopNatRec_eq_length, Nat.add_zero]

/-! ## Bytes in reverse order (R119) -/

/-- Byte j of a lane of whole bytes in reverse order is byte n/8 - 1 - j. -/
theorem revBytes_byte {n j : Nat} (hn : n = 64 ∨ n = 32 ∨ n = 16 ∨ n = 8) (a : BitVec n) (hj : j < n / 8) :
    (BitVec.ofNat n (revBytes n a.toNat)).extractLsb' (8 * j) 8 = a.extractLsb' (n - 8 - 8 * j) 8 := by
  have hbytes : 8 * (n / 8) = n := by omega
  have hlt : revBytes n a.toNat < 2 ^ n := by
    have h := packLanes_lt 8 ((List.range (n / 8)).map fun j => laneAt a.toNat 8 (n / 8 - 1 - j))
    rwa [List.length_map, List.length_range, hbytes] at h
  apply BitVec.eq_of_toNat_eq
  rw [BitVec.extractLsb'_toNat, BitVec.extractLsb'_toNat, toNat_ofNat_lt hlt]
  refine (laneAt_packLanes_range 8 (n / 8) _ hj).trans ((Nat.mod_eq_of_lt (laneAt_lt _ _ _)).trans ?_)
  rw [laneAt, show 8 * (n / 8 - 1 - j) = n - 8 - 8 * j by omega]

theorem bswap_result : IntResult .bswap false (fun _ => 1) (fun n a _ _ => BitVec.ofNat n (revBytes n a.toNat)) (fun _ a _ => a = 0) :=
  intResult_of_intFire1 execBswap fun _ _ a _ _ => ⟨rfl, isZero_iff a⟩

/-- Settles O20: each lane function computes its shift, count or reordering; BSWAP byte by byte. -/
theorem shiftsAndCounts : Obligations.ShiftsAndCounts := by
  refine ⟨intResult_of_intFire execShl ?shl, intResult_of_intFire execShr ?shr, intResult_of_intFire execSar ?sar, intResult_of_intFire execRol ?rol,
    intResult_of_intFire execRor ?ror, intResult_of_intFire1 execClz ?clz, intResult_of_intFire1 execCtz ?ctz, intResult_of_intFire1 execPopc ?popc,
    intResult_of_intFire1 execBrev ?brev, ?bswap⟩
  case shl => exact fun n _ a b _ => ⟨ofNat_shiftLeft a _, noCondition⟩
  case shr => exact fun n _ a b _ => ⟨ofNat_shiftRight a _, noCondition⟩
  case sar => exact fun n _ a b _ => ⟨ofNat_sshiftRight a _, noCondition⟩
  case rol => exact fun n _ a b _ => ⟨ofNat_rotateLeft a _, noCondition⟩
  case ror => exact fun n _ a b _ => ⟨ofNat_rotateRight a _, noCondition⟩
  case clz => exact fun n _ a _ _ => ⟨ofNat_leading a, isZero_iff a⟩
  case ctz => exact fun n _ a _ _ => ⟨ofNat_trailing a, isZero_iff a⟩
  case popc => exact fun n _ a _ _ => ⟨ofNat_popc a, isZero_iff a⟩
  case brev => exact fun n _ a _ _ => ⟨ofNat_revBits a, isZero_iff a⟩
  case bswap =>
    intro o s v hd n k
    obtain ⟨r, p, hgo, ⟨hlanes, hlt, hfmt, hvl⟩, hp⟩ := bswap_result o s v hd
    refine ⟨r, p, hgo, hlt, hfmt, hvl, fun l hl j hj => ?_, hp⟩
    rw [hlanes l hl]
    exact revBytes_byte (intWidth_cases _ o.mode.isLt) _ hj

end Sys2Proof.Machine
end

section
/-! SUPPORT. Bit fields and LEA (R120, R121). -/

namespace Sys2Proof.Machine

open Sys2Proof.Safety

/-! ## Bit fields (R120) -/

/-- The field that b describes: none where it is empty. -/
theorem fieldOf_eq (n b : Nat) : fieldOf n b =
    if b / 2 ^ 8 % 128 = 0 ∨ n ≤ b % 64 then none else some (b % 64, min (b / 2 ^ 8 % 128) (n - b % 64), b.testBit 15) := by
  rw [fieldOf, bits, Nat.shiftRight_eq_div_pow]
  rfl

/-- A field taken out of a lane, extended by its sign or by zeros. -/
theorem extract_computes {n : Nat} (a : BitVec n) (pos w : Nat) (sx : Bool) :
    BitVec.ofNat n (if sx = true then wrapN (sextN (a.toNat / 2 ^ pos % 2 ^ w) w) n else a.toNat / 2 ^ pos % 2 ^ w) =
      if sx = true then (a.extractLsb' pos w).signExtend n else (a.extractLsb' pos w).setWidth n := by
  have hf : a.toNat / 2 ^ pos % 2 ^ w = (a.extractLsb' pos w).toNat := by rw [BitVec.extractLsb'_toNat, Nat.shiftRight_eq_div_pow]
  rw [hf, sextN_toNat]
  exact ofNat_ite_eq Iff.rfl (fun _ => ofNat_wrapN n _) fun _ => BitVec.ofNat_toNat n _

/-- The bits of a field of w bits at position pos in a lane. -/
def fieldMask (n pos w : Nat) : BitVec n := ((BitVec.allOnes w).setWidth n) <<< pos

theorem fieldMask_toNat {n pos w : Nat} (h : pos + w ≤ n) : (fieldMask n pos w).toNat = (2 ^ w - 1) * 2 ^ pos := by
  have hw : 2 ^ w - 1 < 2 ^ n := (Nat.sub_lt (Nat.two_pow_pos w) one_pos).trans_le (Nat.pow_le_pow_right two_pos (by omega))
  have hm : (2 ^ w - 1) * 2 ^ pos < 2 ^ n := calc
    (2 ^ w - 1) * 2 ^ pos < 2 ^ w * 2 ^ pos := Nat.mul_lt_mul_of_pos_right (Nat.sub_lt (Nat.two_pow_pos w) one_pos) (Nat.two_pow_pos pos)
    _ = 2 ^ (pos + w) := by rw [← Nat.pow_add, Nat.add_comm]
    _ ≤ 2 ^ n := Nat.pow_le_pow_right two_pos h
  rw [fieldMask, BitVec.toNat_shiftLeft, BitVec.toNat_setWidth, BitVec.toNat_allOnes, Nat.mod_eq_of_lt hw, Nat.shiftLeft_eq, Nat.mod_eq_of_lt hm]

/-- A field put into a lane leaves the lane's other bits. -/
theorem insert_computes {n pos w : Nat} (a old : BitVec n) (h : pos + w ≤ n) :
    BitVec.ofNat n ((old.toNat &&& (2 ^ n - 1 - (2 ^ w - 1) * 2 ^ pos)) ||| (a.toNat * 2 ^ pos &&& (2 ^ w - 1) * 2 ^ pos)) =
      (old &&& ~~~fieldMask n pos w) ||| ((a <<< pos) &&& fieldMask n pos w) := by
  rw [← fieldMask_toNat h, BitVec.ofNat_or, BitVec.ofNat_and, BitVec.ofNat_and, ofNat_complement, ofNat_shiftLeft, ofNat_toNat_self, ofNat_toNat_self]

/-! ## LEA (R121) -/

/-- The low bits of a value are its lane 0. -/
theorem Val.n64_mod (x : Val) {n : Nat} (h : n ≤ 64) : x.n64 % 2 ^ n = (lane x n 0).toNat := by
  rw [lane_toNat, laneAt, Nat.mul_zero, Nat.shiftRight_zero, Val.n64, Val.w64, BitVec.toNat_setWidth, Nat.mod_mod_of_dvd _ (Nat.pow_dvd_pow 2 h)]

/-- One lane in a narrow element. -/
theorem laneVal_narrow_toNat {w y : Nat} (fmt : Nat) (hw : w ≤ 512) (hy : y < 2 ^ w) : (laneVal false w fmt [y]).bits.toNat = y := by
  have hlt : ∀ m, w ≤ m → (BitVec.ofNat m y).toNat = y := fun m hm => toNat_ofNat_lt (hy.trans_le (Nat.pow_le_pow_right two_pos hm))
  rw [laneVal, packLanes, packLanes, Nat.mul_zero, Nat.add_zero, Nat.mod_eq_of_lt hy, hlt 512 hw]

theorem exec_lea (o : Op) (s : State) : exec (.lea o) s = fire (fun v =>
    let n := intWidth v.o.mode.val
    let x := v.a.n64 % 2 ^ n + v.b.n64 % 2 ^ n * 2 ^ v.o.tact.val
    .go { Go.both 1 (laneVal v.wide 64 6 [x % 2 ^ n]) with pred := decide (2 ^ n ≤ x) }) (.lea o) s := rfl

theorem lea_goes {o : Op} {s : State} {v : Env} (h : Decides (.lea o) s v) (hw : v.wide = false) :
    let n := intWidth o.mode.val
    let x := (lane v.a n 0).toNat + (lane v.b n 0).toNat * 2 ^ o.tact.val
    Goes (.lea o) s v { d1 := some (laneVal false 64 6 [x % 2 ^ n]), d2 := some (laneVal false 64 6 [x % 2 ^ n]), pred := decide (2 ^ n ≤ x) } := by
  intro n x
  have hn : n ≤ 64 := by have := intWidth_cases _ o.mode.isLt; omega
  rw [Goes, exec_lea]
  refine fire_go _ h ?_
  rw [op_of_decides h rfl, hw]
  simp only [Val.n64_mod _ hn, n, x, Go.both]

/-- Settles O21: a bit field is taken out or put in where it is not empty, and LEA's address is its sum. -/
theorem fieldsAndAddresses : Obligations.FieldsAndAddresses := by
  refine ⟨intResult_of_intFire execBfx ?bfx, intResult_of_intSem execBfi ?bfi, ?lea⟩
  case bfx =>
    intro n _ a b _
    dsimp only
    rw [fieldOf_eq]
    by_cases h : b.toNat / 2 ^ 8 % 128 = 0 ∨ n ≤ b.toNat % 64
    · rw [if_pos h, if_pos h]
      exact ⟨rfl, noCondition⟩
    · rw [if_neg h, if_neg h]
      exact ⟨extract_computes a _ _ _, noCondition⟩
  case bfi =>
    intro n _ a b old
    dsimp only
    rw [fieldOf_eq]
    by_cases h : b.toNat / 2 ^ 8 % 128 = 0 ∨ n ≤ b.toNat % 64
    · rw [if_pos h, if_pos h]
      exact ⟨ofNat_toNat_self old, noCondition⟩
    · rw [if_neg h, if_neg h]
      obtain ⟨-, hpos⟩ := not_or.mp h
      exact ⟨insert_computes a old (by omega), noCondition⟩
  case lea =>
    intro o s v h hw _ n x
    have hx : x % 2 ^ n < 2 ^ 64 := (Nat.mod_lt _ (Nat.two_pow_pos n)).trans_le
      (Nat.pow_le_pow_right two_pos (by have := intWidth_cases _ o.mode.isLt; omega))
    exact ⟨_, lea_goes h hw, laneVal_narrow_toNat 6 (by decide) hx, rfl, rfl⟩

end Sys2Proof.Machine
end

section
/-! SUPPORT. The stream and token instructions (R104 to R110, R112): values that a fire moves, scalar results, the loop counters. -/

namespace Sys2Proof.Machine

open Sys2Proof.Safety

/-! ## Fires of one step -/

section

variable {i : Instr} {s : State} {v : Env} {sem : Env → Dec} (out : Host.Outcome State Fault Refusal)

/-- A decided fire whose instruction is dispatched to `out` goes as its meaning says. -/
theorem goes_of_fire {g : Go} (h : Decides i s v) (hd : exec i s = out) (hf : out = fire sem i s) (hg : sem v = .go g) : Goes i s v g := by
  rw [Goes, hd, hf]
  exact fire_go _ h hg

theorem traps_of_fire {t : Trap} {d l a : Nat} (h : Decides i s v) (hd : exec i s = out) (hf : out = fire sem i s) (hg : sem v = .trap t d l a) :
    Traps i s v t d l a := by
  rw [Traps, hd, hf]
  exact fire_trap _ h hg

end

/-! ## Moves (R71, R72, R104) -/

theorem Val.clean_isMoved (x : Val) (wide : Bool) : IsMoved wide x (x.clean wide) := by
  refine ⟨rfl, rfl, ?_⟩
  rw [Val.clean, BitVec.toNat_ofNat, Nat.mod_eq_of_lt ((Nat.mod_le _ _).trans_lt x.bits.isLt)]
  rfl

theorem nonzero_of_ne {b : Val} (h : b.bits ≠ 0) : nonzero b = true := bne_iff_ne.mpr h
theorem nonzero_of_eq {b : Val} (h : b.bits = 0) : nonzero b = false := bne_eq_false_iff_eq.mpr h

theorem gate_goes {o : Op} {s : State} {v : Env} {t : Bool} (h : Decides (.gate o) s v) (hb : nonzero v.b = t) :
    Goes (.gate o) s v { d1 := if t then some v.moved else none, pred := t } :=
  hb ▸ goes_of_fire (execGate o s) h rfl rfl rfl

theorem steer_goes {o : Op} {s : State} {v : Env} {t : Bool} (h : Decides (.steer o) s v) (hb : nonzero v.b = t) :
    Goes (.steer o) s v { d1 := if t then some v.moved else none, d2 := if t then none else some v.moved, pred := t } :=
  hb ▸ goes_of_fire (execSteer o s) h rfl rfl rfl

theorem Val.n64_eq_mod (x : Val) : x.n64 = x.bits.toNat % 2 ^ 64 := BitVec.toNat_setWidth ..

theorem Val.n64_mod_eight (x : Val) : x.n64 % 8 = x.bits.toNat % 8 := by rw [x.n64_eq_mod, Nat.mod_mod_of_dvd _ (by norm_num)]

/-- RETAG emits A under the tag that B names, unless that is MARK (R107). -/
def retagSem (v : Env) : Dec :=
  if v.b.n64 % 8 = 4 then .trap .badTag 0 0 0 else .go { Go.both 1 v.moved with tag := some (v.b.n64 % 8) }

theorem exec_retag (o : Op) (s : State) : exec (.retag o) s = fire retagSem (.retag o) s := rfl

/-- Settles O12: each move by the meaning of its instruction. -/
theorem streamMoves : Obligations.StreamMoves := by
  intro o s v
  refine ⟨fun h => goes_of_fire (execNop o s) h rfl rfl rfl, v.moved, v.movedB, v.a.clean_isMoved v.wide, v.b.clean_isMoved v.wide,
    fun h => goes_of_fire (execPass o s) h rfl rfl rfl, fun h => goes_of_fire (execDup o s) h rfl rfl rfl,
    fun h => goes_of_fire (execSwap o s) h rfl rfl rfl, fun h hb => gate_goes (t := true) h (nonzero_of_ne hb),
    fun h hb => gate_goes (t := false) h (nonzero_of_eq hb), fun h hb => steer_goes (t := true) h (nonzero_of_ne hb),
    fun h hb => steer_goes (t := false) h (nonzero_of_eq hb),
    fun h ht => ?retag, fun h ht => ?mark⟩
  case retag =>
    refine goes_of_fire _ h rfl (exec_retag o s) ?_
    rw [retagSem, v.b.n64_mod_eight, if_neg ht]
    rfl
  case mark =>
    refine traps_of_fire _ h rfl (exec_retag o s) ?_
    rw [retagSem, v.b.n64_mod_eight, if_pos ht]

/-! ## Scalars (R108, R112) -/

theorem Val.n64_eq_lane (x : Val) : x.n64 = (lane x 64 0).toNat := by
  rw [← x.n64_mod le_rfl]
  exact (Nat.mod_eq_of_lt x.w64.isLt).symm

theorem scalarVal_isScalar_of_eq (wide : Bool) (fmt : Nat) {x : Nat} {y : Word} (h : BitVec.ofNat 64 x = y) : IsScalar wide fmt y (scalarVal wide fmt x) :=
  h ▸ scalarVal_isScalar wide fmt x

/-- What a loop step of ITER or ITERS does: the next counter n, or 0 at the bound, the present one, and the tag under action 11. -/
theorem iterGo_spec {v : Env} {o : Op} (ho : v.o = o) {next cur : Nat} {reached : Bool} {n c : Word} (hn : BitVec.ofNat 64 next = n)
    (hc : BitVec.ofNat 64 cur = c) :
    ∃ x y, IsScalar v.wide 5 (if reached then 0 else n) x ∧ IsScalar v.wide 5 c y ∧ iterGo v next cur reached =
      { d1 := some x, d2 := some y, pred := reached, tag := if o.tact = 11 then some (if reached then 1 else 0) else none } := by
  refine ⟨_, _, scalarVal_isScalar_of_eq _ _ (ofNat_ite_eq Iff.rfl (fun _ => rfl) fun _ => hn), scalarVal_isScalar_of_eq _ _ hc, ?_⟩
  rw [iterGo, ho]
  simp only [Fin.ext_iff]
  rfl

/-- The bound of ITERS is reached: its step is zero, or the next counter has met the bound in the direction of the step (R108). -/
def reachedBy (step lim next : Int) : Bool := decide (step = 0 ∨ (0 < step ∧ lim ≤ next) ∨ (step < 0 ∧ next ≤ lim))

/-- ITERS as its step and bound, the signed halves of B, and its counter A make it. -/
def itersGo (v : Env) (step lim cur : Int) : Go := iterGo v (wrapN (cur + step) 64) v.a.n64 (reachedBy step lim (cur + step))

theorem iters_goes {o : Op} {s : State} {v : Env} (h : Decides (.iters o) s v) :
    Goes (.iters o) s v (itersGo v ((lane v.b 64 0).extractLsb' 32 32).toInt ((lane v.b 64 0).extractLsb' 0 32).toInt (lane v.a 64 0).toInt) := by
  refine goes_of_fire (execIters o s) h rfl rfl (congrArg Dec.go ?_)
  have hstep : sextN (bits v.b.n64 63 32) 32 = ((lane v.b 64 0).extractLsb' 32 32).toInt := by
    rw [v.b.n64_eq_lane, ← sextN_toNat, BitVec.extractLsb'_toNat]
    rfl
  have hlim : sextN v.b.n64 32 = ((lane v.b 64 0).extractLsb' 0 32).toInt := by
    rw [v.b.n64_eq_lane, sextN_eq_toInt]
    rfl
  have hcur : sextN v.a.n64 64 = (lane v.a 64 0).toInt := by rw [v.a.n64_eq_lane, sextN_toNat]
  rw [hstep, hlim, hcur, itersGo, reachedBy]
  simp only [Bool.decide_or, Bool.decide_and, Bool.or_assoc]

/-- Settles O13: each counter's step on the numbers of A and B. -/
theorem countsLoops : Obligations.CountsLoops := by
  intro o s v a b tag
  constructor
  · intro h reached
    have hnext : BitVec.ofNat 64 (a.toNat + 1) = a + 1 := by rw [BitVec.ofNat_add, ofNat_toNat_self]; rfl
    obtain ⟨n, c, hn, hc, hgo⟩ := iterGo_spec (v := v) (reached := reached) (op_of_decides h rfl) hnext (ofNat_toNat_self a)
    refine ⟨n, c, hn, hc, goes_of_fire (execIter o s) h rfl rfl ?_⟩
    rw [Val.n64_eq_lane, Val.n64_eq_lane]
    exact congrArg Dec.go hgo
  · intro h step lim reached
    have hnext : BitVec.ofNat 64 (wrapN (a.toInt + step) 64) = a + (b.extractLsb' 32 32).signExtend 64 := by
      rw [ofNat_wrapN, BitVec.ofInt_add, BitVec.ofInt_toInt]
      rfl
    have hcur : BitVec.ofNat 64 v.a.n64 = a := by rw [Val.n64_eq_lane, ofNat_toNat_self]
    obtain ⟨n, c, hn, hc, hgo⟩ := iterGo_spec (v := v) (reached := reached) (op_of_decides h rfl) hnext hcur
    exact ⟨n, c, hn, hc, hgo ▸ iters_goes h⟩

/-! ## WAVE, TAGOF, OCC and EBB (R106, R109, R110, R112) -/

theorem intFmt_wide (fmt : Nat) : intFmt fmt 64 = if fmt = 6 then 6 else 5 := by
  by_cases h : 1 ≤ fmt ∧ fmt ≤ 6
  · obtain ⟨hlo, hhi⟩ := h
    interval_cases fmt <;> rfl
  · rw [intFmt, if_neg (fun hk => h ⟨((intFmt_kept_iff fmt 64).mp hk).1, ((intFmt_kept_iff fmt 64).mp hk).2.1⟩), if_pos rfl, if_neg (by omega)]

/-- The new value of WV: the low 16 bits of a sum (R109). -/
theorem wave_toNat (a b : Val) : (a.n64 + b.n64) % 2 ^ 16 = ((lane a 64 0 + lane b 64 0).setWidth 16).toNat := by
  rw [a.n64_eq_lane, b.n64_eq_lane, BitVec.toNat_setWidth, BitVec.toNat_add, Nat.mod_mod_of_dvd _ (Nat.pow_dvd_pow 2 (by decide))]

/-- What WAVE does, with w as the new value of WV. -/
def waveGo (v : Env) (w : Nat) : Go := { d1 := some (scalarVal v.wide (intFmt v.a.fmt 64) w), wv := some (BitVec.ofNat 16 w) }

theorem wave_goes {o : Op} {s : State} {v : Env} (h : Decides (.wave o) s v) :
    Goes (.wave o) s v (waveGo v ((lane v.a 64 0 + lane v.b 64 0).setWidth 16).toNat) :=
  wave_toNat v.a v.b ▸ goes_of_fire (execWave o s) h rfl rfl rfl

/-- What TAGOF does under the tag k of A's head. -/
def tagofGo (v : Env) (k : Nat) : Go := { Go.both 1 (scalarVal v.wide 5 k) with pred := k == 1 || k == 2 }

theorem tagof_goes {o : Op} {s : State} {v : Env} {k : Nat} (h : Decides (.tagof o) s v) (hk : v.aTag = some k) : Goes (.tagof o) s v (tagofGo v k) := by
  have ht : v.aTag.getD 0 = k := by rw [hk]; rfl
  exact ht ▸ goes_of_fire (execTagof o s) h rfl rfl rfl

/-- What OCC does with an occupancy word. -/
def occGo (v : Env) (n : Nat) : Go := { Go.both 1 (scalarVal v.wide 6 n) with pred := n % 2 ^ 12 != 0 }

theorem occ_goes {o : Op} {s : State} {v : Env} (h : Decides (.occ o) s v) : Goes (.occ o) s v (occGo v ((s.elem v.e).occupancy s.tick)) := by
  obtain ⟨hs, -, -, -, -, -, -, hx, -⟩ := State.env_fields h.1
  rw [← hx, ← hs]
  exact goes_of_fire (execOcc o v.s) (hs ▸ h) rfl rfl rfl

/-- Settles O14: each by the meaning of its instruction. -/
theorem wavesTagsOccupancy : Obligations.WavesTagsOccupancy := by
  intro o s v
  refine ⟨fun h => ?wave, fun h k hk _ => ?tagof, fun h => ?occ, fun h => goes_of_fire (execEbb o s) h rfl rfl rfl⟩
  case wave =>
    refine ⟨_, scalarVal_isScalar_of_eq v.wide _ (BitVec.ofNat_toNat 64 _), ?_⟩
    have hgo := wave_goes h
    rw [waveGo, intFmt_wide, ofNat_toNat_self] at hgo
    exact hgo
  case tagof =>
    refine ⟨_, scalarVal_isScalar v.wide 5 k, ?_⟩
    have hgo := tagof_goes h hk
    have hp : (k == 1 || k == 2) = decide (k = 1 ∨ k = 2) := by rw [beq_eq_decide, beq_eq_decide, Bool.decide_or]
    rw [tagofGo, hp] at hgo
    exact hgo
  case occ =>
    refine ⟨_, scalarVal_isScalar v.wide 6 _, ?_⟩
    have hgo := occ_goes h
    rw [occGo, bne, beq_eq_decide, ← decide_not] at hgo
    exact hgo

end Sys2Proof.Machine
end

section
/-! SUPPORT. The float instructions lane by lane (R124 to R137): what a float fire does with the lanes of its sources, and where it traps. -/

namespace Sys2Proof.Machine

open Sys2Proof.Safety

/-! ## Float fires (R124, R125) -/

theorem isIeee_iff (fmt : Nat) : isIeee fmt = true ↔ fmt ∈ [7, 8, 9] := by
  simp only [isIeee, Bool.and_eq_true, decide_eq_true_eq, List.mem_cons, List.not_mem_nil, or_false]
  omega

theorem codeOk_iff (fmt : Nat) (x : Val) : codeOk fmt x = true ↔ Carries fmt x := by simp [codeOk, Carries]

/-- The sources of a float fire have codes that it takes (R124): `two` and `three` say that B and the old value of DST1 are sources. -/
def FloatSources (two three : Bool) (v : Env) : Prop :=
  v.xfmt ∈ [7, 8, 9] ∧ Carries v.xfmt v.a ∧ (two = true → Carries v.xfmt v.b) ∧ (three = true → Carries v.xfmt v.old)

/-- The valid lanes of a float fire. -/
def Env.floatCount (v : Env) (two : Bool) : Nat := validOf v.wide (laneBits v.xfmt) (if two then [v.a, v.b] else [v.a])

/-- Lane l of a float fire: its result, condition and flags. -/
def Env.floatLane (v : Env) (g : Rm → Nat → Nat → Nat → Nat → Nat × Bool × Flags) (l : Nat) : Nat × Bool × Flags :=
  let w := laneBits v.xfmt
  g v.rm v.xfmt (lane v.a w l).toNat (lane v.b w l).toNat (lane v.old w l).toNat

section

variable {two three : Bool} {v : Env} (lat : Nat) (out : Nat → Nat) (g : Rm → Nat → Nat → Nat → Nat → Nat × Bool × Flags)

/-- The test by which a float fire refuses its sources. -/
theorem floatGuard_iff : (!isIeee v.xfmt || !codeOk v.xfmt v.a || (two && !codeOk v.xfmt v.b) || (three && !codeOk v.xfmt v.old)) = true ↔
    ¬ FloatSources two three v := by
  rw [FloatSources, ← isIeee_iff, ← codeOk_iff, ← codeOk_iff, ← codeOk_iff]
  cases two <;> cases three <;> simp [or_assoc, imp_iff_not_or]

theorem floatSem_trap (h : ¬ FloatSources two three v) : floatSem two three lat out g v = .trap .badFormat 0 0 0 :=
  if_pos (floatGuard_iff.mpr h)

/-- The value that a float fire writes. -/
def Env.floatVal (v : Env) (two : Bool) : Val :=
  laneVal v.wide (laneBits v.xfmt) (out v.xfmt) ((List.range (v.floatCount two)).map fun l => (v.floatLane g l).1)

theorem floatSem_go (h : FloatSources two three v) : floatSem two three lat out g v =
    .go { lat := lat, d1 := some (v.floatVal out g two), d2 := some (v.floatVal out g two)
          pred := (lanewise (v.floatCount two) (v.floatLane g)).2.1, flags := flagsOver (v.floatCount two) fun l => (v.floatLane g l).2.2 } := by
  refine (if_neg (floatGuard_iff.not.mpr (not_not.mpr h))).trans ?_
  rw [Env.floatVal, ← lanewise_fst, ← lanewise_flags]
  rfl

theorem Env.floatVal_isLanes (v : Env) (two : Bool) : IsLanes v.wide (laneBits v.xfmt) (out v.xfmt) (v.floatCount two)
    (fun l => BitVec.ofNat (laneBits v.xfmt) (v.floatLane g l).1) (v.floatVal out g two) := by
  obtain ⟨hmul, hpos⟩ := laneCount_mul _ (laneBits_cases v.xfmt)
  have hk : v.floatCount two ≤ laneCount (laneBits v.xfmt) := validOf_le _ _ _ hpos
  exact laneVal_isLanes v.wide _ _ _ _ _ ((Nat.mul_le_mul_left _ hk).trans hmul) (fun _ _ => rfl) hk

end

/-- A lane function with its condition gives `f`, and its condition is `c`. -/
def FloatComputes (g : Rm → Nat → Nat → Nat → Nat → Nat × Bool × Flags) (f : Rm → Nat → Nat → Nat → Nat → Nat × Flags) (c : Nat → Nat → Nat → Prop) : Prop :=
  ∀ rm fmt a b old, ((g rm fmt a b old).1, (g rm fmt a b old).2.2) = f rm fmt a b old ∧ ((g rm fmt a b old).2.1 = true ↔ c fmt a b)

section

variable {mk : Op → Instr} {two three : Bool} {lat : Nat} {out : Nat → Nat} (ex : Op → State → Host.Outcome State Fault Refusal)

/-- A float instruction has the results of what its lane function computes. -/
theorem floatResult_of_floatSem {g : Rm → Nat → Nat → Nat → Nat → Nat × Bool × Flags} {f : Rm → Nat → Nat → Nat → Nat → Nat × Flags}
    {c : Nat → Nat → Nat → Prop} (hg : FloatComputes g f c)
    (hr : RunsAs mk ex fun o => fire (floatSem two three lat out g) (mk o) := by exact fun _ => ⟨⟨_, rfl⟩, fun _ => ⟨rfl, rfl⟩⟩) :
    FloatResult mk two three lat out f c := by
  intro o s v h fmt w k at_ good
  obtain ⟨code, hcode⟩ := (hr o).1
  have hfmt : v.xfmt = fmt := by rw [Env.xfmt, op_of_decides h hcode]
  have hgood : FloatSources two three v ↔ good := by rw [FloatSources, hfmt]
  have hk : v.floatCount two = k := by rw [Env.floatCount, hfmt]
  have hat : ∀ l, ((v.floatLane g l).1, (v.floatLane g l).2.2) = at_ l ∧
      ((v.floatLane g l).2.1 = true ↔ c fmt (lane v.a w l).toNat (lane v.b w l).toNat) := by
    intro l
    have hlane : v.floatLane g l = g v.rm fmt (lane v.a w l).toNat (lane v.b w l).toNat (lane v.old w l).toNat := by rw [Env.floatLane, hfmt]
    rw [hlane]
    exact hg _ _ _ _ _
  refine ⟨fun hok => ⟨v.floatVal out g two, (lanewise k (v.floatLane g)).2.1, ?_, ?_, ?_⟩, fun hbad => ?_⟩
  · rw [Goes, hr.exec_eq]
    refine fire_go _ h ((floatSem_go lat out g (hgood.mpr hok)).trans ?_)
    simp only [hk, ← (hat _).1]
  · have hl := v.floatVal_isLanes out g two
    rw [hk, hfmt] at hl
    simp only [← (hat _).1]
    exact hl
  · rw [lanewise_any]
    simp only [(hat _).2]
  · rw [Traps, hr.exec_eq]
    exact fire_trap _ h (floatSem_trap lat out g (hgood.not.mpr hbad))

theorem floatResult_of_floatFire {f : Rm → Nat → Nat → Nat → Nat × Flags}
    (hr : RunsAs mk ex fun o => floatFire lat f (mk o) := by exact fun _ => ⟨⟨_, rfl⟩, fun _ => ⟨rfl, rfl⟩⟩) :
    FloatResult mk true false lat id (fun rm fmt a b _ => f rm fmt a b) (fun _ _ _ => False) :=
  floatResult_of_floatSem ex (fun _ _ _ _ _ => ⟨rfl, noCondition⟩) hr

theorem floatResult_of_floatFire1 {f : Rm → Nat → Nat → Nat × Flags}
    (hr : RunsAs mk ex fun o => floatFire1 lat f (mk o) := by exact fun _ => ⟨⟨_, rfl⟩, fun _ => ⟨rfl, rfl⟩⟩) :
    FloatResult mk false false lat id (fun rm fmt a _ _ => f rm fmt a) (fun _ _ _ => False) :=
  floatResult_of_floatSem ex (fun _ _ _ _ _ => ⟨rfl, noCondition⟩) hr

end

/-- A fused form sets no condition. -/
theorem fusedOut_computes (sub rev : Bool) : FloatComputes (fusedOut sub rev)
    (fun rm fmt a b c => ((fusedOut sub rev rm fmt a b c).1, (fusedOut sub rev rm fmt a b c).2.2)) (fun _ _ _ => False) := by
  intro rm fmt a b c
  have hcond : (fusedOut sub rev rm fmt a b c).2.1 = false := by
    simp only [fusedOut]
    split <;> rfl
  exact ⟨rfl, by rw [hcond]; exact noCondition⟩

/-- Settles O26: each instruction is a float fire of its lane function. -/
theorem floatLaneResults : Obligations.FloatLaneResults :=
  ⟨floatResult_of_floatFire execFadd, floatResult_of_floatFire execFsub, floatResult_of_floatFire execFmul,
    floatResult_of_floatSem execFma (fusedOut_computes false false), floatResult_of_floatSem execFms (fusedOut_computes true false),
    floatResult_of_floatSem execFnma (fusedOut_computes false true),
    floatResult_of_floatFire1 execFrint, floatResult_of_floatFire1 execFfloor, floatResult_of_floatFire1 execFceil,
    floatResult_of_floatFire1 execFtrunc, floatResult_of_floatFire1 execFexp2f, floatResult_of_floatFire execFldexp,
    floatResult_of_floatFire1 execFgetexp, floatResult_of_floatFire1 execFgetmant, floatResult_of_floatFire1 execFrcp,
    floatResult_of_floatFire1 execFrsq, floatResult_of_floatFire1 execFlog2f⟩

end Sys2Proof.Machine
end

section
/-! SUPPORT. Comparisons, minimum and maximum, sign operations and classes of float lanes (R128 to R130): the order of numbers, a lane as its sign and magnitude. -/

namespace Sys2Proof.Machine

open Sys2Proof.Safety

/-! ## The order of numbers (R128, R130) -/

/-- Finite numbers compare as their values do. -/
theorem Num.cmp_fin_fin (s t : Bool) (m n : Nat) (e f : Int) :
    Num.cmp (.fin s m e) (.fin t n f) = compare (ratOf (.fin s m e)) (ratOf (.fin t n f)) := by
  let q := if e ≤ f then e else f
  have hqe : q ≤ e := by simp only [q]; split <;> omega
  have hqf : q ≤ f := by simp only [q]; split <;> omega
  have hmono : StrictMono fun z : Int => (z : ℚ) * 2 ^ q := fun x y h =>
    mul_lt_mul_of_pos_right (Int.cast_lt.mpr h) (by positivity)
  rw [ratOf_eq_unitsOf s m hqe, ratOf_eq_unitsOf t n hqf, ← cmp_eq_compare]
  refine Eq.trans ?_ (hmono.cmp_map_eq _ _).symm
  exact (cmp_eq_compare _ _).symm

/-- Where a number stands among the extended reals; a NaN stands nowhere and is given 0. -/
noncomputable def Num.position : Num → EReal
  | .nan _ => 0
  | .inf n => if n then ⊥ else ⊤
  | .fin n m e => ((ratOf (.fin n m e) : ℚ) : ℝ)

theorem Num.bot_lt_position_fin (n : Bool) (m : Nat) (e : Int) : ⊥ < (Num.fin n m e).position := EReal.bot_lt_coe _
theorem Num.position_fin_lt_top (n : Bool) (m : Nat) (e : Int) : (Num.fin n m e).position < ⊤ := EReal.coe_lt_top _

/-- Numbers compare as their positions do. -/
theorem Num.cmp_eq_compare_position {x y : Num} (hx : x.isNan = false) (hy : y.isNan = false) : x.cmp y = compare x.position y.position := by
  match x, y with
  | .nan _, _ => cases hx
  | _, .nan _ => cases hy
  | .inf false, .inf false => exact (compare_eq_iff_eq.mpr rfl).symm
  | .inf true, .inf true => exact (compare_eq_iff_eq.mpr rfl).symm
  | .inf false, .inf true => exact (compare_gt_iff_gt.mpr bot_lt_top).symm
  | .inf true, .inf false => exact (compare_lt_iff_lt.mpr bot_lt_top).symm
  | .inf false, .fin t n f => exact (compare_gt_iff_gt.mpr (position_fin_lt_top t n f)).symm
  | .inf true, .fin t n f => exact (compare_lt_iff_lt.mpr (bot_lt_position_fin t n f)).symm
  | .fin s m e, .inf false => exact (compare_lt_iff_lt.mpr (position_fin_lt_top s m e)).symm
  | .fin s m e, .inf true => exact (compare_gt_iff_gt.mpr (bot_lt_position_fin s m e)).symm
  | .fin s m e, .fin t n f =>
    have hmono : StrictMono fun z : ℚ => ((z : ℝ) : EReal) := fun a b h => EReal.coe_lt_coe_iff.mpr (Rat.cast_lt.mpr h)
    rw [Num.cmp_fin_fin, ← cmp_eq_compare, ← cmp_eq_compare]
    exact (hmono.cmp_map_eq _ _).symm

/-- The comparisons of two numbers are the reverse of each other. -/
theorem Num.swap_cmp {x y : Num} (hx : x.isNan = false) (hy : y.isNan = false) : (x.cmp y).swap = y.cmp x := by
  rw [cmp_eq_compare_position hx hy, cmp_eq_compare_position hy hx, ← cmp_eq_compare, ← cmp_eq_compare, cmp_swap]

theorem Num.less_of_lt {x y : Num} (h : x.cmp y = .lt) : x.less y = true := by rw [less, h]
theorem Num.less_of_gt {x y : Num} (h : x.cmp y = .gt) : x.less y = false := by rw [less, h]

/-- Zeros compare equal, and are ordered by their signs (R128). -/
theorem Num.less_zero (s t : Bool) (e f : Int) : Num.less (.fin s 0 e) (.fin t 0 f) = (s && !t) := by
  have h : Num.cmp (.fin s 0 e) (.fin t 0 f) = .eq := by
    rw [cmp_fin_fin, compare_eq_iff_eq, ratOf_fin, ratOf_fin, Nat.cast_zero, zero_mul, zero_mul, mul_zero, mul_zero]
  rw [less, h]
  rfl

/-! ## Minimum and maximum (R128) -/

section

variable {fmt a b : Nat} (p : Num → Num → Bool)

theorem minMax_nan_nan (hx : (decodeIeee fmt a).isNan = true) (hy : (decodeIeee fmt b).isNan = true) :
    minMax p fmt a b = (canonNan fmt, if (decodeIeee fmt a).isSnan || (decodeIeee fmt b).isSnan then fNV else 0) := by
  simp only [minMax, hx, hy, sigFlag_pair]
  rfl

theorem minMax_nan_left (hx : (decodeIeee fmt a).isNan = true) (hy : (decodeIeee fmt b).isNan = false) :
    minMax p fmt a b = (b, if (decodeIeee fmt a).isSnan || (decodeIeee fmt b).isSnan then fNV else 0) := by
  simp only [minMax, hx, hy, sigFlag_pair]
  rfl

theorem minMax_nan_right (hx : (decodeIeee fmt a).isNan = false) (hy : (decodeIeee fmt b).isNan = true) :
    minMax p fmt a b = (a, if (decodeIeee fmt a).isSnan || (decodeIeee fmt b).isSnan then fNV else 0) := by
  simp only [minMax, hx, hy, sigFlag_pair]
  rfl

theorem minMax_numbers (hx : (decodeIeee fmt a).isNan = false) (hy : (decodeIeee fmt b).isNan = false) :
    minMax p fmt a b = (if p (decodeIeee fmt a) (decodeIeee fmt b) then b else a, 0) := by
  simp only [minMax, hx, hy, sigFlag_pair, Num.isSnan_of_not_isNan hx, Num.isSnan_of_not_isNan hy]
  rfl

end

/-! ## Signs and classes (R129, R130) -/

/-- A lane with another sign is the same number with that sign. -/
theorem decodeIeee_withSign (f : Nat) (s t : Bool) {c : Nat} (hc : c < 2 ^ (expBits f + fracBits f)) :
    decodeIeee f (signPart f t + c) = withSign t (decodeIeee f (signPart f s + c)) := by
  rw [decodeIeee_signPart f s hc, decodeIeee_signPart f t hc]
  split
  · split <;> rfl
  · rfl

theorem neg?_decodeIeee {f : Nat} {s : Bool} {c : Nat} (hc : c < 2 ^ (expBits f + fracBits f)) (h : (decodeIeee f (signPart f s + c)).isNan = false) :
    (decodeIeee f (signPart f s + c)).neg? = s := by
  rw [decodeIeee_signPart f s hc] at h ⊢
  split at h
  · split at h
    next hd hz => rw [if_pos hd, if_pos hz]; rfl
    next => cases h
  next hd => rw [if_neg hd]; rfl

section

variable {fmt : Nat} (hf : fmt ∈ [7, 8, 9])
include hf

/-- A lane of the format is its sign and its magnitude. -/
theorem exists_signPart_add {a : Nat} (ha : a < 2 ^ laneBits fmt) : ∃ (s : Bool) (c : Nat), c < 2 ^ (expBits fmt + fracBits fmt) ∧ a = signPart fmt s + c :=
  exists_sign_add (by rwa [laneBits_ieee hf] at ha)

theorem signBit_ieee : signBit fmt = 2 ^ (expBits fmt + fracBits fmt) := by rw [signBit, laneBits_ieee hf]; rfl

variable {c : Nat} (hc : c < 2 ^ (expBits fmt + fracBits fmt))
include hc

theorem magBits_signPart (s : Bool) : magBits fmt (signPart fmt s + c) = c := by
  rw [magBits, signBit_ieee hf]
  cases s <;> simp [signPart, Nat.mod_eq_of_lt hc]

/-- The sign bit inverted. -/
theorem xor_signBit (s : Bool) : (signPart fmt s + c) ^^^ signBit fmt = signPart fmt (!s) + c := by
  rw [signBit_ieee hf, signPart, signPart]
  generalize expBits fmt + fracBits fmt = k at hc ⊢
  have hor : 2 ^ k + c = 2 ^ k ^^^ c := by
    apply Nat.eq_of_testBit_eq
    intro i
    rw [Nat.testBit_xor, Nat.testBit_two_pow]
    rcases lt_trichotomy i k with h | rfl | h
    · simp [Nat.testBit_two_pow_add_gt h, h.ne']
    · simp [Nat.testBit_two_pow_add_eq]
    · have h1 : 2 ^ k + c < 2 ^ i := (by omega : 2 ^ k + c < 2 ^ (k + 1)).trans_le (Nat.pow_le_pow_right two_pos h)
      simp [Nat.testBit_lt_two_pow h1, Nat.testBit_lt_two_pow (show c < 2 ^ i by omega), h.ne]
  cases s
  · simp only [Bool.false_eq_true, if_false, Bool.not_false, if_true, Nat.zero_add, hor, Nat.xor_comm]
  · simp [hor, Nat.xor_comm]

/-- The class mask of a finite lane: zero, below the normal numbers, or normal. -/
theorem classMask_finite (s : Bool) {n : Bool} {m : Nat} {e : Int} (hx : decodeIeee fmt (signPart fmt s + c) = .fin n m e) :
    classMask fmt (signPart fmt s + c) =
      if m = 0 then (if n then 2 ^ 3 else 2 ^ 4) else if m < 2 ^ fracBits fmt then (if n then 2 ^ 2 else 2 ^ 5) else (if n then 2 ^ 1 else 2 ^ 6) := by
  have hm : m = mantOf fmt c := by
    rw [decodeIeee_signPart fmt s hc] at hx
    split at hx
    · split at hx <;> cases hx
    · exact ((Num.fin.injEq ..).mp hx).2.1.symm
  have hsub : magBits fmt (signPart fmt s + c) < 2 ^ fracBits fmt ↔ m < 2 ^ fracBits fmt := by
    rw [magBits_signPart hf hc, hm, mantOf]
    split
    · exact Iff.rfl
    next h => exact iff_of_false h (by omega)
  rw [classMask, hx]
  simp only [decide_eq_true_eq]
  exact if_congr Iff.rfl rfl (if_congr hsub rfl rfl)

end

/-! ## The instructions -/

/-- The answer of a comparison: `un` where an operand is NaN. -/
def cmpAnswer (un : Bool) (f : Ordering → Bool) (x y : Num) : Bool := if x.isNan || y.isNan then un else f (x.cmp y)

/-- A comparison writes 1 or 0 by its answer, which is its condition, and NV for a NaN or, where it is quiet, for a signalling one (R130). -/
theorem floatResult_of_fcmpFire {mk : Op → Instr} {un quiet : Bool} {f : Ordering → Bool} {ok : Num → Num → Bool}
    (ex : Op → State → Host.Outcome State Fault Refusal) (hok : ∀ x y, cmpAnswer un f x y = ok x y)
    (hr : RunsAs mk ex fun o => fcmpFire un quiet f (mk o) := by exact fun _ => ⟨⟨_, rfl⟩, fun _ => ⟨rfl, rfl⟩⟩) :
    FloatResult mk true false 1 (fun fmt => if fmt = 7 then 3 else 0)
      (fun _ fmt a b _ => ((if ok (decodeIeee fmt a) (decodeIeee fmt b) then 1 else 0),
        if (if quiet then (decodeIeee fmt a).isSnan || (decodeIeee fmt b).isSnan else (decodeIeee fmt a).isNan || (decodeIeee fmt b).isNan) then fNV else 0))
      (fun fmt a b => ok (decodeIeee fmt a) (decodeIeee fmt b)) := by
  refine floatResult_of_floatSem ex (fun rm fmt a b old => ?_) hr
  simp only [← hok, cmpAnswer, sigFlag_pair, flagIf]
  cases quiet <;> exact ⟨rfl, trivial⟩

theorem cmpAnswer_false (f : Ordering → Bool) (x y : Num) : cmpAnswer false f x y = (!x.isNan && !y.isNan && f (x.cmp y)) := by
  rw [cmpAnswer]
  cases x.isNan <;> cases y.isNan <;> rfl

theorem cmpAnswer_unordered (x y : Num) : cmpAnswer true (fun _ => false) x y = (x.isNan || y.isNan) := by
  rw [cmpAnswer]
  cases x.isNan <;> cases y.isNan <;> rfl

/-- FMIN takes the lesser operand and FMAX the greater (R128). -/
abbrev fminLane : Nat → Nat → Nat → Nat × Flags := minMax fun x y => y.less x
abbrev fmaxLane : Nat → Nat → Nat → Nat × Flags := minMax fun x y => x.less y

section

variable {fmt a b : Nat}

theorem minMax_lt (hx : (decodeIeee fmt a).isNan = false) (hy : (decodeIeee fmt b).isNan = false)
    (h : (decodeIeee fmt a).cmp (decodeIeee fmt b) = .lt) : fminLane fmt a b = (a, 0) ∧ fmaxLane fmt a b = (b, 0) := by
  have hs : (decodeIeee fmt b).cmp (decodeIeee fmt a) = .gt := by rw [← Num.swap_cmp hx hy, h]; rfl
  rw [fminLane, fmaxLane, minMax_numbers _ hx hy, minMax_numbers _ hx hy, Num.less_of_lt h, Num.less_of_gt hs]
  exact ⟨rfl, rfl⟩

theorem minMax_gt (hx : (decodeIeee fmt a).isNan = false) (hy : (decodeIeee fmt b).isNan = false)
    (h : (decodeIeee fmt a).cmp (decodeIeee fmt b) = .gt) : fminLane fmt a b = (b, 0) ∧ fmaxLane fmt a b = (a, 0) := by
  have hs : (decodeIeee fmt b).cmp (decodeIeee fmt a) = .lt := by rw [← Num.swap_cmp hx hy, h]; rfl
  rw [fminLane, fmaxLane, minMax_numbers _ hx hy, minMax_numbers _ hx hy, Num.less_of_gt h, Num.less_of_lt hs]
  exact ⟨rfl, rfl⟩

/-- Of two zeros the one with the minus sign is the lesser. -/
theorem minMax_zeros {s t : Bool} {e f : Int} (hx : decodeIeee fmt a = .fin s 0 e) (hy : decodeIeee fmt b = .fin t 0 f) :
    fminLane fmt a b = (if t && !s then b else a, 0) ∧ fmaxLane fmt a b = (if s && !t then b else a, 0) := by
  have hxn : (decodeIeee fmt a).isNan = false := congrArg Num.isNan hx
  have hyn : (decodeIeee fmt b).isNan = false := congrArg Num.isNan hy
  rw [fminLane, fmaxLane, minMax_numbers _ hxn hyn, minMax_numbers _ hxn hyn, hx, hy, Num.less_zero, Num.less_zero]
  exact ⟨rfl, rfl⟩

theorem signOut_nan (r : Nat) (h : (decodeIeee fmt a).isNan = true) : signOut fmt a r = (canonNan fmt, if (decodeIeee fmt a).isSnan then fNV else 0) := by
  simp only [signOut, h, if_true, sigFlag, flagIf, List.any_cons, List.any_nil, Bool.or_false]

theorem signOut_number (r : Nat) (h : (decodeIeee fmt a).isNan = false) : signOut fmt a r = (r, 0) := by
  simp only [signOut, h, Bool.false_eq_true, if_false]

/-- The sign operations on a number (R129): its sign cleared, inverted, and replaced by that of b. -/
theorem signOps_number (hf : fmt ∈ [7, 8, 9]) (ha : a < 2 ^ laneBits fmt) (hb : b < 2 ^ laneBits fmt) (hn : (decodeIeee fmt a).isNan = false) :
    decodeIeee fmt (magBits fmt a) = withSign false (decodeIeee fmt a) ∧
    decodeIeee fmt (a ^^^ signBit fmt) = withSign (!(decodeIeee fmt a).neg?) (decodeIeee fmt a) ∧
    decodeIeee fmt (magBits fmt a + (b - magBits fmt b)) = withSign (decide (2 ^ (laneBits fmt - 1) ≤ b)) (decodeIeee fmt a) := by
  obtain ⟨s, c, hc, rfl⟩ := exists_signPart_add hf ha
  obtain ⟨t, d, hd, rfl⟩ := exists_signPart_add hf hb
  have hpos : signPart fmt false + c = c := Nat.zero_add c
  have ht : decide (2 ^ (laneBits fmt - 1) ≤ signPart fmt t + d) = t := by
    rw [show 2 ^ (laneBits fmt - 1) = 2 ^ (expBits fmt + fracBits fmt) from signBit_ieee hf]
    cases t <;> simp [signPart, hd]
  rw [magBits_signPart hf hc, magBits_signPart hf hd, xor_signBit hf hc, neg?_decodeIeee hc hn, ht, Nat.add_sub_cancel, Nat.add_comm c]
  refine ⟨?_, decodeIeee_withSign fmt s (!s) hc, decodeIeee_withSign fmt s t hc⟩
  rw [← decodeIeee_withSign fmt s false hc, hpos]

end

/-- Settles O28: the ten instructions, then the order of numbers and each operation by the kinds of its operands. -/
theorem floatComparisons : Obligations.FloatComparisons := by
  unfold Obligations.FloatComparisons
  intro num cmp code ord lo hi fabs fneg fcopysign
  refine ⟨floatResult_of_floatFire execFmin, floatResult_of_floatFire execFmax, floatResult_of_floatFire1 execFabs,
    floatResult_of_floatFire1 execFneg, floatResult_of_floatFire execFcopysign, floatResult_of_fcmpFire execFceq (cmpAnswer_false (· == .eq)),
    floatResult_of_fcmpFire execFclt (cmpAnswer_false (· == .lt)), floatResult_of_fcmpFire execFcle (cmpAnswer_false (· != .gt)),
    floatResult_of_fcmpFire execFcun cmpAnswer_unordered, floatResult_of_floatSem execFclass fun _ _ _ _ _ => ⟨rfl, noCondition⟩, ?order, ?lanes⟩
  case order =>
    intro s t m n e f
    rw [Num.cmp_fin_fin, compare_lt_iff_lt, compare_eq_iff_eq]
    exact ⟨Iff.rfl, Iff.rfl, rfl, rfl, by cases s <;> cases t <;> rfl⟩
  case lanes =>
    intro fmt hf a b ha hb x y nan sig sig2
    refine ⟨fun hx hy => ⟨minMax_nan_nan _ hx hy, minMax_nan_nan _ hx hy⟩, fun hx hy => ⟨minMax_nan_left _ hx hy, minMax_nan_left _ hx hy⟩,
      fun hx hy => ⟨minMax_nan_right _ hx hy, minMax_nan_right _ hx hy⟩, fun e f hx hy => minMax_zeros hx hy, fun e f hx hy => minMax_zeros hx hy,
      fun hx hy => minMax_lt hx hy, fun hx hy => minMax_gt hx hy, fun hx => ⟨signOut_nan _ hx, signOut_nan _ hx, signOut_nan _ hx⟩,
      fun hx => ?signs, fun q hx => ?nan, fun n hx => ?inf, fun n m e hx => ?fin⟩
    case signs =>
      obtain ⟨habs, hneg, hcopy⟩ := signOps_number hf ha hb hx
      simp only [fabs, fneg, fcopysign, signOut_number _ hx, and_true]
      exact ⟨habs, hneg, hcopy⟩
    case nan => simp only [classMask, show decodeIeee fmt a = .nan q from hx]
    case inf => simp only [classMask, show decodeIeee fmt a = .inf n from hx]
    case fin =>
      obtain ⟨s, c, hc, rfl⟩ := exists_signPart_add hf ha
      exact classMask_finite hf hc s hx

end Sys2Proof.Machine
end

section
/-! SUPPORT. PACK and UNPACK (R139, R144): the classes of codes, the lanes that A and B give, and each instruction by the lanes it converts. -/

namespace Sys2Proof.Machine

open Sys2Proof.Safety

/-! ## What PACK and UNPACK do -/

theorem sameClass_iff (t f : Nat) : sameClass t f = true ↔ if 7 ≤ t then 7 ≤ f ∧ f ≤ 14 else 1 ≤ f ∧ f ≤ 6 := by
  by_cases h : 7 ≤ t <;> simp [sameClass, h, isFloatFmt, isIntFmt]

/-- A lane of A or B converted to the target (R144). -/
def Env.packLane (v : Env) (x : Val) (l : Nat) : Nat × Flags :=
  encodeLane v.o.tact.val .rne (decodeLane x.fmt (lane x (laneBits x.fmt) l).toNat)

/-- PACK reads B: A is full in a wide element (R144). -/
def Env.packReadsB (v : Env) : Bool := v.wide && convValid v.wide v.a == convLanes v.wide v.a.fmt

theorem Env.packReadsB_iff (v : Env) : v.packReadsB = true ↔ v.wide = true ∧ convValid v.wide v.a = convLanes v.wide v.a.fmt := by simp [packReadsB]

/-- The value of k lanes under the target code. -/
def Env.packVal (v : Env) (k : Nat) (at_ : Nat → Nat × Flags) : Val := convVal v.wide v.o.tact.val ((List.range k).map fun l => (at_ l).1)

/-- What PACK and UNPACK do with the k lanes they have converted. -/
def Env.packGo (v : Env) (k : Nat) (at_ : Nat → Nat × Flags) : Go :=
  { lat := 2, d1 := some (v.packVal k at_), d2 := some (v.packVal k at_), flags := flagsOver k fun l => (at_ l).2 }

/-- The lanes of A from an offset on, then those of B. -/
def Env.packLaneFrom (v : Env) (off l : Nat) : Nat × Flags :=
  if l < convValid v.wide v.a - off then v.packLane v.a (off + l) else v.packLane v.b (l - convValid v.wide v.a)

theorem flagsOver_congr {k : Nat} {f g : Nat → Flags} (h : ∀ l < k, f l = g l) : flagsOver k f = flagsOver k g :=
  List.foldr_ext _ _ _ fun l hl _ => by rw [h l (List.mem_range.mp hl)]

theorem Env.packGo_congr (v : Env) {k : Nat} {f g : Nat → Nat × Flags} (h : ∀ l < k, f l = g l) : v.packGo k f = v.packGo k g := by
  have hmap : ((List.range k).map fun l => (f l).1) = (List.range k).map fun l => (g l).1 :=
    List.map_congr_left fun l hl => congrArg Prod.fst (h l (List.mem_range.mp hl))
  have hflags : (flagsOver k fun l => (f l).2) = flagsOver k fun l => (g l).2 := flagsOver_congr fun l hl => congrArg Prod.snd (h l hl)
  rw [packGo, packGo, packVal, packVal, hmap, hflags]

theorem Env.packGo_lanewise (v : Env) (k : Nat) (at_ : Nat → Nat × Flags) : v.packGo k at_ =
    (let r := lanewise k fun l => ((at_ l).1, false, (at_ l).2)
     { Go.both 2 (convVal v.wide v.o.tact.val r.1) with flags := r.2.2 }) := by
  simp only [lanewise_fst, lanewise_flags]
  rfl

/-- PACK: its class test, then the lanes of A and, where it reads B, those of B. -/
theorem packSem_pack (v : Env) : packSem true v =
    if (!sameClass v.o.tact.val v.a.fmt || (v.packReadsB && !sameClass v.o.tact.val v.b.fmt)) = true then .trap .badFormat 0 0 0
    else .go (v.packGo (if v.packReadsB then min (convValid v.wide v.a + if v.packReadsB then convValid true v.b else 0) (convLanes v.wide v.o.tact.val)
      else min (convValid v.wide v.a) (convLanes v.wide v.o.tact.val)) (v.packLaneFrom 0)) := by
  rw [v.packGo_lanewise]
  rfl

/-- UNPACK: its class test, its offset within the valid lanes, then the lanes of A from there on. -/
theorem packSem_unpack (v : Env) : packSem false v =
    if (!sameClass v.o.tact.val v.a.fmt) = true then .trap .badFormat 0 0 0
    else if convValid v.wide v.a ≤ v.b.n64 % 128 then .trap .badLane 0 (v.b.n64 % 128) 0
    else .go (v.packGo (min (convValid v.wide v.a - v.b.n64 % 128) (convLanes v.wide v.o.tact.val)) (v.packLaneFrom (v.b.n64 % 128))) := by
  rw [v.packGo_lanewise]
  cases h : sameClass v.o.tact.val v.a.fmt with
  | false => simp only [packSem, h, Bool.not_false, Bool.true_or, if_true]
  | true =>
    by_cases hle : convValid v.wide v.a ≤ v.b.n64 % 128
    · simp [packSem, h, hle]
    · rw [Bool.not_true, if_neg Bool.false_ne_true, if_neg hle]
      exact (if_neg (by simp [h])).trans ((if_neg (by simpa using hle)).trans rfl)

section

variable {v : Env}

theorem pack_badFormat (h : sameClass v.o.tact.val v.a.fmt = false ∨ (v.packReadsB = true ∧ sameClass v.o.tact.val v.b.fmt = false)) :
    packSem true v = .trap .badFormat 0 0 0 := by
  rw [packSem_pack, if_pos (by simpa using h)]

/-- PACK of an A that is not full converts A's lanes. -/
theorem pack_part (ha : sameClass v.o.tact.val v.a.fmt = true) (hf : v.packReadsB = false) :
    packSem true v = .go (v.packGo (min (convValid v.wide v.a) (convLanes v.wide v.o.tact.val)) (v.packLane v.a)) := by
  rw [packSem_pack, if_neg (by simp [ha, hf]), hf, if_neg Bool.false_ne_true]
  refine congrArg Dec.go (v.packGo_congr fun l hl => ?_)
  rw [Env.packLaneFrom, if_pos (by omega), Nat.zero_add]

/-- PACK of a full A converts B's lanes after those of A. -/
theorem pack_full (ha : sameClass v.o.tact.val v.a.fmt = true) (hb : sameClass v.o.tact.val v.b.fmt = true) (hf : v.packReadsB = true) :
    packSem true v = .go (v.packGo (min (convValid v.wide v.a + convValid true v.b) (convLanes v.wide v.o.tact.val))
      fun l => if l < convValid v.wide v.a then v.packLane v.a l else v.packLane v.b (l - convValid v.wide v.a)) := by
  rw [packSem_pack, if_neg (by simp [ha, hb]), hf, if_pos rfl, if_pos rfl]
  refine congrArg Dec.go (v.packGo_congr fun l _ => ?_)
  rw [Env.packLaneFrom, Nat.sub_zero, Nat.zero_add]

theorem unpack_badFormat (ha : sameClass v.o.tact.val v.a.fmt = false) : packSem false v = .trap .badFormat 0 0 0 := by
  rw [packSem_unpack, ha, Bool.not_false, if_pos rfl]

theorem unpack_badLane (ha : sameClass v.o.tact.val v.a.fmt = true) (ho : convValid v.wide v.a ≤ v.b.n64 % 128) :
    packSem false v = .trap .badLane 0 (v.b.n64 % 128) 0 := by
  rw [packSem_unpack, ha, Bool.not_true, if_neg Bool.false_ne_true, if_pos ho]

/-- UNPACK converts A's lanes from its offset on. -/
theorem unpack_go (ha : sameClass v.o.tact.val v.a.fmt = true) (ho : v.b.n64 % 128 < convValid v.wide v.a) :
    packSem false v = .go (v.packGo (min (convValid v.wide v.a - v.b.n64 % 128) (convLanes v.wide v.o.tact.val))
      fun l => v.packLane v.a (v.b.n64 % 128 + l)) := by
  rw [packSem_unpack, ha, Bool.not_true, if_neg Bool.false_ne_true, if_neg (not_le.mpr ho)]
  refine congrArg Dec.go (v.packGo_congr fun l hl => ?_)
  rw [Env.packLaneFrom, if_pos (by omega)]

end

theorem Env.packVal_isLanes (v : Env) {k : Nat} (hk : k ≤ convLanes v.wide v.o.tact.val) (at_ : Nat → Nat × Flags) :
    IsLanes v.wide (laneBits v.o.tact.val) v.o.tact.val k (fun l => BitVec.ofNat (laneBits v.o.tact.val) (at_ l).1) (v.packVal k at_) :=
  convVal_isLanes v.wide _ _ hk

theorem Val.n64_mod_128 (x : Val) : x.n64 % 128 = x.bits.toNat % 128 := by rw [x.n64_eq_mod, Nat.mod_mod_of_dvd _ (by norm_num)]

theorem exec_pack (o : Op) (s : State) : exec (.pack o) s = fire (packSem true) (.pack o) s := rfl
theorem exec_unpack (o : Op) (s : State) : exec (.unpack o) s = fire (packSem false) (.unpack o) s := rfl

/-- Settles O32: each instruction by the lanes it converts. -/
theorem packsLanes : Obligations.PacksLanes := by
  intro o s v t va lt full same a b off
  have hoff : v.b.n64 % 128 = off := v.b.n64_mod_128
  have hclass : ∀ {f}, same f → sameClass t f = true := fun h => (sameClass_iff t _).mpr h
  have hother : ∀ {f}, ¬ same f → sameClass t f = false := fun h => Bool.eq_false_iff.mpr ((sameClass_iff t _).not.mpr h)
  constructor
  · intro h
    have ho : o = v.o := (op_of_decides h rfl).symm
    subst ho
    refine ⟨fun hbad => ?trap, fun ha hf => ⟨_, ?part, v.packVal_isLanes (Nat.min_le_right _ _) _⟩,
      fun ha hf hb => ⟨_, ?full, v.packVal_isLanes (Nat.min_le_right _ _) _⟩⟩
    case trap => exact traps_of_fire _ h rfl (exec_pack v.o s) (pack_badFormat (hbad.imp hother fun hb => ⟨v.packReadsB_iff.mpr hb.1, hother hb.2⟩))
    case part => exact goes_of_fire _ h rfl (exec_pack v.o s) (pack_part (hclass ha) (Bool.eq_false_iff.mpr (v.packReadsB_iff.not.mpr hf)))
    case full => exact goes_of_fire _ h rfl (exec_pack v.o s) (pack_full (hclass ha) (hclass hb) (v.packReadsB_iff.mpr hf))
  · intro h
    have ho : o = v.o := (op_of_decides h rfl).symm
    subst ho
    refine ⟨fun hbad => ?trap, fun ha hle => ?lane, fun ha hlt => ⟨_, ?go, v.packVal_isLanes (Nat.min_le_right _ _) _⟩⟩
    case trap => exact traps_of_fire _ h rfl (exec_unpack v.o s) (unpack_badFormat (hother hbad))
    case lane =>
      rw [← hoff] at hle ⊢
      exact traps_of_fire _ h rfl (exec_unpack v.o s) (unpack_badLane (hclass ha) hle)
    case go =>
      rw [← hoff] at hlt
      have hsem := unpack_go (hclass ha) hlt
      rw [hoff] at hsem
      exact goes_of_fire _ h rfl (exec_unpack v.o s) hsem

end Sys2Proof.Machine
end

section
/-! SUPPORT. The instructions that move lanes (R147, R148, R153 to R155): the sources they take, the values they write, and each by its meaning. -/

namespace Sys2Proof.Machine

open Sys2Proof.Safety

/-! ## Sources (R124, R147) -/

/-- A moving instruction takes its sources: any of them under FA, else those of the operation format or RAW. -/
def MovesFrom (v : Env) (l : List Val) : Prop := v.o.mode.val = 0 ∨ ∀ x ∈ l, Carries v.xfmt x

theorem movesFrom_one (v : Env) (x : Val) : MovesFrom v [x] ↔ v.o.mode.val = 0 ∨ Carries v.xfmt x := by simp [MovesFrom]
theorem movesFrom_two (v : Env) (x y : Val) : MovesFrom v [x, y] ↔ v.o.mode.val = 0 ∨ (Carries v.xfmt x ∧ Carries v.xfmt y) := by simp [MovesFrom]

section

variable {v : Env} {more : Env → List Val} {f : Env → Nat → Nat → Nat → Dec}

theorem moveGuard_iff : (v.o.mode.val != 0 && !(v.a :: more v).all (codeOk v.xfmt)) = true ↔ ¬ MovesFrom v (v.a :: more v) := by
  rw [MovesFrom, not_or, Bool.and_eq_true, bne_iff_ne, Bool.not_eq_true', ← Bool.not_eq_true, List.all_eq_true]
  simp only [codeOk_iff, ne_eq]

theorem moveSem_go (h : MovesFrom v (v.a :: more v)) : moveSem more f v = f v v.xfmt (laneBits v.xfmt) (v.a.valid (laneBits v.xfmt)) :=
  if_neg (moveGuard_iff.not.mpr (not_not.mpr h))

/-- A moving instruction traps BAD_FORMAT on a source it does not take. -/
theorem moves_badFormat {i : Instr} {s : State} (hex : exec i s = fire (moveSem more f) i s) (h : Decides i s v) (hbad : ¬ MovesFrom v (v.a :: more v)) :
    Traps i s v .badFormat 0 0 0 :=
  traps_of_fire _ h rfl hex (if_pos (moveGuard_iff.mpr hbad))

end

/-! ## Values of lanes -/

theorem Val.valid_le (x : Val) (w : Nat) : x.valid w ≤ laneCount w := Nat.min_le_right _ _

/-- Lanes of a format packed into a wide word. -/
theorem wideLanes_isLanes (fmt : Nat) {k : Nat} {f : Nat → BitVec (laneBits fmt)} {g : Nat → Nat} (hk : k ≤ laneCount (laneBits fmt))
    (hg : ∀ l < k, f l = BitVec.ofNat _ (g l)) : IsLanes true (laneBits fmt) fmt k f (laneVal true (laneBits fmt) fmt ((List.range k).map g)) :=
  laneVal_isLanes true _ fmt k f g ((Nat.mul_le_mul_left _ hk).trans (laneCount_mul _ (laneBits_cases fmt)).1) hg hk

/-- One lane in every place of a wide word. -/
def repVal (fmt x : Nat) : Val := { bits := BitVec.ofNat 512 (repLanes (laneBits fmt) (laneCount (laneBits fmt)) x), fmt := fmt, vl := 0 }

theorem repVal_isLanes (fmt : Nat) (x : BitVec (laneBits fmt)) :
    IsLanes true (laneBits fmt) fmt (laneCount (laneBits fmt)) (fun _ => x) (repVal fmt x.toNat) := by
  have h := wideLanes_isLanes fmt (f := fun _ => x) (g := fun _ => x.toNat) le_rfl fun _ _ => (ofNat_toNat_self x).symm
  have hv : laneVal true (laneBits fmt) fmt ((List.range (laneCount (laneBits fmt))).map fun _ => x.toNat) = repVal fmt x.toNat := by
    simp [laneVal, repVal, repLanes, countOf]
  rwa [hv] at h

/-- A word of few bits has them as they are. -/
theorem toNat_word {m x : Nat} (hm : m ≤ 512) (hx : x < 2 ^ m) : (BitVec.ofNat 512 x).toNat = x :=
  toNat_ofNat_lt (hx.trans_le (Nat.pow_le_pow_right two_pos hm))

theorem lane0Val_isLane0 (fmt x : Nat) : IsLane0 (laneBits fmt) fmt (BitVec.ofNat (laneBits fmt) x) (lane0Val fmt x) := by
  have hw : laneBits fmt ≤ 512 := by have := laneBits_cases fmt; omega
  refine ⟨?_, rfl, rfl⟩
  rw [lane0Val, toNat_word hw (Nat.mod_lt _ (Nat.two_pow_pos _)), BitVec.toNat_ofNat]

/-- A list's values, numbered. -/
theorem map_eq_map_range {α β : Type} (f : α → β) (d : α) (l : List α) : l.map f = (List.range l.length).map fun n => f (l.getD n d) := by
  apply List.ext_getElem
  · simp
  · intro n h _
    have hn : n < l.length := by simpa using h
    simp [hn]

/-! ## VMASK (R154) -/

theorem testBit_packLanes_one (l : List Nat) (j : Nat) : (packLanes 1 l).testBit j = decide (l.getD j 0 % 2 = 1) := by
  rw [Nat.testBit_eq_decide_div_mod_eq, ← Nat.shiftRight_eq_div_pow]
  have h := laneAt_packLanes 1 l j
  rw [laneAt, Nat.one_mul] at h
  rw [show packLanes 1 l >>> j % 2 = l.getD j 0 % 2 from h]

/-- The mask of A's first 128 valid lanes. -/
def Env.laneMask (v : Env) : Nat :=
  packLanes 1 ((List.range (min (v.a.valid (laneBits v.xfmt)) 128)).map fun l => if v.aLane (laneBits v.xfmt) l = 0 then 0 else 1)

theorem Env.laneMask_lt (v : Env) : v.laneMask < 2 ^ 128 := by
  refine (packLanes_lt 1 _).trans_le (Nat.pow_le_pow_right two_pos ?_)
  rw [List.length_map, List.length_range]
  omega

theorem Env.testBit_laneMask (v : Env) (j : Nat) : v.laneMask.testBit j =
    decide (j < 128 ∧ j < v.a.valid (laneBits v.xfmt) ∧ lane v.a (laneBits v.xfmt) j ≠ 0) := by
  have hz : v.aLane (laneBits v.xfmt) j = 0 ↔ lane v.a (laneBits v.xfmt) j = 0 := by rw [aLane, ← lane_toNat, toNat_eq_zero_iff]
  rw [laneMask, testBit_packLanes_one]
  by_cases hj : j < min (v.a.valid (laneBits v.xfmt)) 128
  · have hj' := lt_min_iff.mp hj
    have hget : ((List.range (min (v.a.valid (laneBits v.xfmt)) 128)).map fun l => if v.aLane (laneBits v.xfmt) l = 0 then 0 else 1).getD j 0 =
        if lane v.a (laneBits v.xfmt) j = 0 then 0 else 1 := by simp [List.getD, hj', hz]
    rw [hget]
    split
    next h0 => exact (decide_eq_false fun h => h.2.2 h0).symm
    next h0 => exact (decide_eq_true ⟨hj'.2, hj'.1, h0⟩).symm
  · have hj' : ¬ (j < 128 ∧ j < v.a.valid (laneBits v.xfmt)) := by rwa [and_comm, ← lt_min_iff]
    have hget : ((List.range (min (v.a.valid (laneBits v.xfmt)) 128)).map fun l => if v.aLane (laneBits v.xfmt) l = 0 then 0 else 1).getD j 0 = 0 :=
      List.getD_eq_default _ _ (by simpa only [List.length_map, List.length_range, not_lt] using hj)
    rw [hget, decide_eq_false (by decide), decide_eq_false fun h => hj' ⟨h.1, h.2.1⟩]

/-! ## The instructions -/

theorem Env.idx_eq (v : Env) : v.idx = v.b.bits.toNat % 128 := v.b.n64_mod_128

theorem exec_vbcast (o : Op) (s : State) : exec (.vbcast o) s = fire (moveSem (fun _ => []) fun v fmt w va =>
    if va ≤ v.idx then .trap .badLane 0 v.idx 0
    else .go (.both 1 { bits := BitVec.ofNat 512 (repLanes w (laneCount w) (v.aLane w v.idx)), fmt := fmt, vl := 0 })) (.vbcast o) s := rfl

theorem exec_vextr (o : Op) (s : State) : exec (.vextr o) s = fire (moveSem (fun _ => []) fun v fmt w va =>
    if va ≤ v.idx then .trap .badLane 0 v.idx 0 else .go (.both 1 (lane0Val fmt (v.aLane w v.idx)))) (.vextr o) s := rfl

/-- The lanes of VINS: those of the old value up to its valid ones and the one that is put in. -/
def Env.insCount (v : Env) : Nat :=
  max (if v.old.vl = 0 then laneCount (laneBits v.xfmt) else v.old.valid (laneBits v.xfmt)) (v.idx + 1)

/-- Lane l of VINS. -/
def Env.insLane (v : Env) (l : Nat) : Nat := if l = v.idx then v.aLane (laneBits v.xfmt) 0 else laneAt v.old.bits.toNat (laneBits v.xfmt) l

theorem exec_vins (o : Op) (s : State) : exec (.vins o) s = fire (moveSem (fun v => [v.old]) fun v fmt w _ =>
    if laneCount w ≤ v.idx then .trap .badLane 0 v.idx 0
    else .go (.both 1 (laneVal true w fmt ((List.range (max (if v.old.vl = 0 then laneCount w else v.old.valid w) (v.idx + 1))).map fun l =>
      if l = v.idx then v.aLane w 0 else laneAt v.old.bits.toNat w l)))) (.vins o) s := rfl

theorem exec_vperm (o : Op) (s : State) : exec (.vperm o) s = fire (moveSem (fun v => [v.b]) fun v fmt w va =>
    if fmt = 11 || fmt = 12 || fmt = 13 then .trap .badFormat 0 0 0
    else .go (.both 2 (laneVal true w fmt ((List.range va).map fun l =>
      if laneAt v.b.bits.toNat 8 l < va then v.aLane w (laneAt v.b.bits.toNat 8 l) else 0)))) (.vperm o) s := rfl

theorem exec_vslide (o : Op) (s : State) : exec (.vslide o) s = fire (moveSem (fun _ => []) fun v fmt w va =>
    .go (.both 1 (laneVal true w fmt ((List.range va).map fun (l : Nat) =>
      if 0 ≤ (l : Int) + sextN v.b.n64 8 ∧ (l : Int) + sextN v.b.n64 8 < va then v.aLane w ((l : Int) + sextN v.b.n64 8).toNat else 0)))) (.vslide o) s := rfl

theorem exec_vmask (o : Op) (s : State) : exec (.vmask o) s = fire (moveSem (fun _ => []) fun v _ w va =>
    let m := packLanes 1 ((List.range (min va 128)).map fun l => if v.aLane w l = 0 then 0 else 1)
    .go { Go.both 1 { bits := BitVec.ofNat 512 m, fmt := 0, vl := 2 } with pred := m != 0 }) (.vmask o) s := rfl

theorem exec_vcompress (o : Op) (s : State) : exec (.vcompress o) s = fire (moveSem (fun v => [v.b]) fun v fmt w va =>
    let l := ((List.range va).filter fun l => bit v.b.bits.toNat l).map (v.aLane w)
    if l.isEmpty then .go { lat := 2 } else .go { Go.both 2 (laneVal true w fmt l) with pred := true }) (.vcompress o) s := rfl

section

variable {o : Op} {s : State} {v : Env}

/-- VBCAST and VEXTR trap BAD_LANE past A's valid lanes (R148). -/
theorem pick_badLane {i : Instr} {f : Env → Nat → Nat → Nat → Dec}
    (hex : exec i s = fire (moveSem (fun _ => []) fun v fmt w va => if va ≤ v.idx then .trap .badLane 0 v.idx 0 else f v fmt w va) i s)
    (h : Decides i s v) (ha : MovesFrom v [v.a]) (hi : v.a.valid (laneBits v.xfmt) ≤ v.idx) : Traps i s v .badLane 0 v.idx 0 :=
  traps_of_fire _ h rfl hex ((moveSem_go ha).trans (if_pos hi))

theorem vbcast_goes (h : Decides (.vbcast o) s v) (ha : MovesFrom v [v.a]) (hi : v.idx < v.a.valid (laneBits v.xfmt)) :
    Goes (.vbcast o) s v (Go.both 1 (repVal v.xfmt (lane v.a (laneBits v.xfmt) v.idx).toNat)) :=
  goes_of_fire _ h rfl (exec_vbcast o s) ((moveSem_go ha).trans ((if_neg (not_le.mpr hi)).trans (by rw [lane_toNat]; rfl)))

theorem vextr_goes (h : Decides (.vextr o) s v) (ha : MovesFrom v [v.a]) (hi : v.idx < v.a.valid (laneBits v.xfmt)) :
    Goes (.vextr o) s v (Go.both 1 (lane0Val v.xfmt (v.aLane (laneBits v.xfmt) v.idx))) :=
  goes_of_fire _ h rfl (exec_vextr o s) ((moveSem_go ha).trans (if_neg (not_le.mpr hi)))

theorem vins_goes (h : Decides (.vins o) s v) (ha : MovesFrom v [v.a, v.old]) (hi : v.idx < laneCount (laneBits v.xfmt)) :
    Goes (.vins o) s v (Go.both 1 (laneVal true (laneBits v.xfmt) v.xfmt ((List.range v.insCount).map v.insLane))) :=
  goes_of_fire _ h rfl (exec_vins o s) ((moveSem_go ha).trans (if_neg (not_le.mpr hi)))

theorem insVal_isLanes (hi : v.idx < laneCount (laneBits v.xfmt)) : IsLanes true (laneBits v.xfmt) v.xfmt v.insCount
    (fun l => if l = v.idx then lane v.a (laneBits v.xfmt) 0 else lane v.old (laneBits v.xfmt) l)
    (laneVal true (laneBits v.xfmt) v.xfmt ((List.range v.insCount).map v.insLane)) := by
  have hk : v.insCount ≤ laneCount (laneBits v.xfmt) := by
    refine max_le ?_ hi
    split
    · exact le_rfl
    · exact v.old.valid_le _
  refine wideLanes_isLanes _ hk fun l _ => ?_
  rw [Env.insLane]
  split
  · exact lane_eq_ofNat _ _ _
  · exact lane_eq_ofNat _ _ _

/-- Lane l of VPERM (R153). -/
def Env.permLane (v : Env) (l : Nat) : Nat :=
  if laneAt v.b.bits.toNat 8 l < v.a.valid (laneBits v.xfmt) then v.aLane (laneBits v.xfmt) (laneAt v.b.bits.toNat 8 l) else 0

theorem vperm_badFormat (h : Decides (.vperm o) s v) (ha : MovesFrom v [v.a, v.b]) (hf : v.xfmt ∈ [11, 12, 13]) : Traps (.vperm o) s v .badFormat 0 0 0 :=
  traps_of_fire _ h rfl (exec_vperm o s) ((moveSem_go ha).trans (if_pos (by simpa [or_assoc] using hf)))

theorem vperm_goes (h : Decides (.vperm o) s v) (ha : MovesFrom v [v.a, v.b]) (hf : v.xfmt ∉ [11, 12, 13]) :
    Goes (.vperm o) s v (Go.both 2 (laneVal true (laneBits v.xfmt) v.xfmt ((List.range (v.a.valid (laneBits v.xfmt))).map v.permLane))) :=
  goes_of_fire _ h rfl (exec_vperm o s) ((moveSem_go ha).trans (if_neg (by simpa [or_assoc] using hf)))

theorem permLane_value (v : Env) (l : Nat) : (if (lane v.b 8 l).toNat < v.a.valid (laneBits v.xfmt) then lane v.a (laneBits v.xfmt) (lane v.b 8 l).toNat else 0) =
    BitVec.ofNat (laneBits v.xfmt) (v.permLane l) := by
  rw [Env.permLane, lane_toNat]
  split
  · exact lane_eq_ofNat _ _ _
  · rfl

/-- The distance of VSLIDE (R153). -/
theorem slide_distance (v : Env) : sextN v.b.n64 8 = (lane v.b 8 0).toInt := by
  rw [v.b.n64_eq_mod, sextN, Nat.mod_mod_of_dvd _ (Nat.pow_dvd_pow 2 (by decide)), ← sextN, sextN_eq_toInt, lane_eq_ofNat]
  congr 1
  apply BitVec.eq_of_toNat_eq
  simp [laneAt]

/-- Lane l of VSLIDE. -/
def Env.slideLane (v : Env) (l : Nat) : Nat :=
  if 0 ≤ (l : Int) + sextN v.b.n64 8 ∧ (l : Int) + sextN v.b.n64 8 < v.a.valid (laneBits v.xfmt) then
    v.aLane (laneBits v.xfmt) ((l : Int) + sextN v.b.n64 8).toNat else 0

theorem vslide_goes (h : Decides (.vslide o) s v) (ha : MovesFrom v [v.a]) :
    Goes (.vslide o) s v (Go.both 1 (laneVal true (laneBits v.xfmt) v.xfmt ((List.range (v.a.valid (laneBits v.xfmt))).map v.slideLane))) :=
  goes_of_fire _ h rfl (exec_vslide o s) (moveSem_go ha)

theorem slideLane_value (v : Env) (l : Nat) : (if 0 ≤ (l : Int) + (lane v.b 8 0).toInt ∧ (l : Int) + (lane v.b 8 0).toInt < v.a.valid (laneBits v.xfmt) then
    lane v.a (laneBits v.xfmt) ((l : Int) + (lane v.b 8 0).toInt).toNat else 0) = BitVec.ofNat (laneBits v.xfmt) (v.slideLane l) := by
  rw [Env.slideLane, slide_distance]
  split
  · exact lane_eq_ofNat _ _ _
  · rfl

theorem vmask_goes (h : Decides (.vmask o) s v) (ha : MovesFrom v [v.a]) : Goes (.vmask o) s v
    { Go.both 1 { bits := BitVec.ofNat 512 v.laneMask, fmt := 0, vl := 2 } with pred := v.laneMask != 0 } :=
  goes_of_fire _ h rfl (exec_vmask o s) (moveSem_go ha)

/-- The lanes that VCOMPRESS keeps (R154). -/
def Env.keptLanes (v : Env) : List Nat := (List.range (v.a.valid (laneBits v.xfmt))).filter fun l => v.b.bits.getLsbD l

theorem vcompress_none (h : Decides (.vcompress o) s v) (ha : MovesFrom v [v.a, v.b]) (hl : v.keptLanes = []) : Goes (.vcompress o) s v { lat := 2 } := by
  refine goes_of_fire _ h rfl (exec_vcompress o s) ((moveSem_go ha).trans (if_pos ?_))
  rw [List.isEmpty_iff, List.map_eq_nil_iff]
  exact hl

theorem vcompress_goes (h : Decides (.vcompress o) s v) (ha : MovesFrom v [v.a, v.b]) (hl : v.keptLanes ≠ []) : Goes (.vcompress o) s v
    { Go.both 2 (laneVal true (laneBits v.xfmt) v.xfmt (v.keptLanes.map (v.aLane (laneBits v.xfmt)))) with pred := true } := by
  refine goes_of_fire _ h rfl (exec_vcompress o s) ((moveSem_go ha).trans (if_neg ?_))
  rw [List.isEmpty_iff, List.map_eq_nil_iff]
  exact hl

theorem keptVal_isLanes (v : Env) : IsLanes true (laneBits v.xfmt) v.xfmt v.keptLanes.length (fun n => lane v.a (laneBits v.xfmt) (v.keptLanes.getD n 0))
    (laneVal true (laneBits v.xfmt) v.xfmt (v.keptLanes.map (v.aLane (laneBits v.xfmt)))) := by
  have hk : v.keptLanes.length ≤ laneCount (laneBits v.xfmt) :=
    (List.length_filter_le _ _).trans (List.length_range.le.trans (v.a.valid_le _))
  rw [map_eq_map_range _ 0]
  exact wideLanes_isLanes _ hk fun n _ => lane_eq_ofNat _ _ _

/-- VLANEID numbers the lanes of a width (R155). -/
def Env.laneIds (v : Env) (w : Nat) : Val := laneVal true w (if w = 32 then 3 else 0) ((List.range (512 / w)).map fun l => l + v.b.n64)

theorem vlaneid_goes (h : Decides (.vlaneid o) s v) : Goes (.vlaneid o) s v (Go.both 1 (v.laneIds (if v.o.mode.val = 1 then 32 else 16))) :=
  goes_of_fire (execVlaneid o s) h rfl rfl rfl

theorem laneIds_isLanes (v : Env) {w : Nat} (hw : w = 32 ∨ w = 16) : IsLanes true w (if w = 32 then 3 else 0) (512 / w)
    (fun l => BitVec.ofNat w (l + v.b.bits.toNat % 2 ^ 64)) (v.laneIds w) := by
  rw [← v.b.n64_eq_mod]
  refine laneVal_isLanes true w _ _ _ (fun l => l + v.b.n64) (Nat.mul_div_le 512 w) (fun l _ => rfl) ?_
  rcases hw with rfl | rfl <;> decide

end

/-- Settles O33: where each instruction traps, and the lanes it writes. -/
theorem movesLanes : Obligations.MovesLanes := by
  intro o s v fmt w va ok okB okOld idx full a
  have hidx : v.idx = idx := v.idx_eq
  refine ⟨?one, ?two, fun h hbad => ?insFormat, ?pick, fun h ha hi => ?bcast, fun h ha hi => ?extr, fun h ha hi => ?insLane, fun h ha hi => ?ins,
    fun h ha hf => ?permFormat, fun h ha hf => ?perm, fun h ha => ?slide, fun h ha => ?mask, fun h ha => ?compress, fun h hm => ?ids⟩
  case one =>
    simp only [List.mem_cons, List.not_mem_nil, or_false]
    rintro i (rfl | rfl | rfl | rfl) h hbad <;> obtain rfl : o = v.o := (op_of_decides h rfl).symm
    · exact moves_badFormat (exec_vbcast v.o s) h ((movesFrom_one v v.a).not.mpr hbad)
    · exact moves_badFormat (exec_vextr v.o s) h ((movesFrom_one v v.a).not.mpr hbad)
    · exact moves_badFormat (exec_vslide v.o s) h ((movesFrom_one v v.a).not.mpr hbad)
    · exact moves_badFormat (exec_vmask v.o s) h ((movesFrom_one v v.a).not.mpr hbad)
  case two =>
    simp only [List.mem_cons, List.not_mem_nil, or_false]
    rintro i (rfl | rfl) h hbad <;> obtain rfl : o = v.o := (op_of_decides h rfl).symm
    · exact moves_badFormat (exec_vperm v.o s) h ((movesFrom_two v v.a v.b).not.mpr hbad)
    · exact moves_badFormat (exec_vcompress v.o s) h ((movesFrom_two v v.a v.b).not.mpr hbad)
  case insFormat =>
    obtain rfl : o = v.o := (op_of_decides h rfl).symm
    exact moves_badFormat (exec_vins v.o s) h ((movesFrom_two v v.a v.old).not.mpr hbad)
  case pick =>
    simp only [List.mem_cons, List.not_mem_nil, or_false]
    rintro i (rfl | rfl) h ha hi <;> obtain rfl : o = v.o := (op_of_decides h rfl).symm <;> rw [← hidx] at hi ⊢
    · exact pick_badLane (exec_vbcast v.o s) h ((movesFrom_one v v.a).mpr ha) hi
    · exact pick_badLane (exec_vextr v.o s) h ((movesFrom_one v v.a).mpr ha) hi
  case bcast =>
    obtain rfl : o = v.o := (op_of_decides h rfl).symm
    rw [← hidx] at hi ⊢
    exact ⟨_, vbcast_goes h ((movesFrom_one v v.a).mpr ha) hi, repVal_isLanes _ _⟩
  case extr =>
    obtain rfl : o = v.o := (op_of_decides h rfl).symm
    rw [← hidx] at hi ⊢
    refine ⟨_, vextr_goes h ((movesFrom_one v v.a).mpr ha) hi, ?_⟩
    have hlane : a v.idx = BitVec.ofNat w (v.aLane w v.idx) := lane_eq_ofNat _ _ _
    rw [hlane]
    exact lane0Val_isLane0 _ _
  case insLane =>
    obtain rfl : o = v.o := (op_of_decides h rfl).symm
    rw [← hidx] at hi ⊢
    exact traps_of_fire _ h rfl (exec_vins v.o s) ((moveSem_go ((movesFrom_two v v.a v.old).mpr ha)).trans (if_pos hi))
  case ins =>
    obtain rfl : o = v.o := (op_of_decides h rfl).symm
    rw [← hidx] at hi ⊢
    exact ⟨_, vins_goes h ((movesFrom_two v v.a v.old).mpr ha) hi, insVal_isLanes hi⟩
  case permFormat =>
    obtain rfl : o = v.o := (op_of_decides h rfl).symm
    exact vperm_badFormat h ((movesFrom_two v v.a v.b).mpr ha) hf
  case perm =>
    obtain rfl : o = v.o := (op_of_decides h rfl).symm
    exact ⟨_, vperm_goes h ((movesFrom_two v v.a v.b).mpr ha) hf, wideLanes_isLanes _ (v.a.valid_le _) fun l _ => permLane_value v l⟩
  case slide =>
    obtain rfl : o = v.o := (op_of_decides h rfl).symm
    exact ⟨_, vslide_goes h ((movesFrom_one v v.a).mpr ha), wideLanes_isLanes _ (v.a.valid_le _) fun l _ => slideLane_value v l⟩
  case mask =>
    obtain rfl : o = v.o := (op_of_decides h rfl).symm
    refine ⟨_, _, vmask_goes h ((movesFrom_one v v.a).mpr ha), rfl, rfl, fun j hj => ?_, ?_⟩
    · rw [BitVec.getLsbD_ofNat, v.testBit_laneMask, decide_eq_true hj, Bool.true_and]
      rfl
    · rw [bne_iff_ne, Ne, Ne, ← toNat_eq_zero_iff, toNat_word (by decide) v.laneMask_lt]
  case compress =>
    obtain rfl : o = v.o := (op_of_decides h rfl).symm
    intro l
    have hok := (movesFrom_two v v.a v.b).mpr ha
    exact ⟨fun hl => vcompress_none h hok hl, fun hl => ⟨_, vcompress_goes h hok hl, keptVal_isLanes v⟩⟩
  case ids =>
    obtain rfl : o = v.o := (op_of_decides h rfl).symm
    intro w
    exact ⟨_, vlaneid_goes h, laneIds_isLanes v (by simp only [w]; split <;> simp)⟩

end Sys2Proof.Machine
end

section
/-! SUPPORT. The reductions of lanes (R149 to R151): the sources they take, the tree, the ranks by which VARGMAX chooses, and the running sums. -/

namespace Sys2Proof.Machine

open Sys2Proof.Safety

/-! ## Sources (R124, R147) -/

/-- A reduction takes its sources. -/
def ReducesFrom (v : Env) : Prop := (v.xfmt ∈ [7, 8, 9] ∧ Carries v.xfmt v.a) ∧ Carries v.xfmt v.b

section

variable {v : Env} {f : Env → Nat → Nat → Nat → Dec}

theorem arithGuard_iff : (!isIeee v.xfmt || !codeOk v.xfmt v.a || !codeOk v.xfmt v.b) = true ↔ ¬ ReducesFrom v := by
  rw [ReducesFrom, ← isIeee_iff, ← codeOk_iff, ← codeOk_iff]
  simp [and_assoc, or_assoc, imp_iff_not_or]

theorem arithSem_go (h : ReducesFrom v) : arithSem f v = f v v.xfmt (laneBits v.xfmt) (v.a.valid (laneBits v.xfmt)) :=
  if_neg (arithGuard_iff.not.mpr (not_not.mpr h))

theorem reduces_badFormat {i : Instr} {s : State} (hex : exec i s = fire (arithSem f) i s) (h : Decides i s v) (hbad : ¬ ReducesFrom v) :
    Traps i s v .badFormat 0 0 0 :=
  traps_of_fire _ h rfl hex (if_pos (arithGuard_iff.mpr hbad))

end

/-! ## The tree (R149) -/

/-- The tree of A's valid lanes. -/
def Env.laneTree (v : Env) (op : Nat → Nat → Nat × Flags) : Option (Nat × Flags) :=
  treeReduce op (fun l => if l < v.a.valid (laneBits v.xfmt) then some (lane v.a (laneBits v.xfmt) l).toNat else none) 0
    (if laneBits v.xfmt = 32 then 4 else 5)

/-- The result of a reduction: the tree combined with lane 0 of B. -/
def Env.reduction (v : Env) (op : Nat → Nat → Nat × Flags) : Nat × Flags :=
  let b0 := (lane v.b (laneBits v.xfmt) 0).toNat
  match v.laneTree op with
  | some (x, f) => ((op b0 x).1, (op b0 x).2 ||| f)
  | none => (if (decodeIeee v.xfmt b0).isNan then canonNan v.xfmt else b0, sigFlag [decodeIeee v.xfmt b0])

/-- A reduction writes the result of its operation. -/
theorem reduceFire_goes {i : Instr} {s : State} {v : Env} {lat : Nat} {op : Rm → Nat → Nat → Nat → Nat × Flags} (hex : exec i s = reduceFire lat op i s)
    (h : Decides i s v) (hok : ReducesFrom v) :
    let r := v.reduction (op v.rm v.xfmt)
    Goes i s v { Go.both lat (lane0Val v.xfmt r.1) with flags := r.2 } := by
  refine goes_of_fire _ h hex rfl ((arithSem_go hok).trans ?_)
  simp only [Env.reduction, Env.laneTree, lane_toNat]
  rfl

/-- What a reduction writes, by its tree: lane 0 of B combined with the tree's value, or lane 0 of B alone where no lane of A is valid. -/
def IsReduction (v : Env) (op : Nat → Nat → Nat × Flags) (r : Val) (f : Flags) : Prop :=
  let b0 := (lane v.b (laneBits v.xfmt) 0).toNat
  match v.laneTree op with
  | some (x, g) => IsLane0 (laneBits v.xfmt) v.xfmt (BitVec.ofNat _ (op b0 x).1) r ∧ f = (op b0 x).2 ||| g
  | none => IsLane0 (laneBits v.xfmt) v.xfmt (BitVec.ofNat _ (if (decodeIeee v.xfmt b0).isNan then canonNan v.xfmt else b0)) r ∧
      f = if (decodeIeee v.xfmt b0).isSnan then fNV else 0

theorem sigFlag_one (x : Num) : sigFlag [x] = if x.isSnan = true then fNV else 0 := by simp [sigFlag, flagIf]

theorem reduction_isReduction (v : Env) (op : Nat → Nat → Nat × Flags) : IsReduction v op (lane0Val v.xfmt (v.reduction op).1) (v.reduction op).2 := by
  rw [IsReduction, Env.reduction]
  cases v.laneTree op with
  | none => exact ⟨lane0Val_isLane0 _ _, sigFlag_one _⟩
  | some p => exact ⟨lane0Val_isLane0 _ _, rfl⟩

/-- VREDADD, VREDMAX and VREDMIN (R149). -/
theorem reduceFire_result {i : Instr} {s : State} {v : Env} {lat : Nat} {op : Rm → Nat → Nat → Nat → Nat × Flags} (hex : exec i s = reduceFire lat op i s)
    (h : Decides i s v) (hok : ReducesFrom v) :
    ∃ r f, Goes i s v { lat := lat, d1 := some r, d2 := some r, flags := f } ∧ IsReduction v (op v.rm v.xfmt) r f :=
  ⟨_, _, reduceFire_goes hex h hok, reduction_isReduction v _⟩

/-! ## The greatest lane (R150) -/

/-- The rank of a number among lanes: NaN below every number, and -0 below +0. -/
noncomputable def Num.rank (x : Num) : WithBot (EReal ×ₗ Bool) :=
  if x.isNan then ⊥ else ((toLex (x.position, !(x.isZero && x.neg?)) : EReal ×ₗ Bool) : WithBot (EReal ×ₗ Bool))

theorem Num.isZero_iff_position {x : Num} (hx : x.isNan = false) : x.isZero = true ↔ x.position = 0 := by
  cases x with
  | nan q => cases hx
  | inf n => cases n <;> simp [Num.isZero, Num.position]
  | fin n m e =>
    have h2 : (2 : ℚ) ^ e ≠ 0 := by positivity
    have hz : ratOf (.fin n m e) = 0 ↔ m = 0 := by rw [ratOf_fin]; cases n <;> simp [h2]
    simp [Num.isZero, Num.position, hz]

theorem Num.less_iff {x y : Num} (hx : x.isNan = false) (hy : y.isNan = false) : x.less y = true ↔
    toLex (x.position, !(x.isZero && x.neg?)) < toLex (y.position, !(y.isZero && y.neg?)) := by
  rw [Prod.Lex.toLex_lt_toLex, less, cmp_eq_compare_position hx hy]
  rcases lt_trichotomy x.position y.position with h | h | h
  · rw [compare_lt_iff_lt.mpr h]
    exact iff_of_true rfl (.inl h)
  · have hz : x.isZero = y.isZero := by rw [Bool.eq_iff_iff, isZero_iff_position hx, isZero_iff_position hy, h]
    rw [compare_eq_iff_eq.mpr h]
    simp only [h, lt_irrefl, false_or, true_and, hz, Bool.lt_iff]
    cases y.isZero <;> cases x.neg? <;> cases y.neg? <;> decide
  · rw [compare_gt_iff_gt.mpr h]
    exact iff_of_false Bool.false_ne_true (not_or.mpr ⟨h.asymm, fun he => h.ne he.1.symm⟩)

theorem ranksAbove_iff (x y : Num) : ranksAbove x y = true ↔ y.rank < x.rank := by
  rw [ranksAbove, Num.rank, Num.rank]
  cases hx : x.isNan with
  | true => simp
  | false =>
    cases hy : y.isNan with
    | true => simp
    | false => simpa using Num.less_iff hy hx

/-- The winner has the highest rank, and stands before every other lane of that rank. -/
theorem argmaxLane_spec (ln : Nat → Num) (n : Nat) : argmaxLane ln n ≤ n ∧ (∀ m ≤ n, (ln m).rank ≤ (ln (argmaxLane ln n)).rank) ∧
    ∀ m < argmaxLane ln n, (ln m).rank < (ln (argmaxLane ln n)).rank := by
  induction n with
  | zero => exact ⟨le_rfl, fun m hm => by rw [Nat.le_zero.mp hm]; rfl, fun m hm => absurd hm (Nat.not_lt_zero m)⟩
  | succ n ih =>
    obtain ⟨hle, hmax, hfirst⟩ := ih
    rw [argmaxLane]
    simp only [ranksAbove_iff]
    split
    next hw =>
      have hlt : ∀ m ≤ n, (ln m).rank < (ln (n + 1)).rank := fun m hm => (hmax m hm).trans_lt hw
      refine ⟨le_rfl, fun m hm => ?_, fun m hm => hlt m (by omega)⟩
      rcases hm.eq_or_lt with rfl | hm
      · exact le_rfl
      · exact (hlt m (by omega)).le
    next hw =>
      refine ⟨by omega, fun m hm => ?_, hfirst⟩
      rcases hm.eq_or_lt with rfl | hm
      · exact not_lt.mp hw
      · exact hmax m (by omega)

/-- A list of operands sets NV exactly where one of them signals. -/
theorem sigFlag_lanes (n : Nat) (ln : Nat → Num) : let f := sigFlag ((List.range n).map ln)
    (f = 0 ∨ f = fNV) ∧ (f = fNV ↔ ∃ m < n, (ln m).isSnan = true) := by
  intro f
  have hany : ((List.range n).map ln).any Num.isSnan = true ↔ ∃ m < n, (ln m).isSnan = true := by simp
  simp only [f, sigFlag, flagIf]
  split
  next h => exact ⟨.inr rfl, iff_of_true rfl (hany.mp h)⟩
  next h => exact ⟨.inl rfl, iff_of_false (by decide) (hany.not.mp h)⟩

/-- The lanes of A as numbers. -/
def Env.laneNum (v : Env) (l : Nat) : Num := decodeIeee v.xfmt (lane v.a (laneBits v.xfmt) l).toNat

/-- The winner of VARGMAX. -/
def Env.winner (v : Env) : Nat := argmaxLane v.laneNum (v.a.valid (laneBits v.xfmt) - 1)

/-- What VARGMAX does. -/
def Env.argmaxGo (v : Env) : Go :=
  { lat := 4
    d1 := some (lane0Val v.xfmt (if (v.laneNum v.winner).isNan then canonNan v.xfmt else (lane v.a (laneBits v.xfmt) v.winner).toNat))
    d2 := some (lane0Val 4 (v.b.n64 + v.winner)), flags := sigFlag ((List.range (v.a.valid (laneBits v.xfmt))).map v.laneNum) }

theorem exec_vargmax (o : Op) (s : State) : exec (.vargmax o) s = fire (arithSem fun v fmt w va =>
    let ln := fun l => decodeIeee fmt (v.aLane w l)
    let l := argmaxLane ln (va - 1)
    .go { lat := 4, d1 := some (lane0Val fmt (if (ln l).isNan then canonNan fmt else v.aLane w l)), d2 := some (lane0Val 4 (v.b.n64 + l))
          flags := sigFlag ((List.range va).map ln) }) (.vargmax o) s := rfl

theorem vargmax_goes {o : Op} {s : State} {v : Env} (h : Decides (.vargmax o) s v) (hok : ReducesFrom v) : Goes (.vargmax o) s v v.argmaxGo := by
  refine goes_of_fire _ h rfl (exec_vargmax o s) ((arithSem_go hok).trans ?_)
  have hln : v.laneNum = fun l => decodeIeee v.xfmt (v.aLane (laneBits v.xfmt) l) := by
    funext l
    rw [Env.laneNum, lane_toNat]
    rfl
  simp only [Env.argmaxGo, Env.winner, hln, lane_toNat]
  rfl

/-! ## Running sums (R151) -/

/-- The rounded sum of two lanes. -/
def laneSum (rm : Rm) (fmt x y : Nat) : Nat × Flags :=
  sumOut rm fmt (decodeIeee fmt x) (decodeIeee fmt y) (sigFlag [decodeIeee fmt x, decodeIeee fmt y])

/-- The sum of the first n lanes from an accumulator on, each step rounded. -/
def runningSum (rm : Rm) (fmt acc : Nat) (g : Nat → Nat) (n : Nat) : Nat := (List.range n).foldl (fun x j => (laneSum rm fmt x (g j)).1) acc

theorem runningSum_succ (rm : Rm) (fmt acc : Nat) (g : Nat → Nat) (n : Nat) :
    runningSum rm fmt acc g (n + 1) = (laneSum rm fmt (runningSum rm fmt acc g n) (g n)).1 := by
  simp [runningSum, List.range_succ]

theorem scanSums_append (rm : Rm) (fmt : Nat) (l : List Nat) (y : Nat) : ∀ acc,
    let p := laneSum rm fmt (l.foldl (fun x y => (laneSum rm fmt x y).1) acc) y
    scanSums rm fmt acc (l ++ [y]) = ((scanSums rm fmt acc l).1 ++ [p.1], (scanSums rm fmt acc l).2 ||| p.2) := by
  induction l with
  | nil => intro acc; simp [scanSums, laneSum]
  | cons z l ih =>
    intro acc
    have hstep : ∀ r, scanSums rm fmt acc (z :: r) =
        ((laneSum rm fmt acc z).1 :: (scanSums rm fmt (laneSum rm fmt acc z).1 r).1, (laneSum rm fmt acc z).2 ||| (scanSums rm fmt (laneSum rm fmt acc z).1 r).2) :=
      fun r => rfl
    simp only [List.cons_append, hstep, ih, List.foldl_cons, BitVec.or_assoc]

theorem flagsOver_succ (n : Nat) (f : Nat → Flags) : flagsOver (n + 1) f = flagsOver n f ||| f n := by
  have hinit : ∀ (l : List Nat) (c : Flags), l.foldr (fun l acc => f l ||| acc) c = l.foldr (fun l acc => f l ||| acc) 0 ||| c := by
    intro l c
    induction l with
    | nil => simp
    | cons x l ih => simp only [List.foldr_cons, ih, BitVec.or_assoc]
  rw [flagsOver, List.range_succ, List.foldr_append, hinit]
  simp [flagsOver]

/-- The running sums of n lanes. -/
theorem scanSums_range (rm : Rm) (fmt acc : Nat) (g : Nat → Nat) (n : Nat) : scanSums rm fmt acc ((List.range n).map g) =
    ((List.range n).map fun l => runningSum rm fmt acc g (l + 1), flagsOver n fun l => (laneSum rm fmt (runningSum rm fmt acc g l) (g l)).2) := by
  induction n with
  | zero => rfl
  | succ n ih =>
    rw [flagsOver_succ, List.range_succ, List.map_append, List.map_append, List.map_singleton, List.map_singleton, scanSums_append, ih, List.foldl_map,
      runningSum_succ]
    rfl

/-- What VSCAN does. -/
def Env.scanGo (v : Env) : Go :=
  let g := fun l => (lane v.a (laneBits v.xfmt) l).toNat
  let acc := runningSum v.rm v.xfmt (lane v.b (laneBits v.xfmt) 0).toNat g
  let n := v.a.valid (laneBits v.xfmt)
  let x := laneVal true (laneBits v.xfmt) v.xfmt ((List.range n).map fun l => acc (l + 1))
  { lat := 8, d1 := some x, d2 := some x, flags := flagsOver n fun l => (laneSum v.rm v.xfmt (acc l) (g l)).2 }

theorem exec_vscan (o : Op) (s : State) : exec (.vscan o) s = fire (arithSem fun v fmt w va =>
    let r := scanSums v.rm fmt (laneAt v.b.bits.toNat w 0) ((List.range va).map (v.aLane w))
    .go { Go.both 8 (laneVal true w fmt r.1) with flags := r.2 }) (.vscan o) s := rfl

theorem vscan_goes {o : Op} {s : State} {v : Env} (h : Decides (.vscan o) s v) (hok : ReducesFrom v) : Goes (.vscan o) s v v.scanGo := by
  refine goes_of_fire _ h rfl (exec_vscan o s) ((arithSem_go hok).trans ?_)
  simp only [scanSums_range, Env.scanGo, lane_toNat]
  rfl

end Sys2Proof.Machine
end

section
/-! SUPPORT. The dot product (R152): the encoder beyond the largest value, exact sums of terms that are infinite or finite, and the five cases of the total; then the
statement about the reductions. -/

namespace Sys2Proof.Machine

open Sys2Proof.Safety

/-! ## Encodings are lanes of their format (R88) -/

/-- Whether a value beyond the largest goes to infinity under a mode. -/
def overflowsUp (rm : Rm) (neg : Bool) : Bool := match rm with | .rne => true | .rtz => false | .rup => !neg | .rdn => neg

/-- A rounding that reaches the code of the infinity overflows. -/
theorem encodeIeee_of_overflow {f m : Nat} (rm : Rm) (s : Bool) {e : Int} (hm : m ≠ 0)
    (h : infCode f ≤ bodyOf f (roundTo rm s m e (ulpExp f m e)).1 (ulpExp f m e)) :
    encodeIeee f rm s m e = (signPart f s + infCode f - (if overflowsUp rm s then 0 else 1), fOF ||| fNX) :=
  (if_neg hm).trans ((if_pos h).trans (by cases rm <;> cases s <;> rfl))

/-- The encoding of a finite value is a lane of the format. -/
theorem encodeIeee_lt (f : Nat) (rm : Rm) (s : Bool) (m : Nat) (e : Int) : (encodeIeee f rm s m e).1 < 2 ^ (expBits f + fracBits f + 1) := by
  have hs : signPart f s ≤ 2 ^ (expBits f + fracBits f) := by cases s <;> simp [signPart]
  have hinf := infCode_lt f
  have hpow : 2 ^ (expBits f + fracBits f + 1) = 2 ^ (expBits f + fracBits f) + 2 ^ (expBits f + fracBits f) := by rw [Nat.pow_succ]; omega
  by_cases hm : m = 0
  · rw [hm, encodeIeee_zero]
    simp only
    have := Nat.two_pow_pos (expBits f + fracBits f)
    omega
  · by_cases hb : infCode f ≤ bodyOf f (roundTo rm s m e (ulpExp f m e)).1 (ulpExp f m e)
    · rw [encodeIeee_of_overflow rm s hm hb]
      simp only
      omega
    · obtain ⟨big, tiny, he⟩ := encodeIeee_eq (f := f) rm s e hm
      rw [he]
      simp only [if_neg hb]
      omega

theorem ieeeInf_lt (f : Nat) (n : Bool) : ieeeInf f n < 2 ^ (expBits f + fracBits f + 1) := by
  have hs : signPart f n ≤ 2 ^ (expBits f + fracBits f) := by cases n <;> simp [signPart]
  have hinf := infCode_lt f
  rw [ieeeInf_eq, Nat.pow_succ]
  omega

/-! ## Exact sums of terms -/

theorem InfiniteProduct.of_mul_eq {x y : Num} {n : Bool} (h : Num.mul x y = .inf n) : InfiniteProduct x y n := by
  match x, y with
  | .nan p, .nan q => cases h
  | .nan p, .inf l => cases h
  | .nan p, .fin l m e => cases h
  | .inf k, .nan q => cases h
  | .fin k m e, .nan q => cases h
  | .inf k, .inf l =>
    rw [Num.mul_inf_inf] at h
    exact ⟨k, l, (Num.inf.inj h).symm, .inl ⟨rfl, .inl rfl⟩⟩
  | .inf k, .fin l m e =>
    rw [Num.mul_inf_fin] at h
    split at h
    · cases h
    next hm => exact ⟨k, l, (Num.inf.inj h).symm, .inl ⟨rfl, .inr ⟨m, e, rfl, hm⟩⟩⟩
  | .fin k m e, .inf l =>
    rw [Num.mul_fin_inf] at h
    split at h
    · cases h
    next hm => exact ⟨k, l, (Num.inf.inj h).symm, .inr ⟨rfl, m, e, rfl, hm⟩⟩
  | .fin k m e, .fin l j g => cases h

theorem mul_eq_inf_iff (x y : Num) (n : Bool) : Num.mul x y = .inf n ↔ InfiniteProduct x y n := ⟨.of_mul_eq, InfiniteProduct.mul_eq⟩

/-- A product is NaN where an operand is, and where it is 0 × ∞. -/
theorem isNan_mul_iff (x y : Num) : (Num.mul x y).isNan = true ↔ (x.isNan = true ∨ y.isNan = true) ∨ ZeroTimesInf x y := by
  constructor
  · intro h
    by_cases hn : x.isNan = true ∨ y.isNan = true
    · exact .inl hn
    · rw [not_or, Bool.not_eq_true, Bool.not_eq_true] at hn
      exact .inr ((badProduct_iff x y).mp (by rw [badProduct, hn.1, hn.2, h]; rfl))
  · rintro (h | h)
    · exact Num.isNan_mul_of_isNan h
    · rw [h.mul_eq]; rfl

/-- A number of an exact sum that has no term of the other infinity. -/
def OneSided (n : Bool) (x : Num) : Prop := x = .inf n ∨ ∃ k m e, x = .fin k m e

theorem oneSided_of {n : Bool} {x : Num} (hn : x.isNan = false) (hi : x ≠ .inf (!n)) : OneSided n x := by
  cases x with
  | nan q => cases hn
  | inf k =>
    have hk : k = n := by
      cases k <;> cases n <;> simp at hi ⊢
    exact .inl (by rw [hk])
  | fin k m e => exact .inr ⟨k, m, e, rfl⟩

/-- An infinite term of one sign decides an exact sum. -/
theorem foldl_add_inf (rm : Rm) (n : Bool) (l : List Num) : ∀ x : Num, OneSided n x → (∀ y ∈ l, OneSided n y) → (x = .inf n ∨ .inf n ∈ l) →
    l.foldl (Num.add rm) x = .inf n := by
  induction l with
  | nil => exact fun x _ _ h => h.resolve_right List.not_mem_nil
  | cons y l ih =>
    intro x hx hl h
    have hy := hl y List.mem_cons_self
    have hl' : ∀ z ∈ l, OneSided n z := fun z hz => hl z (List.mem_cons_of_mem _ hz)
    rw [List.foldl_cons]
    rcases hx with rfl | ⟨k, m, e, rfl⟩
    · have hadd : Num.add rm (.inf n) y = .inf n := by
        rcases hy with rfl | ⟨k, m, e, rfl⟩ <;> simp
      exact ih _ (.inl hadd) hl' (.inl hadd)
    · rcases hy with rfl | ⟨j, q, g, rfl⟩
      · exact ih _ (.inl (Num.add_fin_inf ..)) hl' (.inl (Num.add_fin_inf ..))
      · obtain ⟨a, b, c, hadd⟩ := Num.add_fin_fin rm k j m q e g
        have hmem : .inf n ∈ l := by simpa using h
        exact ih _ (.inr ⟨a, b, c, hadd⟩) hl' (.inr hmem)

/-- The sum of finite numbers is exact, under every mode. -/
theorem ratOf_foldl_add (rm : Rm) (l : List Num) : ∀ x : Num, (∃ k m e, x = .fin k m e) → (∀ y ∈ l, ∃ k m e, y = .fin k m e) →
    ratOf (l.foldl (Num.add rm) x) = ratOf x + (l.map ratOf).sum := by
  induction l with
  | nil => exact fun x _ _ => by simp
  | cons y l ih =>
    rintro x ⟨k, m, e, rfl⟩ hl
    obtain ⟨j, q, g, rfl⟩ := hl y List.mem_cons_self
    obtain ⟨a, b, c, hadd, hval, -⟩ := Num.add_fin_exact rm k j m q e g
    rw [List.foldl_cons, ih _ ⟨a, b, c, hadd⟩ fun z hz => hl z (List.mem_cons_of_mem _ hz), hadd, hval, List.map_cons, List.sum_cons, add_assoc]

/-! ## The dot product -/

/-- The terms of a dot product. -/
def dotTerms (old : Num) (pairs : List (Num × Num)) : List Num := old :: pairs.map fun p => Num.mul p.1 p.2

/-- Infinite terms of both signs. -/
def dotOpposite (old : Num) (pairs : List (Num × Num)) : Bool := (dotTerms old pairs).contains (.inf true) && (dotTerms old pairs).contains (.inf false)

/-- The flags of a dot product before its rounding: of its operands, and of invalid products and sums. -/
def dotFlags (old : Num) (pairs : List (Num × Num)) : Flags :=
  sigFlag (old :: pairs.flatMap fun p => [p.1, p.2]) ||| flagIf (pairs.any (fun p => badProduct p.1 p.2) || dotOpposite old pairs) fNV

/-- The total of a dot product, rounded once to FP32, with all its flags. -/
def dotOut (rm : Rm) (old : Num) (pairs : List (Num × Num)) : Nat × Flags :=
  let r := if dotOpposite old pairs || (dotTerms old pairs).any Num.isNan then (canonNan 7, 0)
    else encodeFloat 7 rm ((pairs.map fun p => Num.mul p.1 p.2).foldl (Num.add rm) old)
  (r.1, dotFlags old pairs ||| r.2)

section

variable {old : Num} {pairs : List (Num × Num)}

/-- The dot product has a term that is the infinity of sign n. -/
def HasInfTerm (old : Num) (pairs : List (Num × Num)) (n : Bool) : Prop := old = .inf n ∨ ∃ p ∈ pairs, InfiniteProduct p.1 p.2 n

theorem hasInfTerm_iff (n : Bool) : HasInfTerm old pairs n ↔ .inf n ∈ dotTerms old pairs := by
  rw [HasInfTerm, dotTerms, List.mem_cons, List.mem_map, eq_comm]
  simp only [mul_eq_inf_iff]

theorem dotOpposite_iff : dotOpposite old pairs = true ↔ HasInfTerm old pairs true ∧ HasInfTerm old pairs false := by
  rw [dotOpposite, Bool.and_eq_true, List.contains_iff_mem, List.contains_iff_mem, hasInfTerm_iff, hasInfTerm_iff]

theorem any_badProduct_iff : (pairs.any fun p => badProduct p.1 p.2) = true ↔ ∃ p ∈ pairs, ZeroTimesInf p.1 p.2 := by
  rw [List.any_eq_true]
  simp only [badProduct_iff]

/-- An operand of the dot product is NaN. -/
def HasNan (old : Num) (pairs : List (Num × Num)) : Prop := old.isNan = true ∨ ∃ p ∈ pairs, p.1.isNan = true ∨ p.2.isNan = true

/-- An operand of the dot product is a signalling NaN. -/
def HasSnan (old : Num) (pairs : List (Num × Num)) : Prop := old.isSnan = true ∨ ∃ p ∈ pairs, p.1.isSnan = true ∨ p.2.isSnan = true

theorem any_isNan_iff : (dotTerms old pairs).any Num.isNan = true ↔ HasNan old pairs ∨ ∃ p ∈ pairs, ZeroTimesInf p.1 p.2 := by
  rw [dotTerms, List.any_cons, Bool.or_eq_true, List.any_map, List.any_eq_true]
  simp only [Function.comp, isNan_mul_iff, and_or_left, exists_or, HasNan, or_assoc]

theorem sigFlag_operands_eq (old : Num) (pairs : List (Num × Num)) [Decidable (HasSnan old pairs)] :
    sigFlag (old :: pairs.flatMap fun p => [p.1, p.2]) = if HasSnan old pairs then fNV else 0 := by
  have hany : ((old :: pairs.flatMap fun p => [p.1, p.2]).any Num.isSnan) = true ↔ HasSnan old pairs := by
    simp [HasSnan, List.any_flatMap]
  rw [sigFlag, flagIf]
  exact if_congr hany rfl rfl

/-- A NaN among the operands gives the canonical NaN. -/
theorem dotOut_of_nan (rm : Rm) (h : HasNan old pairs) : (dotOut rm old pairs).1 = canonNan 7 := by
  rw [dotOut, any_isNan_iff.mpr (.inl h), Bool.or_true, if_pos rfl]

/-- 0 × ∞ and opposite infinities give it with NV. -/
theorem dotOut_of_invalid (rm : Rm) (h : (∃ p ∈ pairs, ZeroTimesInf p.1 p.2) ∨ (HasInfTerm old pairs true ∧ HasInfTerm old pairs false)) :
    dotOut rm old pairs = (canonNan 7, fNV) := by
  have hstop : (dotOpposite old pairs || (dotTerms old pairs).any Num.isNan) = true := by
    rw [Bool.or_eq_true, dotOpposite_iff, any_isNan_iff]
    exact h.symm.imp_right .inr
  have hflag : (pairs.any (fun p => badProduct p.1 p.2) || dotOpposite old pairs) = true := by
    rwa [Bool.or_eq_true, dotOpposite_iff, any_badProduct_iff]
  have hor : ∀ c : Bool, flagIf c fNV ||| fNV ||| 0 = fNV := by decide
  rw [dotOut, hstop, if_pos rfl, dotFlags, hflag]
  exact Prod.ext rfl (hor _)

/-- Without those the flags before the rounding are those of signalling operands. -/
theorem dotFlags_of_valid [Decidable (HasSnan old pairs)] (hz : ¬ ∃ p ∈ pairs, ZeroTimesInf p.1 p.2)
    (ho : ¬ (HasInfTerm old pairs true ∧ HasInfTerm old pairs false)) : dotFlags old pairs = if HasSnan old pairs then fNV else 0 := by
  have hflag : (pairs.any (fun p => badProduct p.1 p.2) || dotOpposite old pairs) = false := by
    rw [Bool.eq_false_iff, ne_eq, Bool.or_eq_true, dotOpposite_iff, any_badProduct_iff]
    exact not_or.mpr ⟨hz, ho⟩
  rw [dotFlags, hflag, sigFlag_operands_eq]
  exact BitVec.or_zero

theorem dotOut_flags_of_nan [Decidable (HasSnan old pairs)] (rm : Rm) (h : HasNan old pairs) (hz : ¬ ∃ p ∈ pairs, ZeroTimesInf p.1 p.2)
    (ho : ¬ (HasInfTerm old pairs true ∧ HasInfTerm old pairs false)) : (dotOut rm old pairs).2 = if HasSnan old pairs then fNV else 0 := by
  rw [dotOut, any_isNan_iff.mpr (.inl h), Bool.or_true, if_pos rfl, dotFlags_of_valid hz ho]
  exact BitVec.or_zero

theorem not_hasSnan (h : ¬ HasNan old pairs) : ¬ HasSnan old pairs := by
  have hs : ∀ x : Num, x.isSnan = true → x.isNan = true := fun x hx => by
    by_contra hn
    rw [Num.isSnan_of_not_isNan (Bool.eq_false_iff.mpr hn)] at hx
    cases hx
  exact fun hsn => h (hsn.imp (hs _) fun ⟨p, hp, hq⟩ => ⟨p, hp, hq.imp (hs _) (hs _)⟩)

/-- Numbers alone, without 0 × ∞ and opposite infinities: the exact total is encoded once. -/
theorem dotOut_of_valid (rm : Rm) (hn : ¬ HasNan old pairs) (hz : ¬ ∃ p ∈ pairs, ZeroTimesInf p.1 p.2)
    (ho : ¬ (HasInfTerm old pairs true ∧ HasInfTerm old pairs false)) :
    dotOut rm old pairs = encodeFloat 7 rm ((pairs.map fun p => Num.mul p.1 p.2).foldl (Num.add rm) old) := by
  classical
  have hgo : ¬ (dotOpposite old pairs || (dotTerms old pairs).any Num.isNan) = true := by
    rw [Bool.or_eq_true, dotOpposite_iff, any_isNan_iff]
    exact not_or.mpr ⟨ho, not_or.mpr ⟨hn, hz⟩⟩
  rw [dotOut, if_neg hgo, dotFlags_of_valid hz ho, if_neg (not_hasSnan hn)]
  exact Prod.ext rfl BitVec.zero_or

/-- Infinite terms of one sign. -/
theorem dotOut_of_inf (rm : Rm) {n : Bool} (hn : ¬ HasNan old pairs) (hz : ¬ ∃ p ∈ pairs, ZeroTimesInf p.1 p.2) (ht : HasInfTerm old pairs n)
    (hnot : ¬ HasInfTerm old pairs (!n)) : dotOut rm old pairs = (ieeeInf 7 n, 0) := by
  have ho : ¬ (HasInfTerm old pairs true ∧ HasInfTerm old pairs false) := by
    rintro ⟨h1, h2⟩
    cases n
    · exact hnot h1
    · exact hnot h2
  have hnan : ∀ y ∈ dotTerms old pairs, y.isNan = false := by
    have := any_isNan_iff.not.mpr (not_or.mpr ⟨hn, hz⟩)
    simpa using this
  have hside : ∀ y ∈ dotTerms old pairs, OneSided n y := fun y hy =>
    oneSided_of (hnan y hy) fun he => hnot ((hasInfTerm_iff _).mpr (he ▸ hy))
  have hsum : (pairs.map fun p => Num.mul p.1 p.2).foldl (Num.add rm) old = .inf n :=
    foldl_add_inf rm n _ old (hside old List.mem_cons_self) (fun y hy => hside y (List.mem_cons_of_mem _ hy))
      ((List.mem_cons.mp ((hasInfTerm_iff n).mp ht)).imp_left Eq.symm)
  rw [dotOut_of_valid rm hn hz ho, hsum, encodeFloat_inf (by decide)]

/-- Finite operands: the exact total rounded once. -/
theorem dotOut_of_fin (rm : Rm) (hold : ∃ k m e, old = .fin k m e) (hp : ∀ p ∈ pairs, (∃ k m e, p.1 = .fin k m e) ∧ ∃ k m e, p.2 = .fin k m e) :
    ∃ q, ratOf q = ratOf old + (pairs.map fun p => ratOf p.1 * ratOf p.2).sum ∧ dotOut rm old pairs = encodeFloat 7 rm q := by
  have hfin : ∀ y ∈ pairs.map fun p => Num.mul p.1 p.2, ∃ k m e, y = .fin k m e := by
    intro y hy
    obtain ⟨p, hmem, rfl⟩ := List.mem_map.mp hy
    obtain ⟨⟨k, m, e, h1⟩, ⟨l, j, g, h2⟩⟩ := hp p hmem
    exact ⟨_, _, _, by rw [h1, h2, Num.mul_fin_fin]⟩
  have hnan : ¬ HasNan old pairs := by
    rintro (h | ⟨p, hmem, h⟩)
    · obtain ⟨k, m, e, rfl⟩ := hold
      cases h
    · obtain ⟨⟨k, m, e, h1⟩, ⟨l, j, g, h2⟩⟩ := hp p hmem
      rw [h1, h2] at h
      rcases h with h | h <;> cases h
  have hz : ¬ ∃ p ∈ pairs, ZeroTimesInf p.1 p.2 := by
    rintro ⟨p, hmem, h⟩
    obtain ⟨k, m, e, hmul⟩ := hfin _ (List.mem_map_of_mem hmem)
    cases h.mul_eq.symm.trans hmul
  have hinf : ∀ n, ¬ HasInfTerm old pairs n := by
    rintro n (h | ⟨p, hmem, h⟩)
    · obtain ⟨k, m, e, rfl⟩ := hold
      cases h
    · obtain ⟨k, m, e, hmul⟩ := hfin _ (List.mem_map_of_mem hmem)
      cases h.mul_eq.symm.trans hmul
  refine ⟨_, ?_, dotOut_of_valid rm hnan hz fun h => hinf true h.1⟩
  rw [ratOf_foldl_add rm _ old hold hfin, List.map_map]
  congr 2
  refine List.map_congr_left fun p hmem => ?_
  obtain ⟨⟨k, m, e, h1⟩, ⟨l, j, g, h2⟩⟩ := hp p hmem
  rw [Function.comp, h1, h2, ratOf_mul_fin]

end

/-- The code of a dot product is a lane of FP32. -/
theorem dotOut_lt (rm : Rm) (old : Num) (pairs : List (Num × Num)) : (dotOut rm old pairs).1 < 2 ^ 32 := by
  have h7 : 7 ∈ [7, 8, 9] := by decide
  have henc : ∀ q : Num, (encodeFloat 7 rm q).1 < 2 ^ 32 := by
    intro q
    cases q with
    | nan g => rw [encodeFloat_nan h7]; exact (by decide : canonNan 7 < 2 ^ 32)
    | inf n => rw [encodeFloat_inf h7]; exact ieeeInf_lt 7 n
    | fin s m e => rw [encodeFloat_ieee h7]; exact encodeIeee_lt 7 rm s m e
  simp only [dotOut]
  split
  · decide
  · exact henc _

theorem dotVal_toNat (rm : Rm) (old : Num) (pairs : List (Num × Num)) : (lane0Val 7 (dotOut rm old pairs).1).bits.toNat = (dotOut rm old pairs).1 := by
  obtain ⟨hlane, -, -⟩ := lane0Val_isLane0 7 (dotOut rm old pairs).1
  rw [hlane]
  exact toNat_ofNat_lt (dotOut_lt rm old pairs)

/-- The old value of a VDOT. -/
def Env.dotOld (v : Env) : Num := decodeIeee 7 (lane v.old 32 0).toNat

/-- The operands of its products. -/
def Env.dotPairs (v : Env) : List (Num × Num) :=
  (List.range (min (v.a.valid (laneBits v.xfmt)) (v.b.valid (laneBits v.xfmt)))).map fun l =>
    (decodeIeee v.xfmt (lane v.a (laneBits v.xfmt) l).toNat, decodeIeee v.xfmt (lane v.b (laneBits v.xfmt) l).toNat)

theorem exec_vdot (o : Op) (s : State) : exec (.vdot o) s = fire (arithSem fun v fmt w va =>
    let r := dotOut v.rm (decodeIeee 7 (v.old.bits.toNat % 2 ^ 32)) ((List.range (min va (v.b.valid w))).map fun l =>
      (decodeIeee fmt (v.aLane w l), decodeIeee fmt (laneAt v.b.bits.toNat w l)))
    .go { Go.both 6 (lane0Val 7 r.1) with flags := r.2 }) (.vdot o) s := rfl

theorem vdot_goes {o : Op} {s : State} {v : Env} (h : Decides (.vdot o) s v) (hok : ReducesFrom v) :
    let r := dotOut v.rm v.dotOld v.dotPairs
    Goes (.vdot o) s v { Go.both 6 (lane0Val 7 r.1) with flags := r.2 } := by
  refine goes_of_fire _ h rfl (exec_vdot o s) ((arithSem_go hok).trans ?_)
  simp only [Env.dotOld, Env.dotPairs, lane_toNat]
  rfl

/-- The statement's 0 × ∞. -/
theorem zeroTimesInf_iff (p q : Num) : ZeroTimesInf p q ↔ (p.isZero = true ∧ ∃ n, q = .inf n) ∨ (q.isZero = true ∧ ∃ n, p = .inf n) := by
  have hzero : ∀ x : Num, x.isZero = true ↔ ∃ k e, x = .fin k 0 e := by
    intro x
    cases x <;> simp [Num.isZero]
  rw [hzero, hzero]
  constructor
  · rintro ⟨k, l, e, ⟨rfl, rfl⟩ | ⟨rfl, rfl⟩⟩
    · exact .inr ⟨⟨l, e, rfl⟩, k, rfl⟩
    · exact .inl ⟨⟨k, e, rfl⟩, l, rfl⟩
  · rintro (⟨⟨k, e, rfl⟩, l, rfl⟩ | ⟨⟨l, e, rfl⟩, k, rfl⟩)
    · exact ⟨k, l, e, .inr ⟨rfl, rfl⟩⟩
    · exact ⟨k, l, e, .inl ⟨rfl, rfl⟩⟩

/-! ## The statement -/

section

variable {v : Env}

theorem exists_mem_dotPairs (P : Num → Num → Prop) : (∃ p ∈ v.dotPairs, P p.1 p.2) ↔
    ∃ l < min (v.a.valid (laneBits v.xfmt)) (v.b.valid (laneBits v.xfmt)),
      P (decodeIeee v.xfmt (lane v.a (laneBits v.xfmt) l).toNat) (decodeIeee v.xfmt (lane v.b (laneBits v.xfmt) l).toNat) := by
  simp only [Env.dotPairs, List.mem_map, List.mem_range]
  constructor
  · rintro ⟨p, ⟨l, hl, rfl⟩, h⟩
    exact ⟨l, hl, h⟩
  · rintro ⟨l, hl, h⟩
    exact ⟨_, ⟨l, hl, rfl⟩, h⟩

theorem forall_mem_dotPairs (P : Num → Num → Prop) : (∀ p ∈ v.dotPairs, P p.1 p.2) ↔
    ∀ l < min (v.a.valid (laneBits v.xfmt)) (v.b.valid (laneBits v.xfmt)),
      P (decodeIeee v.xfmt (lane v.a (laneBits v.xfmt) l).toNat) (decodeIeee v.xfmt (lane v.b (laneBits v.xfmt) l).toNat) := by
  have h := (exists_mem_dotPairs (v := v) fun x y => ¬ P x y).not
  push Not at h
  exact h

end

/-- Settles O34: the traps, the trees by their operation, the winner by its rank, the running sums, and the dot product by its terms. -/
theorem reducesLanes : Obligations.ReducesLanes := by
  intro o s v fmt w va num a b0 good tree sum ops
  refine ⟨?trap, ?trees, fun h hg hb => ?argmax, fun h hg hb => ?scan, fun h hg hb => ?dot⟩
  case trap =>
    simp only [List.mem_cons, List.not_mem_nil, or_false]
    rintro i (rfl | rfl | rfl | rfl | rfl | rfl) h hbad <;> obtain rfl : o = v.o := (op_of_decides h rfl).symm
    · exact reduces_badFormat (rfl : exec (.vredadd v.o) s = reduceFire 6 laneSum (.vredadd v.o) s) h hbad
    · exact reduces_badFormat (rfl : exec (.vredmax v.o) s = reduceFire 3 (fun _ => fmaxLane) (.vredmax v.o) s) h hbad
    · exact reduces_badFormat (rfl : exec (.vredmin v.o) s = reduceFire 3 (fun _ => fminLane) (.vredmin v.o) s) h hbad
    · exact reduces_badFormat (exec_vargmax v.o s) h hbad
    · exact reduces_badFormat (exec_vscan v.o s) h hbad
    · exact reduces_badFormat (exec_vdot v.o s) h hbad
  case trees =>
    simp only [ops, List.mem_cons, List.not_mem_nil, or_false]
    rintro p (rfl | rfl | rfl) h hg hb <;> obtain rfl : o = v.o := (op_of_decides h rfl).symm
    · exact reduceFire_result (op := laneSum) rfl h ⟨hg, hb⟩
    · exact reduceFire_result (op := fun _ => fmaxLane) rfl h ⟨hg, hb⟩
    · exact reduceFire_result (op := fun _ => fminLane) rfl h ⟨hg, hb⟩
  case argmax =>
    obtain rfl : o = v.o := (op_of_decides h rfl).symm
    obtain ⟨hle, hmax, hfirst⟩ := argmaxLane_spec v.laneNum (va - 1)
    obtain ⟨hflag, hsnan⟩ := sigFlag_lanes va v.laneNum
    refine ⟨v.winner, _, _, _, hle, vargmax_goes h ⟨hg, hb⟩, lane0Val_isLane0 _ _, ?_, fun m hm => ?_, fun m hm => ?_, hflag, hsnan⟩
    · rw [← v.b.n64_eq_mod]
      exact lane0Val_isLane0 4 _
    · exact Bool.eq_false_iff.mpr ((ranksAbove_iff _ _).not.mpr (not_lt.mpr (hmax m hm)))
    · exact (ranksAbove_iff _ _).mpr (hfirst m hm)
  case scan =>
    obtain rfl : o = v.o := (op_of_decides h rfl).symm
    exact ⟨_, vscan_goes h ⟨hg, hb⟩, wideLanes_isLanes _ (v.a.valid_le _) fun _ _ => rfl⟩
  case dot =>
    obtain rfl : o = v.o := (op_of_decides h rfl).symm
    intro k x y old zeroInf term
    have hbits := dotVal_toNat v.rm v.dotOld v.dotPairs
    have hnan : HasNan v.dotOld v.dotPairs ↔ old.isNan = true ∨ ∃ l < k, (x l).isNan = true ∨ (y l).isNan = true :=
      or_congr Iff.rfl (exists_mem_dotPairs fun p q => p.isNan = true ∨ q.isNan = true)
    have hsnan : HasSnan v.dotOld v.dotPairs ↔ old.isSnan = true ∨ ∃ l < k, (x l).isSnan = true ∨ (y l).isSnan = true :=
      or_congr Iff.rfl (exists_mem_dotPairs fun p q => p.isSnan = true ∨ q.isSnan = true)
    have hzero : (∃ p ∈ v.dotPairs, ZeroTimesInf p.1 p.2) ↔ ∃ l < k, zeroInf (x l) (y l) := by
      simp only [zeroTimesInf_iff]
      exact exists_mem_dotPairs zeroInf
    have hterm : ∀ n, HasInfTerm v.dotOld v.dotPairs n ↔ term n := fun n => or_congr Iff.rfl (exists_mem_dotPairs fun p q => InfiniteProduct p q n)
    have hno : (∀ l < k, ¬ zeroInf (x l) (y l)) → ¬ ∃ p ∈ v.dotPairs, ZeroTimesInf p.1 p.2 := fun hz => by
      rw [hzero]
      exact fun ⟨l, hl, h0⟩ => hz l hl h0
    refine ⟨_, _, vdot_goes h ⟨hg, hb⟩, rfl, rfl, ?lt, fun hn => ?nan, fun hi => ?invalid, fun hn hz ho => ?quiet, fun n hold hp ht hnot => ?inf,
      fun hold hp => ?fin⟩
    case lt => exact hbits.trans_lt (dotOut_lt _ _ _)
    case nan => rw [hbits, dotOut_of_nan _ (hnan.mpr hn)]
    case invalid =>
      rw [← hzero, ← hterm, ← hterm] at hi
      rw [hbits, dotOut_of_invalid _ hi]
      exact ⟨rfl, rfl⟩
    case quiet =>
      classical
      rw [← hterm, ← hterm] at ho
      rw [dotOut_flags_of_nan _ (hnan.mpr hn) (hno hz) ho]
      exact if_congr hsnan rfl rfl
    case inf =>
      have hnum : ¬ HasNan v.dotOld v.dotPairs := by
        rw [hnan, hold]
        rintro (h0 | ⟨l, hl, h0⟩)
        · cases h0
        · rw [(hp l hl).1, (hp l hl).2.1] at h0
          rcases h0 with h0 | h0 <;> cases h0
      rw [hbits, dotOut_of_inf _ hnum (hno fun l hl => (hp l hl).2.2) ((hterm n).mpr ht) ((hterm _).not.mpr hnot)]
      exact ⟨rfl, rfl⟩
    case fin =>
      obtain ⟨q, hq, hout⟩ := dotOut_of_fin v.rm hold
        ((forall_mem_dotPairs fun p q => (∃ n m e, p = .fin n m e) ∧ ∃ n m e, q = .fin n m e).mpr hp)
      refine ⟨q, ?_, ?_⟩
      · rw [hq, Env.dotPairs, List.map_map]
        rfl
      · rw [hbits]
        exact hout

end Sys2Proof.Machine
end

section
/-! SUPPORT. Encodings into IEEE formats (R88): the distance of a rounding, the magnitude of a rounded value, values that a format has, the nearest one, and values beyond
its range on either side. -/

namespace Sys2Proof.Machine

open Sys2Proof.Safety

/-! ## The distance of a rounding -/

/-- Whether k units of d and a rest r go to k + 1. -/
def roundsUp (rm : Rm) (neg : Bool) (k r d : Nat) : Bool :=
  match rm with
  | .rne => decide (d < 2 * r) || (decide (2 * r = d) && k % 2 == 1)
  | .rtz => false
  | .rup => !neg
  | .rdn => neg

theorem shiftRound_of_ne (rm : Rm) (neg : Bool) {m sh : Nat} (h : m % 2 ^ sh ≠ 0) : shiftRound rm neg m sh =
    (if roundsUp rm neg (m >>> sh) (m % 2 ^ sh) (2 ^ sh) then m >>> sh + 1 else m >>> sh, true) := if_neg h

theorem le_of_roundsUp_rne {neg : Bool} {k r d : Nat} (h : roundsUp .rne neg k r d = true) : d ≤ 2 * r := by
  simp only [roundsUp, Bool.or_eq_true, Bool.and_eq_true, decide_eq_true_eq] at h
  omega

theorem ge_of_roundsUp_rne {neg : Bool} {k r d : Nat} (h : roundsUp .rne neg k r d = false) : 2 * r ≤ d := by
  simp only [roundsUp, Bool.or_eq_false_iff, decide_eq_false_iff_not] at h
  omega

/-- A rounding to a multiple of 2^q is off by less than a unit, under RNE by at most half of one, and under RTZ downwards. -/
theorem roundTo_distance (rm : Rm) (neg : Bool) (m : Nat) (e q : Int) :
    let y : ℚ := (roundTo rm neg m e q).1 * 2 ^ q
    let x : ℚ := m * 2 ^ e
    |y - x| < 2 ^ q ∧ (rm = .rne → 2 * |y - x| ≤ 2 ^ q) ∧ (rm = .rtz → y ≤ x) := by
  intro y x
  have hq : (0 : ℚ) < 2 ^ q := by positivity
  have hexact : y = x → |y - x| < 2 ^ q ∧ (rm = .rne → 2 * |y - x| ≤ 2 ^ q) ∧ (rm = .rtz → y ≤ x) := fun h => by
    rw [h, sub_self, abs_zero, mul_zero]
    exact ⟨hq, fun _ => hq.le, fun _ => le_rfl⟩
  by_cases hle : q ≤ e
  · refine hexact ?_
    simp only [y, x, roundTo, if_pos hle]
    exact (mul_two_zpow_eq hle).symm
  · have hx := div_add_mod_two_zpow m (show e ≤ q by omega)
    have hround : roundTo rm neg m e q = shiftRound rm neg m (q - e).toNat := if_neg hle
    generalize (q - e).toNat = sh at hx hround
    have hD : (0 : ℚ) < (2 ^ sh : Nat) := by positivity
    have hR : m % 2 ^ sh < 2 ^ sh := Nat.mod_lt _ (Nat.two_pow_pos _)
    by_cases hz : m % 2 ^ sh = 0
    · refine hexact ?_
      simp only [y, x, hround, shiftRound, hz, if_true, hx, Nat.cast_zero, zero_div, add_zero]
    · -- the part r of a unit that is left, in (0, 1)
      have hk := hround.trans (shiftRound_of_ne rm neg hz)
      have hne : rm = .rne → roundsUp rm neg (m >>> sh) (m % 2 ^ sh) (2 ^ sh) = true → 2 ^ sh ≤ 2 * (m % 2 ^ sh) := by
        rintro rfl
        exact le_of_roundsUp_rne
      have hne' : rm = .rne → roundsUp rm neg (m >>> sh) (m % 2 ^ sh) (2 ^ sh) = false → 2 * (m % 2 ^ sh) ≤ 2 ^ sh := by
        rintro rfl
        exact ge_of_roundsUp_rne
      have htz : rm = .rtz → roundsUp rm neg (m >>> sh) (m % 2 ^ sh) (2 ^ sh) = false := by
        rintro rfl
        rfl
      generalize roundsUp rm neg (m >>> sh) (m % 2 ^ sh) (2 ^ sh) = up at hk hne hne' htz
      let r : ℚ := (m % 2 ^ sh : Nat) / (2 ^ sh : Nat)
      have hr0 : 0 < r := div_pos (by exact_mod_cast Nat.pos_of_ne_zero hz) hD
      have hr1 : r < 1 := (div_lt_one hD).mpr (by exact_mod_cast hR)
      have hxr : x = ((m >>> sh : Nat) + r) * 2 ^ q := hx
      cases up with
      | true =>
        have hy : y - x = (1 - r) * 2 ^ q := by
          simp only [y, hk, hxr, if_true]
          push_cast
          ring
        rw [hy, abs_of_pos (mul_pos (by linarith) hq)]
        refine ⟨by nlinarith, fun h => ?_, fun h => absurd (htz h) (by simp)⟩
        have hhalf : 1 ≤ 2 * r := by
          have := hne h rfl
          simp only [r, ← mul_div_assoc]
          rw [one_le_div hD]
          exact_mod_cast this
        nlinarith
      | false =>
        have hy : y - x = -(r * 2 ^ q) := by
          simp only [y, hk, hxr, Bool.false_eq_true, if_false]
          ring
        rw [hy, abs_neg, abs_of_pos (mul_pos hr0 hq)]
        refine ⟨by nlinarith, fun h => ?_, fun _ => ?_⟩
        · have hhalf : 2 * r ≤ 1 := by
            have := hne' h rfl
            simp only [r, ← mul_div_assoc]
            rw [div_le_one hD]
            exact_mod_cast this
          nlinarith
        · have : 0 < r * 2 ^ q := mul_pos hr0 hq
          linarith

/-- Rounding towards zero takes the integer part. -/
theorem roundTo_rtz_eq_floor (neg : Bool) (m : Nat) (e : Int) : ((roundTo .rtz neg m e 0).1 : Int) = ⌊(m : ℚ) * 2 ^ e⌋ := by
  obtain ⟨hlt, -, hle⟩ := roundTo_distance .rtz neg m e 0
  rw [zpow_zero, mul_one, abs_lt] at hlt
  rw [zpow_zero, mul_one] at hle
  refine (Int.floor_eq_iff.mpr ⟨?_, ?_⟩).symm
  · exact_mod_cast hle rfl
  · push_cast
    linarith [hlt.1]

/-! ## The magnitude of a rounded value -/

/-- A value of at most 2^(fb+1) units of its last place has those units as its magnitude. -/
theorem magOf_bodyOf {f k : Nat} {q : Int} (hk : k ≤ 2 ^ (fracBits f + 1)) (hsub : k < 2 ^ fracBits f → q = 1 - ieeeBias f - fracBits f)
    (hq : 1 - ieeeBias f - fracBits f ≤ q) : magOf f (bodyOf f k q) = k * 2 ^ q := by
  have hF := Nat.two_pow_pos (fracBits f)
  by_cases hlt : k < 2 ^ fracBits f
  · rw [bodyOf, if_pos hlt, magOf, mantOf, expOf, if_pos hlt, if_pos hlt, hsub hlt]
  · have hE : ((q + fracBits f + ieeeBias f).toNat : Int) = q + fracBits f + ieeeBias f := Int.toNat_of_nonneg (by omega)
    have hE1 : 1 ≤ (q + fracBits f + ieeeBias f).toNat := by omega
    rw [bodyOf, if_neg hlt]
    generalize (q + fracBits f + ieeeBias f).toNat = E at hE hE1
    rw [Nat.pow_succ] at hk
    have hcode : ∀ (E' d : Nat), 1 ≤ E' → d < 2 ^ fracBits f → magOf f (E' * 2 ^ fracBits f + d) =
        ((2 ^ fracBits f + d : Nat) : ℚ) * 2 ^ ((E' : Int) - ieeeBias f - fracBits f) := by
      intro E' d hE' hd
      have hge : ¬ E' * 2 ^ fracBits f + d < 2 ^ fracBits f := by
        have := Nat.mul_le_mul_right (2 ^ fracBits f) hE'
        omega
      have hmod : (E' * 2 ^ fracBits f + d) % 2 ^ fracBits f = d := by rw [Nat.mul_comm, Nat.mul_add_mod, Nat.mod_eq_of_lt hd]
      have hdiv : (E' * 2 ^ fracBits f + d) / 2 ^ fracBits f = E' := by
        rw [Nat.mul_comm, Nat.mul_add_div hF, Nat.div_eq_of_lt hd, Nat.add_zero]
      rw [magOf, mantOf, expOf, if_neg hge, if_neg hge, hmod, hdiv]
    rcases (show k ≤ 2 ^ fracBits f * 2 from hk).eq_or_lt with h2 | h2
    · -- the first value of the next binade
      have hbody : E * 2 ^ fracBits f + (k - 2 ^ fracBits f) = (E + 1) * 2 ^ fracBits f + 0 := by rw [Nat.succ_mul]; omega
      rw [hbody, hcode (E + 1) 0 (by omega) hF, h2, show ((E + 1 : Nat) : Int) - ieeeBias f - fracBits f = q + 1 by push_cast; omega, zpow_add_one₀ two_ne_zero]
      push_cast
      ring
    · rw [hcode E (k - 2 ^ fracBits f) hE1 (by omega), show 2 ^ fracBits f + (k - 2 ^ fracBits f) = k by omega, hE]
      congr 2
      ring

theorem fracBits_cases (f : Nat) : fracBits f = 23 ∨ fracBits f = 7 ∨ fracBits f = 10 := by
  unfold fracBits ieeeParams
  split <;> simp

/-- Twice the bias and one is the exponent field of the infinity. -/
theorem two_pow_expBits (f : Nat) : ((2 ^ expBits f : Nat) : Int) = 2 * ieeeBias f + 2 := by
  rw [ieeeBias_eq]
  rcases expBits_cases f with h | h <;> rw [h] <;> norm_num

/-- A rounded value whose leading bit stands below the largest exponent is finite. -/
theorem bodyOf_lt_infCode {f k : Nat} {q : Int} (hk : k ≤ 2 ^ (fracBits f + 1)) (hq : q + fracBits f < ieeeBias f) : bodyOf f k q < infCode f := by
  have hF := Nat.two_pow_pos (fracBits f)
  have hpow := two_pow_expBits f
  have hbias : 1 ≤ ieeeBias f := by rw [ieeeBias_eq]; rcases expBits_cases f with h | h <;> rw [h] <;> norm_num
  have hE : (q + fracBits f + ieeeBias f).toNat + 1 < 2 ^ expBits f - 1 := by omega
  rw [infCode, bodyOf]
  rw [Nat.pow_succ] at hk
  split
  next h => exact h.trans_le (Nat.le_mul_of_pos_left _ (by omega))
  next h =>
    calc _ ≤ ((q + fracBits f + ieeeBias f).toNat + 1) * 2 ^ fracBits f := by rw [Nat.succ_mul]; omega
      _ < (2 ^ expBits f - 1) * 2 ^ fracBits f := Nat.mul_lt_mul_of_pos_right hE hF

/-- The last place of a value lies fb places below its leading bit, or at the place of the subnormal numbers. -/
theorem ulpExp_cases (f m : Nat) (e : Int) : (ulpExp f m e = (Nat.log2 m : Int) + e - fracBits f ∧ 1 - ieeeBias f ≤ (Nat.log2 m : Int) + e) ∨
    (ulpExp f m e = 1 - ieeeBias f - fracBits f ∧ (Nat.log2 m : Int) + e < 1 - ieeeBias f) := by
  unfold ulpExp
  split
  next h => exact .inr ⟨rfl, h⟩
  next h => exact .inl ⟨rfl, by omega⟩

section

variable {f m : Nat} {e : Int} (hm : m ≠ 0)
include hm

/-- The units of a value rounded at its last place. -/
theorem roundTo_ulpExp (rm : Rm) (s : Bool) : let k := (roundTo rm s m e (ulpExp f m e)).1
    k ≤ 2 ^ (fracBits f + 1) ∧ (k < 2 ^ fracBits f → ulpExp f m e = 1 - ieeeBias f - fracBits f) ∧
      magOf f (bodyOf f k (ulpExp f m e)) = k * 2 ^ ulpExp f m e := by
  intro k
  obtain ⟨hdist, -, -⟩ := roundTo_distance rm s m e (ulpExp f m e)
  change |(k : ℚ) * 2 ^ ulpExp f m e - m * 2 ^ e| < 2 ^ ulpExp f m e at hdist
  rw [abs_lt] at hdist
  have hcases := ulpExp_cases f m e
  have hge : 1 - ieeeBias f - fracBits f ≤ ulpExp f m e := by omega
  have hup := lt_two_zpow_log2 m e
  have hlow := two_zpow_log2_le hm e
  generalize ulpExp f m e = q at *
  have hq : (0 : ℚ) < 2 ^ q := by positivity
  have hk : k ≤ 2 ^ (fracBits f + 1) := by
    have hle : (m : ℚ) * 2 ^ e ≤ 2 ^ (fracBits f + 1) * 2 ^ q := by
      refine hup.le.trans ?_
      rw [← zpow_natCast, ← zpow_add₀ two_ne_zero]
      exact zpow_le_zpow_right₀ one_le_two (by push_cast; omega)
    have hlt : (k : ℚ) * 2 ^ q < ((2 ^ (fracBits f + 1) + 1 : Nat) : ℚ) * 2 ^ q := by
      push_cast
      linarith [hdist.2]
    have := lt_of_mul_lt_mul_right hlt hq.le
    have : k < 2 ^ (fracBits f + 1) + 1 := by exact_mod_cast this
    omega
  have hsub : k < 2 ^ fracBits f → q = 1 - ieeeBias f - fracBits f := by
    intro hlt
    rcases hcases with ⟨hq', -⟩ | ⟨hq', -⟩
    · -- a normal number has fb + 1 units or more
      exfalso
      have hge : (2 : ℚ) ^ fracBits f * 2 ^ q ≤ m * 2 ^ e := by
        refine le_trans (le_of_eq ?_) hlow
        rw [← zpow_natCast, ← zpow_add₀ two_ne_zero]
        congr 1
        omega
      have hlt' : ((k + 1 : Nat) : ℚ) * 2 ^ q ≤ 2 ^ fracBits f * 2 ^ q := by
        gcongr
        exact_mod_cast hlt
      push_cast at hlt'
      linarith [hdist.1]
    · exact hq'
  exact ⟨hk, hsub, magOf_bodyOf hk hsub hge⟩

/-- A value below the largest exponent rounds to a finite one. -/
theorem roundTo_ulpExp_lt (rm : Rm) (s : Bool) (hhi : (m : ℚ) * 2 ^ e < 2 ^ ieeeBias f) :
    bodyOf f (roundTo rm s m e (ulpExp f m e)).1 (ulpExp f m e) < infCode f := by
  obtain ⟨hk, -, -⟩ := roundTo_ulpExp (f := f) (e := e) hm rm s
  have hlt := (zpow_lt_zpow_iff_right₀ (one_lt_two (α := ℚ))).mp ((two_zpow_log2_le hm e).trans_lt hhi)
  have hbias : 1 < ieeeBias f := by rw [ieeeBias_eq]; rcases expBits_cases f with h | h <;> rw [h] <;> norm_num
  refine bodyOf_lt_infCode hk ?_
  rcases ulpExp_cases f m e with ⟨h, -⟩ | ⟨h, -⟩ <;> omega

/-- A value with no bit below its last place is one of the format. -/
theorem exists_magOf_eq (hfit : ulpExp f m e ≤ e) (hhi : (m : ℚ) * 2 ^ e < 2 ^ ieeeBias f) : ∃ c < infCode f, (m : ℚ) * 2 ^ e = magOf f c := by
  obtain ⟨-, -, hmag⟩ := roundTo_ulpExp (f := f) (e := e) hm .rne false
  refine ⟨_, roundTo_ulpExp_lt hm .rne false hhi, ?_⟩
  rw [hmag, roundTo, if_pos hfit]
  exact mul_two_zpow_eq hfit

/-- Rounding to nearest in the range of the normal numbers is off by at most half a unit of the last place. -/
theorem encodeIeee_rne_near (s : Bool) (hlo : (2 : ℚ) ^ (1 - ieeeBias f) ≤ m * 2 ^ e) (hhi : (m : ℚ) * 2 ^ e < 2 ^ ieeeBias f) :
    ∃ c < infCode f, (encodeIeee f .rne s m e).1 = signPart f s + c ∧ |magOf f c - m * 2 ^ e| ≤ 2 ^ (-(fracBits f : Int) - 1) * (m * 2 ^ e) := by
  obtain ⟨-, -, hmag⟩ := roundTo_ulpExp (f := f) (e := e) hm .rne s
  have hc := roundTo_ulpExp_lt hm .rne s hhi
  obtain ⟨-, hdist, -⟩ := roundTo_distance .rne s m e (ulpExp f m e)
  refine ⟨_, hc, ?_, ?_⟩
  · obtain ⟨big, tiny, he⟩ := encodeIeee_eq (f := f) .rne s e hm
    simp [he, not_le.mpr hc]
  · have htop := (zpow_lt_zpow_iff_right₀ (one_lt_two (α := ℚ))).mp (hlo.trans_lt (lt_two_zpow_log2 m e))
    have hulp : ulpExp f m e = (Nat.log2 m : Int) + e - fracBits f := by
      rcases ulpExp_cases f m e with ⟨h, -⟩ | ⟨-, h⟩
      · exact h
      · omega
    have hunit : (2 : ℚ) ^ ulpExp f m e ≤ 2 ^ (-(fracBits f : Int)) * (m * 2 ^ e) := by
      rw [hulp, show (Nat.log2 m : Int) + e - fracBits f = -(fracBits f : Int) + ((Nat.log2 m : Int) + e) by ring, zpow_add₀ two_ne_zero]
      gcongr
      exact two_zpow_log2_le hm e
    have hhalf : (2 : ℚ) ^ (-(fracBits f : Int) - 1) = 2 ^ (-(fracBits f : Int)) / 2 := by rw [zpow_sub_one₀ two_ne_zero]; rfl
    rw [hmag, hhalf]
    have := hdist rfl
    linarith

/-- A value from twice the largest power of two on overflows. -/
theorem encodeIeee_of_large (rm : Rm) (s : Bool) (h : ieeeBias f < (Nat.log2 m : Int) + e) :
    encodeIeee f rm s m e = (signPart f s + infCode f - (if overflowsUp rm s then 0 else 1), fOF ||| fNX) := by
  refine encodeIeee_of_overflow rm s hm ?_
  obtain ⟨-, hsub, -⟩ := roundTo_ulpExp (f := f) (e := e) hm rm s
  have hpow := two_pow_expBits f
  have hbias : 1 < ieeeBias f := by rw [ieeeBias_eq]; rcases expBits_cases f with h | h <;> rw [h] <;> norm_num
  have hulp : ulpExp f m e = (Nat.log2 m : Int) + e - fracBits f := by
    rcases ulpExp_cases f m e with ⟨h, -⟩ | ⟨-, h⟩ <;> omega
  have hk : ¬ (roundTo rm s m e (ulpExp f m e)).1 < 2 ^ fracBits f := fun hlt => by
    have := hsub hlt
    omega
  rw [infCode, bodyOf, if_neg hk]
  exact (Nat.mul_le_mul_right _ (by omega)).trans (Nat.le_add_right _ _)

/-- Whether a value that is next to nothing goes to the least magnitude under a mode. -/
def tinyUp (rm : Rm) (neg : Bool) : Bool := match rm with | .rne => false | .rtz => false | .rup => !neg | .rdn => neg

/-- A finite result and its flags: UF where it is inexact and below the normal numbers even with an unbounded exponent (R89). -/
theorem encodeIeee_eq_of_lt (rm : Rm) (s : Bool) (hb : bodyOf f (roundTo rm s m e (ulpExp f m e)).1 (ulpExp f m e) < infCode f) :
    encodeIeee f rm s m e =
      (let r := roundTo rm s m e (ulpExp f m e)
       let tiny := decide ((Nat.log2 m : Int) + e < 1 - ieeeBias f) && !(decide ((Nat.log2 m : Int) + e = 1 - ieeeBias f - 1) &&
        decide (2 ^ (fracBits f + 1) ≤ (roundTo rm s m e ((Nat.log2 m : Int) + e - fracBits f)).1))
       (signPart f s + bodyOf f r.1 (ulpExp f m e), flagIf r.2 fNX ||| flagIf (r.2 && tiny) fUF)) :=
  (if_neg hm).trans (if_neg (not_le.mpr hb))

/-- A value below half the least magnitude goes to that or to zero by the mode alone. -/
theorem encodeIeee_of_tiny (rm : Rm) (s : Bool) (h : (Nat.log2 m : Int) + e + 2 ≤ 1 - ieeeBias f - fracBits f) :
    encodeIeee f rm s m e = (signPart f s + (if tinyUp rm s then 1 else 0), fNX ||| fUF) := by
  have hulp : ulpExp f m e = 1 - ieeeBias f - fracBits f := by
    rcases ulpExp_cases f m e with ⟨-, h⟩ | ⟨h, -⟩ <;> omega
  have hF1 : 1 < 2 ^ fracBits f := Nat.one_lt_two_pow (by rcases fracBits_cases f with h | h | h <;> omega)
  have hinf := infCode_pos f
  -- the value has less than half a unit
  have hsmall : 2 * m < 2 ^ (ulpExp f m e - e).toNat := by
    have h1 : m < 2 ^ (Nat.log2 m + 1) := Nat.lt_log2_self
    have h2 : 2 ^ (Nat.log2 m + 1 + 1) ≤ 2 ^ (ulpExp f m e - e).toNat := Nat.pow_le_pow_right two_pos (by omega)
    rw [Nat.pow_succ] at h2
    omega
  have hround : roundTo rm s m e (ulpExp f m e) = (if tinyUp rm s then 1 else 0, true) := by
    have hz : m >>> (ulpExp f m e - e).toNat = 0 := by rw [Nat.shiftRight_eq_div_pow, Nat.div_eq_of_lt (by omega)]
    have hr : m % 2 ^ (ulpExp f m e - e).toNat = m := Nat.mod_eq_of_lt (by omega)
    have hup : roundsUp rm s 0 m (2 ^ (ulpExp f m e - e).toNat) = tinyUp rm s := by
      cases rm with
      | rne => simp [roundsUp, tinyUp, hsmall.le]
      | rtz => rfl
      | rup => rfl
      | rdn => rfl
    rw [roundTo, if_neg (by omega), shiftRound_of_ne rm s (by rwa [hr]), hz, hr, hup]
  have hbody : bodyOf f (if tinyUp rm s then 1 else 0) (ulpExp f m e) = if tinyUp rm s then 1 else 0 := by
    rw [bodyOf, if_pos]
    split <;> omega
  have hb : bodyOf f (roundTo rm s m e (ulpExp f m e)).1 (ulpExp f m e) < infCode f := by
    rw [hround, hbody]
    have hle : 2 ^ fracBits f ≤ infCode f := Nat.le_mul_of_pos_left _ (Nat.pos_of_mul_pos_right hinf)
    split <;> omega
  rw [encodeIeee_eq_of_lt hm rm s hb]
  simp only [hround, hbody, decide_eq_true (show (Nat.log2 m : Int) + e < 1 - ieeeBias f by omega),
    decide_eq_false (show ¬ (Nat.log2 m : Int) + e = 1 - ieeeBias f - 1 by omega)]
  rfl

end

end Sys2Proof.Machine
end

section
/-! SUPPORT. The float functions by the kinds of their operands (R131 to R136): integral values, exponent and mantissa, the reciprocal and its square root, and FLDEXP. -/

namespace Sys2Proof.Machine

open Sys2Proof.Safety

/-! ## Finite lanes -/

theorem ieeeBias_cases (f : Nat) : (expBits f = 8 ∧ ieeeBias f = 127) ∨ (expBits f = 5 ∧ ieeeBias f = 15) := by
  rw [ieeeBias_eq]
  rcases expBits_cases f with h | h <;> simp [h]

/-- The bounds that the parameters of the three formats meet. -/
theorem ieee_bounds {f : Nat} (hf : f ∈ [7, 8, 9]) : (fracBits f : Int) + 5 ≤ ieeeBias f ∧ ieeeBias f + fracBits f ≤ 2 ^ (fracBits f + 1) ∧
    ieeeBias f + fracBits f ≤ 150 ∧ 7 ≤ fracBits f ∧ fracBits f ≤ 23 ∧ 15 ≤ ieeeBias f := by
  simp only [List.mem_cons, List.not_mem_nil, or_false] at hf
  rcases hf with rfl | rfl | rfl <;> decide

theorem mantOf_lt (f c : Nat) : mantOf f c < 2 ^ (fracBits f + 1) := by
  have h := Nat.mod_lt c (Nat.two_pow_pos (fracBits f))
  rw [mantOf, Nat.pow_succ]
  split <;> omega

theorem expOf_ge (f c : Nat) : 1 - ieeeBias f - fracBits f ≤ expOf f c := by
  rw [expOf]
  split
  · omega
  next h =>
    have : 1 ≤ c / 2 ^ fracBits f := (Nat.one_le_div_iff (Nat.two_pow_pos _)).mpr (not_lt.mp h)
    omega

theorem expOf_le {f c : Nat} (hc : c < infCode f) : expOf f c ≤ ieeeBias f - fracBits f := by
  have hlt : c / 2 ^ fracBits f < 2 ^ expBits f - 1 := (Nat.div_lt_iff_lt_mul (Nat.two_pow_pos _)).mpr hc
  have hpow := two_pow_expBits f
  have hbias : 1 ≤ ieeeBias f := by rcases ieeeBias_cases f with h | h <;> omega
  rw [expOf]
  split <;> omega

section

variable {f : Nat} (hf : f ∈ [7, 8, 9])
include hf

/-- A finite lane is a sign and a finite magnitude. -/
theorem exists_finite_code {a : Nat} (ha : a < 2 ^ laneBits f) {n : Bool} {m : Nat} {e : Int} (h : decodeIeee f a = .fin n m e) :
    ∃ c < infCode f, a = signPart f n + c ∧ m = mantOf f c ∧ e = expOf f c := by
  obtain ⟨s, c, hc, rfl⟩ := exists_signPart_add hf ha
  by_cases hfin : c < infCode f
  · rw [decodeIeee_finite f s hfin] at h
    injection h with hs hm he
    exact ⟨c, hfin, by rw [hs], hm.symm, he.symm⟩
  · exfalso
    have hdiv : c / 2 ^ fracBits f = 2 ^ expBits f - 1 := by
      have h1 : 2 ^ expBits f - 1 ≤ c / 2 ^ fracBits f := (Nat.le_div_iff_mul_le (Nat.two_pow_pos _)).mpr (not_lt.mp hfin)
      have h2 : c / 2 ^ fracBits f < 2 ^ expBits f := (Nat.div_lt_iff_lt_mul (Nat.two_pow_pos _)).mpr (by rwa [← Nat.pow_add])
      omega
    rw [decodeIeee_signPart f s hc, if_pos hdiv] at h
    split at h <;> cases h

omit hf in
/-- A finite code under a sign has its magnitude under that sign. -/
theorem ratOf_signPart (s : Bool) {c : Nat} (hc : c < infCode f) :
    ratOf (decodeIeee f (signPart f s + c)) = (if s then -1 else 1) * magOf f c ∧ (decodeIeee f (signPart f s + c)).neg? = s := by
  rw [decodeIeee_finite f s hc, ratOf_fin]
  exact ⟨rfl, rfl⟩

/-- A value that the format has is encoded to a lane that has it. -/
theorem ratOf_encode_magOf (rm : Rm) (s : Bool) {m c : Nat} {e : Int} (hc : c < infCode f) (h : (m : ℚ) * 2 ^ e = magOf f c) :
    (encodeFloat f rm (.fin s m e)).2 = 0 ∧ ratOf (decodeIeee f (encodeFloat f rm (.fin s m e)).1) = ratOf (.fin s m e) ∧
      (decodeIeee f (encodeFloat f rm (.fin s m e)).1).neg? = s := by
  obtain ⟨hval, hneg⟩ := ratOf_signPart s hc
  rw [encodeFloat_of_eq hf rm s hc h, hval, ratOf_fin, h]
  exact ⟨rfl, rfl, hneg⟩

omit hf in
theorem magOf_zero (f : Nat) : magOf f 0 = 0 := by rw [magOf, mantOf, if_pos (Nat.two_pow_pos _), Nat.cast_zero, zero_mul]

/-- A value of at most fb + 1 bits in the range of the exponents is encoded exactly. -/
theorem encodeFloat_exact (rm : Rm) (s : Bool) {m : Nat} {e : Int} (hm : m < 2 ^ (fracBits f + 1)) (he : 1 - ieeeBias f - fracBits f ≤ e)
    (hhi : (m : ℚ) * 2 ^ e < 2 ^ ieeeBias f) :
    (encodeFloat f rm (.fin s m e)).2 = 0 ∧ ratOf (decodeIeee f (encodeFloat f rm (.fin s m e)).1) = ratOf (.fin s m e) ∧
      (decodeIeee f (encodeFloat f rm (.fin s m e)).1).neg? = s := by
  by_cases hm0 : m = 0
  · exact ratOf_encode_magOf hf rm s (infCode_pos f) (by rw [hm0, magOf_zero, Nat.cast_zero, zero_mul])
  · have hlog : Nat.log2 m < fracBits f + 1 := (Nat.log2_lt hm0).mpr hm
    have hfit : ulpExp f m e ≤ e := by rcases ulpExp_cases f m e with ⟨h, -⟩ | ⟨h, -⟩ <;> omega
    obtain ⟨c, hc, heq⟩ := exists_magOf_eq hm0 hfit hhi
    exact ratOf_encode_magOf hf rm s hc heq

/-! ## Integral values (R131) -/

/-- The rounding of a finite lane to an integer is a value of the format. -/
theorem integralOut_fin (nx : Bool) (rm : Rm) {a : Nat} (ha : a < 2 ^ laneBits f) {n : Bool} {m : Nat} {e : Int} (hx : decodeIeee f a = .fin n m e) :
    let r := roundTo rm n m e 0
    let out := integralOut nx rm f a
    ratOf (decodeIeee f out.1) = ratOf (.fin n r.1 0) ∧ (decodeIeee f out.1).neg? = n ∧ out.2 = if nx && r.2 then fNX else 0 := by
  intro r out
  have hout : out = ((encodeFloat f .rne (.fin n r.1 0)).1, if nx && r.2 then fNX else 0) := by
    rw [encodeFloat_ieee hf]
    simp only [out, integralOut, hx]
    rfl
  obtain ⟨c, hc, -, hm, he⟩ := exists_finite_code hf ha hx
  have hmlt := mantOf_lt f c
  rw [← hm] at hmlt
  obtain ⟨hbias, -⟩ := ieee_bounds hf
  suffices h : ratOf (decodeIeee f (encodeFloat f .rne (.fin n r.1 0)).1) = ratOf (.fin n r.1 0) ∧
      (decodeIeee f (encodeFloat f .rne (.fin n r.1 0)).1).neg? = n by
    rw [hout]
    exact ⟨h.1, h.2, rfl⟩
  by_cases h0 : 0 ≤ e
  · -- the value is an integer
    have hr : r.1 = m <<< e.toNat := by simp only [r, roundTo, if_pos h0, sub_zero]
    refine (ratOf_encode_magOf hf .rne n hc ?_).2
    have := mul_two_zpow_eq (m := m) h0
    rw [sub_zero, ← hr] at this
    rw [← this, magOf, hm, he]
  · -- the integer has at most fb bits, or is 2^fb
    obtain ⟨hdist, -⟩ := roundTo_distance rm n m e 0
    rw [zpow_zero, mul_one, abs_lt] at hdist
    have hhalf : (m : ℚ) * 2 ^ e < 2 ^ fracBits f := by
      have h1 : (m : ℚ) < 2 ^ (fracBits f + 1) := by exact_mod_cast hmlt
      have h2 : (2 : ℚ) ^ e ≤ 2 ^ (-1 : Int) := zpow_le_zpow_right₀ one_le_two (by omega)
      calc (m : ℚ) * 2 ^ e ≤ m * 2 ^ (-1 : Int) := by gcongr
        _ < 2 ^ (fracBits f + 1) * 2 ^ (-1 : Int) := by gcongr
        _ = 2 ^ fracBits f := by rw [pow_succ, zpow_neg_one, mul_assoc, mul_inv_cancel₀ two_ne_zero, mul_one]
    have hk : r.1 ≤ 2 ^ fracBits f := by
      have : (r.1 : ℚ) < 2 ^ fracBits f + 1 := by linarith [hdist.2]
      have : r.1 < 2 ^ fracBits f + 1 := by exact_mod_cast this
      omega
    have hF := Nat.two_pow_pos (fracBits f)
    refine (encodeFloat_exact hf .rne n (by rw [Nat.pow_succ]; omega) (by omega) ?_).2
    calc (r.1 : ℚ) * 2 ^ (0 : Int) ≤ 2 ^ (fracBits f : Int) := by rw [zpow_zero, mul_one, zpow_natCast]; exact_mod_cast hk
      _ < 2 ^ ieeeBias f := zpow_lt_zpow_right₀ one_lt_two (by omega)

/-! ## Exponent and mantissa (R135) -/

theorem getexpOut_fin {a : Nat} (ha : a < 2 ^ laneBits f) {n : Bool} {m : Nat} {e : Int} (hx : decodeIeee f a = .fin n m e) (hm : m ≠ 0) :
    ratOf (decodeIeee f (getexpOut f a).1) = ((Nat.log2 m : Int) + e : Int) ∧ (getexpOut f a).2 = 0 := by
  obtain ⟨c, hc, -, hmc, he⟩ := exists_finite_code hf ha hx
  obtain ⟨hbias, hpow, hsum, hfb', hfb, -⟩ := ieee_bounds hf
  have hlog : Nat.log2 m < fracBits f + 1 := (Nat.log2_lt hm).mpr (hmc ▸ mantOf_lt f c)
  have hge := expOf_ge f c
  have hle := expOf_le hc
  let t : Int := (Nat.log2 m : Int) + e
  have habs : (t.natAbs : Int) < ieeeBias f + fracBits f := by
    have ht : -(ieeeBias f + fracBits f) < t ∧ t < ieeeBias f + fracBits f := by simp only [t]; omega
    generalize ieeeBias f + fracBits f = w at ht
    omega
  have hlt : t.natAbs < 2 ^ (fracBits f + 1) := by
    have := habs.trans_le hpow
    exact_mod_cast this
  have hhi : (t.natAbs : ℚ) * 2 ^ (0 : Int) < 2 ^ ieeeBias f := by
    rw [zpow_zero, mul_one]
    calc (t.natAbs : ℚ) < 2 ^ (fracBits f + 1) := by exact_mod_cast hlt
      _ = 2 ^ ((fracBits f + 1 : Nat) : Int) := (zpow_natCast _ _).symm
      _ ≤ 2 ^ ieeeBias f := zpow_le_zpow_right₀ one_le_two (by push_cast; omega)
  obtain ⟨-, hval, -⟩ := encodeFloat_exact hf .rne (decide (t < 0)) hlt (show 1 - ieeeBias f - fracBits f ≤ 0 by omega) hhi
  have hout : getexpOut f a = ((encodeFloat f .rne (.fin (decide (t < 0)) t.natAbs 0)).1, 0) := by
    simp only [getexpOut, hx]
    exact if_neg hm
  rw [hout, hval, ratOf_natAbs, zpow_zero, mul_one]
  exact ⟨rfl, rfl⟩

theorem getmantOut_fin {a : Nat} (ha : a < 2 ^ laneBits f) {n : Bool} {m : Nat} {e : Int} (hx : decodeIeee f a = .fin n m e) (hm : m ≠ 0) :
    ratOf (decodeIeee f (getmantOut f a).1) = ratOf (.fin n m e) * 2 ^ (-((Nat.log2 m : Int) + e)) ∧ (getmantOut f a).2 = 0 := by
  obtain ⟨c, hc, -, hmc, he⟩ := exists_finite_code hf ha hx
  obtain ⟨hbias, -⟩ := ieee_bounds hf
  have hlt : m < 2 ^ (fracBits f + 1) := hmc ▸ mantOf_lt f c
  have hlog : Nat.log2 m < fracBits f + 1 := (Nat.log2_lt hm).mpr hlt
  have hhi : (m : ℚ) * 2 ^ (-(Nat.log2 m : Int)) < 2 ^ ieeeBias f := by
    refine (lt_two_zpow_log2 m _).trans_le (zpow_le_zpow_right₀ one_le_two ?_)
    omega
  obtain ⟨-, hval, -⟩ := encodeFloat_exact hf .rne n hlt (show 1 - ieeeBias f - fracBits f ≤ -(Nat.log2 m : Int) by omega) hhi
  have hout : getmantOut f a = ((encodeFloat f .rne (.fin n m (-(Nat.log2 m : Int)))).1, 0) := by
    rw [encodeFloat_ieee hf]
    simp only [getmantOut, hx]
    exact if_neg hm
  rw [hout, hval, ratOf_fin, ratOf_fin, mul_assoc, mul_assoc, ← zpow_add₀ two_ne_zero, show e + -((Nat.log2 m : Int) + e) = -(Nat.log2 m : Int) by ring]
  exact ⟨rfl, rfl⟩

end

/-! ## Reciprocal and its square root (R136) -/

/-- Twice a quotient, with a lowest bit for what is left, is off by at most one from twice the exact one. -/
theorem abs_quotient_mul_sub_le (N : Nat) {m : Nat} (hm : 0 < m) :
    |(((2 * (N / m) + (if N / m * m = N then 0 else 1)) * m : Nat) : ℚ) - (2 * N : Nat)| ≤ m := by
  have hmod := Nat.mod_lt N hm
  have hdm := Nat.div_add_mod' N m
  generalize N % m = r at hmod hdm
  generalize N / m = q at hdm
  split
  next h =>
    rw [Nat.add_zero, Nat.mul_assoc, h, sub_self, abs_zero]
    exact Nat.cast_nonneg m
  next h =>
    have hexp : (2 * q + 1) * m = 2 * (q * m) + m := by ring
    rw [hexp, ← hdm, abs_le]
    have hr : (r : ℚ) ≤ m := by exact_mod_cast hmod.le
    have hr0 : (0 : ℚ) ≤ r := Nat.cast_nonneg r
    push_cast
    constructor <;> linarith

theorem two_pow_log2_scaled (m w : Nat) : (m : ℚ) ≤ (2 ^ (Nat.log2 m + w + 1) : Nat) * 2 ^ (-(w : Int)) := by
  have h : ((2 ^ (Nat.log2 m + w + 1) : Nat) : ℚ) * 2 ^ (-(w : Int)) = (2 ^ (Nat.log2 m + 1) : Nat) := by
    rw [show Nat.log2 m + w + 1 = Nat.log2 m + 1 + w by ring, Nat.pow_add, Nat.cast_mul, mul_assoc, Nat.cast_pow 2 w, Nat.cast_ofNat, ← zpow_natCast 2 w,
      ← zpow_add₀ two_ne_zero, add_neg_cancel, zpow_zero, mul_one]
  rw [h]
  exact_mod_cast Nat.lt_log2_self.le

/-- The approximation of a reciprocal is off by less than one part in 2^80. -/
theorem recipNum_near (s : Bool) {m : Nat} (e : Int) (hm : m ≠ 0) :
    |ratOf (recipNum s m e) * ratOf (.fin s m e) - 1| ≤ 2 ^ (-76 : Int) := by
  have hmpos : 0 < m := Nat.pos_of_ne_zero hm
  let k := Nat.log2 m + 80
  let q := 2 ^ k / m
  let t := if q * m = 2 ^ k then 0 else 1
  have hprod : ratOf (recipNum s m e) * ratOf (.fin s m e) = ((2 * q + t) * m : Nat) / (2 ^ (k + 1) : Nat) := by
    have hz : (2 : ℚ) ^ (-(k : Int) - 1 - e) * 2 ^ e = ((2 ^ (k + 1) : Nat) : ℚ)⁻¹ := by
      rw [← zpow_add₀ two_ne_zero, show -(k : Int) - 1 - e + e = -((k + 1 : Nat) : Int) by push_cast; ring, zpow_neg, zpow_natCast]
      push_cast
      rfl
    have hs : ((if s then -1 else 1 : ℚ)) * (if s then -1 else 1) = 1 := by cases s <;> norm_num
    rw [show recipNum s m e = .fin s (2 * q + t) (-(k : Int) - 1 - e) from rfl, ratOf_fin, ratOf_fin, div_eq_mul_inv, ← hz]
    push_cast
    linear_combination (((2 : ℚ) * q + t) * m * (2 ^ (-(k : Int) - 1 - e) * 2 ^ e)) * hs
  have hnear : |(((2 * q + t) * m : Nat) : ℚ) - (2 ^ (k + 1) : Nat)| ≤ m := by
    rw [Nat.pow_succ, Nat.mul_comm (2 ^ k)]
    exact abs_quotient_mul_sub_le (2 ^ k) hmpos
  have hpos : (0 : ℚ) < (2 ^ (k + 1) : Nat) := by positivity
  have hm81 : (m : ℚ) ≤ (2 ^ (k + 1) : Nat) * 2 ^ (-80 : Int) := two_pow_log2_scaled m 80
  rw [hprod, div_sub_one hpos.ne', abs_div, abs_of_pos hpos, div_le_iff₀ hpos]
  rw [mul_comm] at hm81
  exact hnear.trans (hm81.trans (mul_le_mul_of_nonneg_right (zpow_le_zpow_right₀ one_le_two (by norm_num)) hpos.le))

/-- The root is found bit by bit. -/
theorem isqrtBits_spec (n k : Nat) : ∀ acc, acc * acc ≤ n → n < (acc + 2 ^ k) * (acc + 2 ^ k) →
    isqrtBits n acc k * isqrtBits n acc k ≤ n ∧ n < (isqrtBits n acc k + 1) * (isqrtBits n acc k + 1) := by
  induction k with
  | zero =>
    intro acc h1 h2
    rw [isqrtBits]
    exact ⟨h1, h2⟩
  | succ k ih =>
    intro acc h1 h2
    rw [isqrtBits]
    split
    next h => exact ih _ h (by rwa [Nat.add_assoc, ← Nat.two_mul, ← Nat.pow_succ'])
    next h => exact ih _ h1 (not_le.mp h)

/-- Twice a root, with a lowest bit for what is left: its square times m is four times N but for one part in 2^78. -/
theorem abs_root_sq_sub_le {N m Q : Nat} (hm : 0 < m) (hQ : 2 ^ 79 ≤ Q) (hlo : Q * Q ≤ N / m) (hhi : N / m < (Q + 1) * (Q + 1)) :
    |(((2 * Q + (if Q * Q * m = N then 0 else 1)) ^ 2 * m : Nat) : ℚ) - (4 * N : Nat)| * 2 ^ 79 ≤ 8 * N := by
  have h1 : Q * Q * m ≤ N := (Nat.le_div_iff_mul_le hm).mp hlo
  have h2 : N < (Q + 1) * (Q + 1) * m := (Nat.div_lt_iff_lt_mul hm).mp hhi
  split
  next h =>
    rw [← h, Nat.add_zero, show (2 * Q) ^ 2 * m = 4 * (Q * Q * m) by ring, sub_self, abs_zero, zero_mul]
    positivity
  next h =>
    have h1q : (Q : ℚ) * Q * m ≤ N := by exact_mod_cast h1
    have h2q : (N : ℚ) ≤ (Q + 1) * (Q + 1) * m := by exact_mod_cast h2.le
    have hQq : (2 : ℚ) ^ 79 ≤ Q := by exact_mod_cast hQ
    have hm0 : (0 : ℚ) < m := by exact_mod_cast hm
    have hQ1 : (1 : ℚ) ≤ Q := le_trans (by norm_num) hQq
    have hQm : (m : ℚ) ≤ Q * m := le_mul_of_one_le_left hm0.le hQ1
    have hbound : |(((2 * Q + 1) ^ 2 * m : Nat) : ℚ) - (4 * N : Nat)| ≤ 8 * (Q * m) := by
      push_cast
      rw [abs_le]
      constructor <;> linarith
    refine (mul_le_mul_of_nonneg_right hbound (by norm_num)).trans ?_
    calc 8 * ((Q : ℚ) * m) * 2 ^ 79 ≤ 8 * (Q * m) * Q := by gcongr
      _ = 8 * (Q * Q * m) := by ring
      _ ≤ 8 * N := by gcongr

/-- The root that the square root of a reciprocal takes, of 80 bits. -/
theorem isqrtBits_quotient {m : Nat} (hm : m ≠ 0) :
    let n := 2 ^ (2 * (Nat.log2 m / 2 + 80)) / m
    2 ^ 79 ≤ isqrtBits n 0 90 ∧ isqrtBits n 0 90 * isqrtBits n 0 90 ≤ n ∧ n < (isqrtBits n 0 90 + 1) * (isqrtBits n 0 90 + 1) := by
  intro n
  have hmpos : 0 < m := Nat.pos_of_ne_zero hm
  have hlo : 2 ^ 158 ≤ n := by
    refine (Nat.le_div_iff_mul_le hmpos).mpr ?_
    calc 2 ^ 158 * m ≤ 2 ^ 158 * 2 ^ (Nat.log2 m + 1) := Nat.mul_le_mul_left _ Nat.lt_log2_self.le
      _ = 2 ^ (158 + (Nat.log2 m + 1)) := (Nat.pow_add ..).symm
      _ ≤ _ := Nat.pow_le_pow_right two_pos (by omega)
  have hhi : n ≤ 2 ^ 160 := by
    refine (Nat.div_le_iff_le_mul_add_pred hmpos).mpr ?_
    calc 2 ^ (2 * (Nat.log2 m / 2 + 80)) ≤ 2 ^ (Nat.log2 m + 160) := Nat.pow_le_pow_right two_pos (by omega)
      _ = 2 ^ Nat.log2 m * 2 ^ 160 := Nat.pow_add ..
      _ ≤ m * 2 ^ 160 + (m - 1) := (Nat.mul_le_mul_right _ (Nat.log2_self_le hm)).trans (Nat.le_add_right _ _)
  obtain ⟨h1, h2⟩ := isqrtBits_spec n 90 0 (Nat.zero_le _) (hhi.trans_lt (by norm_num))
  refine ⟨?_, h1, h2⟩
  have hsq : 2 ^ 79 * 2 ^ 79 < (isqrtBits n 0 90 + 1) * (isqrtBits n 0 90 + 1) := lt_of_le_of_lt (le_trans (by norm_num) hlo) h2
  exact Nat.lt_succ_iff.mp (Nat.mul_self_lt_mul_self_iff.mp hsq)

theorem rsqrtNum_odd (m : Nat) (h : Int) : rsqrtNum m (2 * h + 1) = rsqrtNum (2 * m) (2 * h) := by
  simp only [rsqrtNum, show ¬ (2 * h + 1) % 2 = 0 by omega, show 2 * h % 2 = 0 by omega, if_true, if_false, add_sub_cancel_right]

/-- The approximation at an even exponent. -/
theorem rsqrtNum_even_near {m : Nat} (h : Int) (hm : m ≠ 0) :
    0 < ratOf (rsqrtNum m (2 * h)) ∧ |ratOf (rsqrtNum m (2 * h)) ^ 2 * ratOf (.fin false m (2 * h)) - 1| ≤ 2 ^ (-76 : Int) := by
  obtain ⟨hQ, hlo, hhi⟩ := isqrtBits_quotient hm
  have hnear := abs_root_sq_sub_le (Nat.pos_of_ne_zero hm) hQ hlo hhi
  have heq : rsqrtNum m (2 * h) = (let k := Nat.log2 m / 2 + 80
      let q := isqrtBits (2 ^ (2 * k) / m) 0 90
      .fin false (2 * q + (if q * q * m = 2 ^ (2 * k) then 0 else 1)) (-(k : Int) - 1 - h)) := by
    simp only [rsqrtNum, show 2 * h % 2 = 0 by omega, if_true, show 2 * h / 2 = h by omega]
  rw [heq]
  dsimp only
  generalize Nat.log2 m / 2 + 80 = k at hQ hnear ⊢
  generalize isqrtBits (2 ^ (2 * k) / m) 0 90 = Q at hQ hnear ⊢
  have hA : 0 < 2 * Q + (if Q * Q * m = 2 ^ (2 * k) then 0 else 1) := by
    have : 0 < Q := lt_of_lt_of_le (by norm_num) hQ
    omega
  generalize 2 * Q + (if Q * Q * m = 2 ^ (2 * k) then 0 else 1) = A at hA hnear ⊢
  rw [ratOf_fin_false, ratOf_fin_false]
  have hA0 : (0 : ℚ) < A := by exact_mod_cast hA
  refine ⟨mul_pos hA0 (by positivity), ?_⟩
  have hN : (0 : ℚ) < (2 ^ (2 * k) : Nat) := by positivity
  have hval : ((A : ℚ) * 2 ^ (-(k : Int) - 1 - h)) ^ 2 * (m * 2 ^ (2 * h)) = ((A ^ 2 * m : Nat) : ℚ) / (4 * 2 ^ (2 * k) : Nat) := by
    have hz : ((2 : ℚ) ^ (-(k : Int) - 1 - h)) ^ 2 * 2 ^ (2 * h) = ((4 * 2 ^ (2 * k) : Nat) : ℚ)⁻¹ := by
      have h4 : 4 * 2 ^ (2 * k) = 2 ^ (2 * k + 2) := by rw [Nat.pow_add, Nat.mul_comm]
      rw [h4, Nat.cast_pow, Nat.cast_ofNat, ← zpow_natCast 2 (2 * k + 2), ← zpow_neg, sq, ← zpow_add₀ two_ne_zero, ← zpow_add₀ two_ne_zero]
      congr 1
      push_cast
      ring
    rw [div_eq_mul_inv, ← hz]
    push_cast
    ring
  rw [hval]
  generalize 2 ^ (2 * k) = N at hN hnear ⊢
  have h4N : (0 : ℚ) < (4 * N : Nat) := by
    push_cast
    linarith
  rw [div_sub_one h4N.ne', abs_div, abs_of_pos h4N, div_le_iff₀ h4N]
  have h76 : (2 : ℚ) ^ (-76 : Int) * 2 ^ 79 = 8 := by norm_num
  refine le_of_mul_le_mul_right (hnear.trans ?_) (show (0 : ℚ) < 2 ^ 79 by norm_num)
  rw [mul_right_comm, h76]
  push_cast
  linarith

theorem rsqrtNum_near {m : Nat} (e : Int) (hm : m ≠ 0) :
    0 < ratOf (rsqrtNum m e) ∧ |ratOf (rsqrtNum m e) ^ 2 * ratOf (.fin false m e) - 1| ≤ 2 ^ (-76 : Int) := by
  rcases Int.even_or_odd' e with ⟨h, rfl | rfl⟩
  · exact rsqrtNum_even_near h hm
  · have hrat : ratOf (.fin false m (2 * h + 1)) = ratOf (.fin false (2 * m) (2 * h)) := by
      rw [ratOf_fin_false, ratOf_fin_false, zpow_add_one₀ two_ne_zero]
      push_cast
      ring
    rw [rsqrtNum_odd, hrat]
    exact rsqrtNum_even_near h (by omega)

end Sys2Proof.Machine
end

section
/-! SUPPORT. FLDEXP, and the operands of the float functions that are no number to compute with (R131 to R137). -/

namespace Sys2Proof.Machine

open Sys2Proof.Safety

/-! ## The table of FLDEXP (R133) -/

/-- The second operand truncated towards zero is the rounding of its magnitude under its sign. -/
theorem truncated_eq (l : Bool) (j : Nat) (f : Int) :
    (if ratOf (.fin l j f) < 0 then ⌈ratOf (.fin l j f)⌉ else ⌊ratOf (.fin l j f)⌋) =
      if l then -((roundTo .rtz l j f 0).1 : Int) else ((roundTo .rtz l j f 0).1 : Int) := by
  have hv : (0 : ℚ) ≤ j * 2 ^ f := by positivity
  rw [roundTo_rtz_eq_floor, ratOf_fin]
  cases l with
  | false => simp only [Bool.false_eq_true, if_false, one_mul, not_lt.mpr hv]
  | true =>
    simp only [if_true, neg_one_mul, Int.ceil_neg]
    split
    · rfl
    next h =>
      rw [show (j : ℚ) * 2 ^ f = 0 by linarith]
      norm_num

/-- The bounds of a finite number's exponents lie far within the limit of the scale. -/
theorem log2_add_exp_bounds {f : Nat} (hf : f ∈ [7, 8, 9]) {a : Nat} (ha : a < 2 ^ laneBits f) {n : Bool} {m : Nat} {e : Int}
    (hx : decodeIeee f a = .fin n m e) (hm : m ≠ 0) : -150 < (Nat.log2 m : Int) + e ∧ (Nat.log2 m : Int) + e ≤ ieeeBias f := by
  obtain ⟨c, hc, -, hmc, he⟩ := exists_finite_code hf ha hx
  obtain ⟨-, -, hsum, -⟩ := ieee_bounds hf
  have hlog : Nat.log2 m < fracBits f + 1 := (Nat.log2_lt hm).mpr (hmc ▸ mantOf_lt f c)
  have hge := expOf_ge f c
  have hle := expOf_le hc
  omega

/-- A scale beyond 4096 gives what 4096 gives. -/
theorem encodeIeee_scale_min {f : Nat} (hf : f ∈ [7, 8, 9]) {m : Nat} {e : Int} (hm : m ≠ 0) (hlo : -150 < (Nat.log2 m : Int) + e)
    (hhi : (Nat.log2 m : Int) + e ≤ ieeeBias f) (rm : Rm) (s l : Bool) (T : Nat) :
    encodeIeee f rm s m (if l then e - (min T 4096 : Nat) else e + (min T 4096 : Nat)) = encodeIeee f rm s m (e + if l then -(T : Int) else T) := by
  obtain ⟨-, -, hsum, hfb, -⟩ := ieee_bounds hf
  rcases le_total T 4096 with hT | hT
  · rw [Nat.min_eq_left hT]
    cases l <;> rfl
  · rw [Nat.min_eq_right hT]
    cases l with
    | false =>
      simp only [Bool.false_eq_true, if_false]
      rw [encodeIeee_of_large hm rm s (by push_cast; omega), encodeIeee_of_large hm rm s (by omega)]
    | true =>
      simp only [if_true]
      rw [encodeIeee_of_tiny hm rm s (by push_cast; omega), encodeIeee_of_tiny hm rm s (by omega)]

section

variable {f : Nat} (hf : f ∈ [7, 8, 9])
include hf

/-- A finite nonzero number scaled by a finite one. -/
theorem ldexpOut_fin_fin (rm : Rm) {a b : Nat} (ha : a < 2 ^ laneBits f) {k l : Bool} {m j : Nat} {e g : Int} (hx : decodeIeee f a = .fin k m e)
    (hy : decodeIeee f b = .fin l j g) (hm : m ≠ 0) : ldexpOut rm f a b =
      encodeFloat f rm (.fin k m (e + if ratOf (.fin l j g) < 0 then ⌈ratOf (.fin l j g)⌉ else ⌊ratOf (.fin l j g)⌋)) := by
  obtain ⟨hlo, hhi⟩ := log2_add_exp_bounds hf ha hx hm
  rw [truncated_eq, encodeFloat_ieee hf, ← encodeIeee_scale_min hf hm hlo hhi]
  simp only [ldexpOut, hx, hy, if_neg hm, sigFlag_pair, Num.isSnan, Bool.or_self, Bool.false_eq_true, if_false]
  simp

end

/-- The scale of a NaN. -/
theorem ldexpOut_nan_right (rm : Rm) {f a b : Nat} (hy : (decodeIeee f b).isNan = true) :
    ldexpOut rm f a b = (canonNan f, if (decodeIeee f a).isSnan || (decodeIeee f b).isSnan then fNV else 0) := by
  obtain ⟨q, hq⟩ := Num.isNan_iff.mp hy
  rw [← sigFlag_pair]
  simp only [ldexpOut, hq]

/-- The scales ∞ and -∞. -/
theorem ldexpOut_inf_right (rm : Rm) {f a b : Nat} {n : Bool} (hy : decodeIeee f b = .inf n) :
    ((decodeIeee f a).isNan = true → ldexpOut rm f a b =
      ((if n then 0 else ieeeInf f false), if (decodeIeee f a).isSnan || (decodeIeee f b).isSnan then fNV else 0)) ∧
    (∀ k, decodeIeee f a = .inf k → ldexpOut rm f a b = if n then (canonNan f, fNV) else (ieeeInf f k, 0)) ∧
    (∀ k e, decodeIeee f a = .fin k 0 e → ldexpOut rm f a b = if n then ((if k then signBit f else 0), 0) else (canonNan f, fNV)) ∧
    (∀ k m e, decodeIeee f a = .fin k m e → m ≠ 0 → ldexpOut rm f a b = if n then ((if k then signBit f else 0), 0) else (ieeeInf f k, 0)) := by
  refine ⟨fun hx => ?_, fun k hx => ?_, fun k e hx => ?_, fun k m e hx hm => ?_⟩
  · obtain ⟨q, hq⟩ := Num.isNan_iff.mp hx
    rw [← sigFlag_pair]
    simp only [ldexpOut, hq, hy]
  · simp [ldexpOut, hx, hy, sigFlag_pair, Num.isSnan, Num.neg?]
  · simp [ldexpOut, hx, hy, sigFlag_pair, Num.isSnan, Num.neg?]
  · simp [ldexpOut, hx, hy, hm, sigFlag_pair, Num.isSnan, Num.neg?]

/-- A finite scale of a NaN, an infinity and a zero. -/
theorem ldexpOut_fin_right (rm : Rm) {f a b : Nat} {l : Bool} {j : Nat} {g : Int} (hy : decodeIeee f b = .fin l j g) :
    ((decodeIeee f a).isNan = true → ldexpOut rm f a b = (canonNan f, if (decodeIeee f a).isSnan || (decodeIeee f b).isSnan then fNV else 0)) ∧
    (∀ k, decodeIeee f a = .inf k → ldexpOut rm f a b = (a, 0)) ∧ (∀ k e, decodeIeee f a = .fin k 0 e → ldexpOut rm f a b = (a, 0)) := by
  refine ⟨fun hx => ?_, fun k hx => ?_, fun k e hx => ?_⟩
  · obtain ⟨q, hq⟩ := Num.isNan_iff.mp hx
    rw [← sigFlag_pair]
    simp only [ldexpOut, hq, hy]
  · simp [ldexpOut, hx, hy, sigFlag_pair, Num.isSnan]
  · simp [ldexpOut, hx, hy, sigFlag_pair, Num.isSnan]

/-! ## NaN, zeros, infinities and negative numbers -/

/-- A NaN gives the canonical NaN, with NV where it signals. -/
theorem functions_of_nan (rm : Rm) {f a : Nat} (hx : (decodeIeee f a).isNan = true) :
    ∀ r ∈ [integralOut true rm f a, exp2Out f a, getexpOut f a, getmantOut f a, rcpOut rm f a, rsqOut rm f a, log2Out f a],
      r = (canonNan f, if (decodeIeee f a).isSnan then fNV else 0) := by
  obtain ⟨q, hq⟩ := Num.isNan_iff.mp hx
  simp [integralOut, exp2Out, getexpOut, getmantOut, rcpOut, rsqOut, log2Out, hq, Num.isSnan, flagIf]

theorem functions_of_inf (rm : Rm) {f a : Nat} {n : Bool} (hx : decodeIeee f a = .inf n) :
    integralOut true rm f a = (a, 0) ∧ exp2Out f a = (canonNan f, fNV) ∧ getexpOut f a = (ieeeInf f false, 0) ∧ getmantOut f a = (canonNan f, fNV) ∧
      rcpOut rm f a = ((if n then signBit f else 0), 0) ∧ rsqOut rm f a = (if n then (canonNan f, fNV) else (0, 0)) ∧ log2Out f a = (canonNan f, fNV) := by
  simp [integralOut, exp2Out, getexpOut, getmantOut, rcpOut, rsqOut, log2Out, hx]

theorem functions_of_negative (rm : Rm) {f a : Nat} {m : Nat} {e : Int} (hx : decodeIeee f a = .fin true m e) (hm : m ≠ 0) :
    rsqOut rm f a = (canonNan f, fNV) ∧ log2Out f a = (canonNan f, fNV) := by
  simp [rsqOut, log2Out, hx, hm]

section

variable {f : Nat} (hf : f ∈ [7, 8, 9])
include hf

/-- 2^0 is 1, exactly. -/
theorem exp2Out_zero {a : Nat} {n : Bool} {e : Int} (hx : decodeIeee f a = .fin n 0 e) :
    (exp2Out f a).2 = 0 ∧ ratOf (decodeIeee f (exp2Out f a).1) = 1 := by
  obtain ⟨hbias, -⟩ := ieee_bounds hf
  have hhi : ((1 : Nat) : ℚ) * 2 ^ (0 : Int) < 2 ^ ieeeBias f := by
    rw [Nat.cast_one, one_mul]
    exact zpow_lt_zpow_right₀ one_lt_two (by omega)
  obtain ⟨-, hval, -⟩ := encodeFloat_exact hf .rne false (Nat.one_lt_two_pow (Nat.succ_ne_zero _)) (show 1 - ieeeBias f - fracBits f ≤ 0 by omega) hhi
  have hout : exp2Out f a = ((encodeFloat f .rne (.fin false 1 0)).1, 0) := by
    rw [encodeFloat_ieee hf]
    simp [exp2Out, hx]
  rw [hout, hval, ratOf_fin_false]
  norm_num

/-- The zeros: FRINT and FGETMANT keep them, the others' tables (R131 to R137). -/
theorem functions_of_zero (rm : Rm) {a : Nat} (ha : a < 2 ^ laneBits f) (hx : (decodeIeee f a).isZero = true) :
    getexpOut f a = (ieeeInf f true, fDZ) ∧ getmantOut f a = (a, 0) ∧ rcpOut rm f a = (ieeeInf f (decodeIeee f a).neg?, fDZ) ∧
      rsqOut rm f a = (ieeeInf f (decodeIeee f a).neg?, fDZ) ∧ log2Out f a = (canonNan f, fNV) ∧
      (exp2Out f a).2 = 0 ∧ ratOf (decodeIeee f (exp2Out f a).1) = 1 ∧ integralOut true rm f a = (a, 0) := by
  obtain ⟨n, e, hx⟩ : ∃ n e, decodeIeee f a = .fin n 0 e := by
    generalize decodeIeee f a = x at hx
    cases x with
    | fin n m e => exact ⟨n, e, by rw [show m = 0 by simpa [Num.isZero] using hx]⟩
    | nan q => cases hx
    | inf n => cases hx
  obtain ⟨hflag, hval⟩ := exp2Out_zero hf hx
  obtain ⟨c, hc, hac, hmc, -⟩ := exists_finite_code hf ha hx
  have hc0 : c = 0 := by
    rw [mantOf] at hmc
    have := Nat.two_pow_pos (fracBits f)
    split at hmc <;> omega
  refine ⟨?_, ?_, ?_, ?_, ?_, hflag, hval, ?_⟩
  · simp [getexpOut, hx]
  · simp [getmantOut, hx]
  · simp [rcpOut, hx, Num.neg?]
  · simp [rsqOut, hx, Num.neg?]
  · simp [log2Out, hx]
  · have hr : roundTo rm n 0 e 0 = (0, false) := by
      rw [roundTo]
      split
      · rw [Nat.zero_shiftLeft]
      · simp [shiftRound]
    have henc : encodeIeee f .rne n 0 0 = (a, 0) := by
      rw [hac, hc0, ← encodeFloat_ieee hf]
      exact encodeFloat_of_eq hf .rne n (infCode_pos f) (by rw [magOf_zero, Nat.cast_zero, zero_mul])
    simp [integralOut, hx, hr, henc, flagIf]

end

end Sys2Proof.Machine
end

section
/-! SUPPORT. The fixed-point logarithm and exponential against the real ones (R132, R137), in units of 2^-192: each floor loses less than a unit, so a sum of k terms is off
by a few units for each. -/

namespace Sys2Proof.Machine

open Sys2Proof.Safety

/-! ## Units and floors -/

/-- 1 in units of 2^-192. -/
def fixOne : ℝ := (2 ^ 192 : Nat)

theorem fixOne_large : (2 : ℝ) ^ 100 ≤ fixOne := by norm_num [fixOne]

theorem fixOne_pos : 0 < fixOne := lt_of_lt_of_le (by norm_num) fixOne_large

theorem cast_div_bounds (a : Nat) {b : Nat} (hb : 0 < b) : ((a / b : Nat) : ℝ) ≤ a / b ∧ (a : ℝ) / b < (a / b : Nat) + 1 := by
  refine ⟨Nat.cast_div_le, ?_⟩
  rw [div_lt_iff₀ (by exact_mod_cast hb)]
  exact_mod_cast (Nat.div_lt_iff_lt_mul hb).mp (Nat.lt_succ_self (a / b))

theorem abs_cast_div_sub_le (a : Nat) {b : Nat} (hb : 0 < b) : |((a / b : Nat) : ℝ) - a / b| ≤ 1 := by
  obtain ⟨h1, h2⟩ := cast_div_bounds a hb
  rw [abs_le]
  constructor <;> linarith

theorem abs_intCast_div_sub_le (a : Int) {b : Int} (hb : 0 < b) : |((a / b : Int) : ℝ) - a / b| ≤ 1 := by
  have hb' : (0 : ℝ) < b := by exact_mod_cast hb
  have hval : (a : ℝ) = b * (a / b : Int) + (a % b : Int) := by exact_mod_cast (Int.mul_ediv_add_emod a b).symm
  have h0 : (0 : ℝ) ≤ (a % b : Int) := by exact_mod_cast Int.emod_nonneg a hb.ne'
  have h1 : ((a % b : Int) : ℝ) < b := by exact_mod_cast Int.emod_lt_of_pos a hb
  have hquot : ((a / b : Int) : ℝ) - a / b = -((a % b : Int) / b) := by
    rw [hval]
    field_simp
    ring
  rw [hquot, abs_neg, abs_of_nonneg (div_nonneg h0 hb'.le), div_le_one hb']
  exact h1.le

/-! ## The series of the logarithm -/

section

variable {Z : ℝ} (h0 : 0 ≤ Z) (h1 : Z ≤ 1 / 3) {z2 : Nat} (hz2 : |(z2 : ℝ) - fixOne * Z ^ 2| ≤ 3)
include h0 h1 hz2

/-- The next odd power. -/
theorem next_power_near {j p : Nat} (hp : |(p : ℝ) - fixOne * Z ^ (2 * j + 1)| ≤ 4) :
    |((p * z2 / 2 ^ 192 : Nat) : ℝ) - fixOne * Z ^ (2 * (j + 1) + 1)| ≤ 4 := by
  have hS := fixOne_pos
  have hfloor := abs_cast_div_sub_le (p * z2) (Nat.two_pow_pos 192)
  rw [← fixOne, Nat.cast_mul] at hfloor
  have hpow : Z ^ (2 * j + 1) ≤ 1 / 3 := (pow_le_of_le_one h0 (by linarith) (by omega)).trans h1
  have hpow0 : 0 ≤ Z ^ (2 * j + 1) := pow_nonneg h0 _
  have hsq : Z ^ 2 ≤ 1 / 9 := by nlinarith
  have hz2S : (z2 : ℝ) / fixOne ≤ 1 / 4 := by
    rw [div_le_iff₀ hS]
    nlinarith [(abs_le.mp hz2).2, fixOne_large]
  have hsplit : (p : ℝ) * z2 / fixOne - fixOne * Z ^ (2 * (j + 1) + 1) =
      (p - fixOne * Z ^ (2 * j + 1)) * (z2 / fixOne) + Z ^ (2 * j + 1) * (z2 - fixOne * Z ^ 2) := by
    rw [show 2 * (j + 1) + 1 = 2 * j + 1 + 2 by ring, pow_add]
    field_simp
    ring
  have hfirst : |((p : ℝ) - fixOne * Z ^ (2 * j + 1)) * (z2 / fixOne)| ≤ 4 * (1 / 4) := by
    rw [abs_mul, abs_of_nonneg (div_nonneg (Nat.cast_nonneg z2) hS.le)]
    gcongr
  have hsecond : |Z ^ (2 * j + 1) * ((z2 : ℝ) - fixOne * Z ^ 2)| ≤ 1 / 3 * 3 := by
    rw [abs_mul, abs_of_nonneg hpow0]
    gcongr
  calc |((p * z2 / 2 ^ 192 : Nat) : ℝ) - fixOne * Z ^ (2 * (j + 1) + 1)|
      ≤ |((p * z2 / 2 ^ 192 : Nat) : ℝ) - p * z2 / fixOne| + |(p : ℝ) * z2 / fixOne - fixOne * Z ^ (2 * (j + 1) + 1)| := abs_sub_le _ _ _
    _ ≤ 1 + (4 * (1 / 4) + 1 / 3 * 3) := by
      rw [hsplit]
      exact add_le_add hfloor ((abs_add_le _ _).trans (add_le_add hfirst hsecond))
    _ ≤ 4 := by norm_num

/-- The sum is within five units for each term of the series of artanh Z. -/
theorem atanhSeries_near (k : Nat) : ∀ j p : Nat, |(p : ℝ) - fixOne * Z ^ (2 * j + 1)| ≤ 4 →
    |(atanhSeries z2 p (2 * j + 1) k : ℝ) - fixOne * ∑ i ∈ Finset.range k, Z ^ (2 * (j + i) + 1) / ((2 * (j + i) + 1 : Nat) : ℝ)| ≤ 5 * k := by
  induction k with
  | zero => intro j p _; simp [atanhSeries]
  | succ k ih =>
    intro j p hp
    have hrest := ih (j + 1) _ (next_power_near h0 h1 hz2 hp)
    have hn : (0 : ℝ) < (2 * j + 1 : Nat) := by positivity
    have hterm : |((p / (2 * j + 1) : Nat) : ℝ) - fixOne * (Z ^ (2 * j + 1) / (2 * j + 1 : Nat))| ≤ 5 := by
      have hfloor := abs_cast_div_sub_le p (Nat.succ_pos (2 * j))
      have hquot : |(p : ℝ) / (2 * j + 1 : Nat) - fixOne * (Z ^ (2 * j + 1) / (2 * j + 1 : Nat))| ≤ 4 := by
        rw [← mul_div_assoc, ← sub_div, abs_div, abs_of_pos hn, div_le_iff₀ hn]
        refine hp.trans (le_mul_of_one_le_right (by norm_num) ?_)
        exact_mod_cast Nat.succ_pos (2 * j)
      linarith [abs_sub_le ((p / (2 * j + 1) : Nat) : ℝ) (p / (2 * j + 1 : Nat)) (fixOne * (Z ^ (2 * j + 1) / (2 * j + 1 : Nat)))]
    have hsum : ∑ i ∈ Finset.range k, Z ^ (2 * (j + (i + 1)) + 1) / ((2 * (j + (i + 1)) + 1 : Nat) : ℝ) =
        ∑ i ∈ Finset.range k, Z ^ (2 * (j + 1 + i) + 1) / ((2 * (j + 1 + i) + 1 : Nat) : ℝ) :=
      Finset.sum_congr rfl fun i _ => by rw [show j + (i + 1) = j + 1 + i by ring]
    rw [Finset.sum_range_succ', hsum, atanhSeries, mul_add]
    generalize ∑ i ∈ Finset.range k, Z ^ (2 * (j + 1 + i) + 1) / ((2 * (j + 1 + i) + 1 : Nat) : ℝ) = R at hrest ⊢
    rw [show 2 * (j + 1) + 1 = 2 * j + 1 + 2 by ring] at hrest
    rw [abs_le] at hrest hterm ⊢
    push_cast at hrest hterm ⊢
    simp only [add_zero]
    constructor <;> linarith [hrest.1, hrest.2, hterm.1, hterm.2]

end

/-- The argument of the series and its square, in units. -/
theorem lnArg_near {u v : Nat} (huv : u ≤ v) (hv : 0 < v) :
    let z : Nat := u * 2 ^ 192 / v
    |(z : ℝ) - fixOne * ((u : ℝ) / v)| ≤ 1 ∧ |((z * z / 2 ^ 192 : Nat) : ℝ) - fixOne * ((u : ℝ) / v) ^ 2| ≤ 3 := by
  intro z
  have hS := fixOne_pos
  have hv' : (0 : ℝ) < v := by exact_mod_cast hv
  have hZ1 : (u : ℝ) / v ≤ 1 := (div_le_one hv').mpr (by exact_mod_cast huv)
  have hZ0 : (0 : ℝ) ≤ u / v := by positivity
  obtain ⟨h1, h2⟩ := cast_div_bounds (u * 2 ^ 192) hv
  rw [show ((u * 2 ^ 192 : Nat) : ℝ) / v = fixOne * (u / v) by rw [Nat.cast_mul, ← fixOne, mul_comm, mul_div_assoc]] at h1 h2
  obtain ⟨h3, h4⟩ := cast_div_bounds (z * z) (Nat.two_pow_pos 192)
  rw [← fixOne, Nat.cast_mul] at h3 h4
  change (z : ℝ) ≤ _ at h1
  change _ < (z : ℝ) + 1 at h2
  generalize (u : ℝ) / v = Z at *
  have hz0 : (0 : ℝ) ≤ z := Nat.cast_nonneg z
  have hup : (z : ℝ) * z / fixOne ≤ fixOne * Z ^ 2 := by
    rw [div_le_iff₀ hS]
    nlinarith [mul_le_mul h1 h1 hz0 (by positivity)]
  have hdown : fixOne * Z ^ 2 - 2 ≤ z * z / fixOne := by
    rw [le_div_iff₀ hS]
    nlinarith [mul_nonneg hS.le hZ0]
  rw [abs_le, abs_le]
  refine ⟨⟨?_, ?_⟩, ?_, ?_⟩ <;> linarith

/-- 64 terms of the series of artanh Z give half the logarithm to a unit. -/
theorem artanh_tail {Z : ℝ} (h0 : 0 ≤ Z) (h1 : Z ≤ 1 / 3) :
    |fixOne * (1 / 2 * Real.log ((1 + Z) / (1 - Z))) - fixOne * ∑ i ∈ Finset.range 64, Z ^ (2 * i + 1) / (2 * (i : ℝ) + 1)| ≤ 1 := by
  have hS := fixOne_pos
  have htail := Real.sum_range_sub_log_div_le (show |Z| < 1 by rw [abs_of_nonneg h0]; linarith) 64
  have hden : (8 / 9 : ℝ) ≤ 1 - Z ^ 2 := by nlinarith
  have hnum : |Z| ^ (2 * 64 + 1) ≤ (1 / 3) ^ (2 * 64 + 1) := by
    rw [abs_of_nonneg h0]
    gcongr
  rw [← mul_sub, abs_mul, abs_of_pos hS]
  calc _ ≤ fixOne * (|Z| ^ (2 * 64 + 1) / (1 - Z ^ 2)) := mul_le_mul_of_nonneg_left htail hS.le
    _ ≤ fixOne * ((1 / 3) ^ (2 * 64 + 1) / (8 / 9)) := by gcongr
    _ ≤ 1 := by norm_num [fixOne]

/-- The fixed-point logarithm of m / 2^k, between 1 and 2, is within 700 units. -/
theorem lnFix_near {m k : Nat} (hlo : 2 ^ k ≤ m) (hhi : m ≤ 2 ^ (k + 1)) : |(lnFix m k : ℝ) - fixOne * Real.log (m / 2 ^ k)| ≤ 700 := by
  have hk := Nat.two_pow_pos k
  rw [Nat.pow_succ'] at hhi
  have hk' : (0 : ℝ) < 2 ^ k := by positivity
  obtain ⟨hz, hz2⟩ := lnArg_near (show m - 2 ^ k ≤ m + 2 ^ k by omega) (show 0 < m + 2 ^ k by omega)
  generalize hZ : ((m - 2 ^ k : Nat) : ℝ) / (m + 2 ^ k : Nat) = Z at hz hz2
  have hm0 : (0 : ℝ) ≤ m := Nat.cast_nonneg m
  rw [Nat.cast_sub hlo, Nat.cast_add, Nat.cast_pow, Nat.cast_ofNat] at hZ
  have hlo' : (2 : ℝ) ^ k ≤ m := by exact_mod_cast hlo
  have hhi' : (m : ℝ) ≤ 2 * 2 ^ k := by exact_mod_cast hhi
  have h0 : 0 ≤ Z := hZ ▸ div_nonneg (by linarith) (by linarith)
  have h1 : Z ≤ 1 / 3 := by
    rw [← hZ, div_le_iff₀ (by linarith)]
    linarith
  have hquot : (1 + Z) / (1 - Z) = m / 2 ^ k := by
    rw [div_eq_div_iff (by linarith) hk'.ne', ← hZ]
    field_simp
    ring
  have htail := artanh_tail h0 h1
  rw [hquot] at htail
  have hseries := atanhSeries_near h0 h1 hz2 64 0 _ (by rw [mul_zero, zero_add, pow_one]; exact hz.trans (show (1 : ℝ) ≤ 4 by norm_num))
  have hsum : ∑ i ∈ Finset.range 64, Z ^ (2 * (0 + i) + 1) / ((2 * (0 + i) + 1 : Nat) : ℝ) = ∑ i ∈ Finset.range 64, Z ^ (2 * i + 1) / (2 * (i : ℝ) + 1) :=
    Finset.sum_congr rfl fun i _ => by rw [Nat.zero_add]; push_cast; rfl
  rw [hsum] at hseries
  have hout : lnFix m k = 2 * atanhSeries ((m - 2 ^ k) * 2 ^ 192 / (m + 2 ^ k) * ((m - 2 ^ k) * 2 ^ 192 / (m + 2 ^ k)) / 2 ^ 192)
      ((m - 2 ^ k) * 2 ^ 192 / (m + 2 ^ k)) (2 * 0 + 1) 64 := rfl
  rw [hout, Nat.cast_mul]
  generalize fixOne * ∑ i ∈ Finset.range 64, Z ^ (2 * i + 1) / (2 * (i : ℝ) + 1) = R at hseries htail
  rw [abs_le] at hseries htail ⊢
  push_cast at hseries
  constructor <;> linarith [hseries.1, hseries.2, htail.1, htail.2]

end Sys2Proof.Machine
end

section
/-! SUPPORT. FEXP2F and FLOG2F (R132, R137): ln 2 and the exponential in fixed point, and the rounding of an approximation with a lowest bit for what is left. -/

namespace Sys2Proof.Machine

open Sys2Proof.Safety

/-! ## ln 2 and the exponential -/

theorem ln2Fix_lnFix : ln2Fix ≤ lnFix 2 0 + 100 ∧ lnFix 2 0 ≤ ln2Fix + 100 := by decide +kernel

theorem ln2Fix_near : |(ln2Fix : ℝ) - fixOne * Real.log 2| ≤ 800 := by
  have h := lnFix_near (m := 2) (k := 0) (by norm_num) (by norm_num)
  obtain ⟨h1, h2⟩ := ln2Fix_lnFix
  have h1' : (ln2Fix : ℝ) ≤ lnFix 2 0 + 100 := by exact_mod_cast h1
  have h2' : (lnFix 2 0 : ℝ) ≤ ln2Fix + 100 := by exact_mod_cast h2
  rw [Nat.cast_ofNat, pow_zero, div_one] at h
  rw [abs_le] at h ⊢
  constructor <;> linarith [h.1, h.2]

section

variable {x : Int} {X : ℝ} (hxX : (x : ℝ) = fixOne * X) (hX : |X| ≤ 1 / 2)
include hxX hX

/-- The next term of the exponential series. -/
theorem next_term_near {t : Int} {n : Nat} (ht : |(t : ℝ) - fixOne * (X ^ n / n.factorial)| ≤ 2) :
    |((t * x / ((2 ^ 192 : Nat) * (n + 1)) : Int) : ℝ) - fixOne * (X ^ (n + 1) / (n + 1).factorial)| ≤ 2 := by
  have hS := fixOne_pos
  have hn : (0 : ℝ) < n + 1 := by positivity
  have hfloor := abs_intCast_div_sub_le (t * x) (b := (2 ^ 192 : Nat) * (n + 1)) (by positivity)
  have hden : (((2 ^ 192 : Nat) * (n + 1) : Int) : ℝ) = fixOne * (n + 1) := by rw [fixOne]; push_cast; rfl
  have hval : ((t * x : Int) : ℝ) / (((2 ^ 192 : Nat) * (n + 1) : Int) : ℝ) = t * (X / (n + 1)) := by
    rw [hden, Int.cast_mul, hxX]
    field_simp
  have hstep : |(t : ℝ) * (X / (n + 1)) - fixOne * (X ^ (n + 1) / (n + 1).factorial)| ≤ 1 := by
    have hsplit : (t : ℝ) * (X / (n + 1)) - fixOne * (X ^ (n + 1) / (n + 1).factorial) = (t - fixOne * (X ^ n / n.factorial)) * (X / (n + 1)) := by
      rw [Nat.factorial_succ, pow_succ]
      push_cast
      field_simp
    have hfrac : |X / (n + 1)| ≤ 1 / 2 := by
      rw [abs_div, abs_of_pos hn]
      refine (div_le_self (abs_nonneg X) ?_).trans hX
      linarith [show (0 : ℝ) ≤ n from Nat.cast_nonneg n]
    rw [hsplit, abs_mul]
    calc _ ≤ 2 * (1 / 2 : ℝ) := by gcongr
      _ = 1 := by norm_num
  rw [hval] at hfloor
  linarith [abs_sub_le ((t * x / ((2 ^ 192 : Nat) * (n + 1)) : Int) : ℝ) (t * (X / (n + 1))) (fixOne * (X ^ (n + 1) / (n + 1).factorial))]

theorem expSeries_near (k : Nat) : ∀ (n : Nat) (t : Int), |(t : ℝ) - fixOne * (X ^ n / n.factorial)| ≤ 2 →
    |(expSeries x t n k : ℝ) - fixOne * ∑ i ∈ Finset.range (k + 1), X ^ (n + i) / ((n + i).factorial : ℝ)| ≤ 2 * (k + 1) := by
  induction k with
  | zero =>
    intro n t ht
    rw [Finset.sum_range_one, Nat.add_zero, expSeries]
    simpa using ht
  | succ k ih =>
    intro n t ht
    have hrest := ih (n + 1) _ (next_term_near hxX hX ht)
    have hsum : ∑ i ∈ Finset.range (k + 1), X ^ (n + (i + 1)) / ((n + (i + 1)).factorial : ℝ) =
        ∑ i ∈ Finset.range (k + 1), X ^ (n + 1 + i) / ((n + 1 + i).factorial : ℝ) :=
      Finset.sum_congr rfl fun i _ => by rw [show n + (i + 1) = n + 1 + i by ring]
    rw [Finset.sum_range_succ', hsum, expSeries, mul_add fixOne]
    generalize ∑ i ∈ Finset.range (k + 1), X ^ (n + 1 + i) / ((n + 1 + i).factorial : ℝ) = R at hrest ⊢
    generalize expSeries x (t * x / ((2 ^ 192 : Nat) * (n + 1))) (n + 1) k = r at hrest ⊢
    rw [abs_le] at hrest ht ⊢
    push_cast at hrest ht ⊢
    simp only [Nat.add_zero]
    constructor <;> linarith [hrest.1, hrest.2, ht.1, ht.2]

/-- The fixed-point exponential is within 99 units. -/
theorem expFix_near : |(expFix x : ℝ) - fixOne * Real.exp X| ≤ 99 := by
  have hS := fixOne_pos
  have hseries := expSeries_near hxX hX 48 0 (2 ^ 192 : Nat) (by simp [fixOne])
  have htail := Real.exp_bound (hX.trans (by norm_num)) (show 0 < 49 by norm_num)
  have htail' : |fixOne * Real.exp X - fixOne * ∑ i ∈ Finset.range 49, X ^ i / (i.factorial : ℝ)| ≤ 1 := by
    rw [← mul_sub, abs_mul, abs_of_pos hS]
    calc _ ≤ fixOne * (|X| ^ 49 * ((49 : Nat).succ / ((49 : Nat).factorial * (49 : Nat)))) := mul_le_mul_of_nonneg_left htail hS.le
      _ ≤ fixOne * ((1 / 2) ^ 49 * ((49 : Nat).succ / ((49 : Nat).factorial * (49 : Nat)))) := by gcongr
      _ ≤ 1 := by norm_num [fixOne, Nat.factorial]
  have hsum : ∑ i ∈ Finset.range (48 + 1), X ^ (0 + i) / ((0 + i).factorial : ℝ) = ∑ i ∈ Finset.range 49, X ^ i / (i.factorial : ℝ) :=
    Finset.sum_congr rfl fun i _ => by rw [Nat.zero_add]
  rw [hsum] at hseries
  change |(expFix x : ℝ) - _| ≤ _ at hseries
  generalize fixOne * ∑ i ∈ Finset.range 49, X ^ i / (i.factorial : ℝ) = R at hseries htail'
  rw [abs_le] at hseries htail' ⊢
  push_cast at hseries
  constructor <;> linarith [hseries.1, hseries.2, htail'.1, htail'.2]

end

/-- The argument of the exponential need only be near. -/
theorem exp_near {X Y d : ℝ} (hY : Real.exp Y ≤ 2) (hd : |X - Y| ≤ d) (hd1 : d ≤ 1) : |Real.exp X - Real.exp Y| ≤ 4 * d := by
  have h := Real.abs_exp_sub_one_le (hd.trans hd1)
  have hsplit : Real.exp X - Real.exp Y = Real.exp Y * (Real.exp (X - Y) - 1) := by
    rw [mul_sub, ← Real.exp_add, mul_one]
    ring_nf
  rw [hsplit, abs_mul, abs_of_pos (Real.exp_pos Y)]
  calc _ ≤ 2 * (2 * |X - Y|) := mul_le_mul hY h (abs_nonneg _) (by norm_num)
    _ ≤ 4 * d := by linarith

/-! ## A rounding of an approximation -/

theorem ratOf_sticky (N : Nat) : ((ratOf (sticky false N) : ℚ) : ℝ) = (N + 1 / 2) / fixOne := by
  rw [sticky, ratOf_fin_false, fixOne]
  push_cast
  rw [show (-193 : Int) = -((193 : Nat) : Int) by norm_num, zpow_neg, zpow_natCast, show (2 : ℝ) ^ 193 = 2 ^ 192 * 2 from pow_succ _ _]
  field_simp
  norm_num

/-- A few units are far less than 2^-150. -/
theorem sticky_near {N : Nat} {v : ℝ} (h : |(N : ℝ) - fixOne * v| ≤ 4000) : |((ratOf (sticky false N) : ℚ) : ℝ) - v| ≤ 2 ^ (-150 : Int) := by
  have hS := fixOne_pos
  have hval : (N + 1 / 2) / fixOne - v = ((N : ℝ) - fixOne * v + 1 / 2) / fixOne := by
    field_simp
    ring
  have hunits : (4001 : ℝ) ≤ 2 ^ (-150 : Int) * fixOne := by norm_num [fixOne]
  rw [ratOf_sticky, hval, abs_div, abs_of_pos hS, div_le_iff₀ hS]
  refine ((abs_add_le _ _).trans ?_).trans hunits
  rw [abs_of_pos (show (0 : ℝ) < 1 / 2 by norm_num)]
  linarith

theorem cast_two_zpow (z : Int) : (((2 : ℚ) ^ z : ℚ) : ℝ) = 2 ^ z := by rw [Rat.cast_zpow, Rat.cast_ofNat]

/-- The bounds of a value in the middle of the range hold of what is near it. -/
theorem mid_range_bounds {f : Nat} (hf : f ∈ [7, 8, 9]) {Q v : ℝ} (hq : |Q - v| ≤ 2 ^ (-150 : Int)) (hlo : (2 : ℝ) ^ (-(fracBits f : Int) - 1) ≤ v)
    (hhi : v ≤ 2) : (2 : ℝ) ^ (1 - ieeeBias f) ≤ Q ∧ Q < 2 ^ ieeeBias f := by
  obtain ⟨hbias, -, -, hfb7, hfb, h15⟩ := ieee_bounds hf
  have hhalf : (2 : ℝ) ^ (-150 : Int) ≤ 2 ^ (-(fracBits f : Int) - 1) / 2 := by
    rw [div_eq_mul_inv, ← zpow_sub_one₀ (two_ne_zero' ℝ)]
    exact zpow_le_zpow_right₀ one_le_two (by omega)
  have hlow : (2 : ℝ) ^ (1 - ieeeBias f) ≤ 2 ^ (-(fracBits f : Int) - 1) / 2 := by
    rw [div_eq_mul_inv, ← zpow_sub_one₀ (two_ne_zero' ℝ)]
    exact zpow_le_zpow_right₀ one_le_two (by omega)
  have htop : (4 : ℝ) ≤ 2 ^ ieeeBias f := by
    rw [show (4 : ℝ) = 2 ^ (2 : Int) by norm_num]
    exact zpow_le_zpow_right₀ one_le_two (by omega)
  have hδ : (2 : ℝ) ^ (-150 : Int) ≤ 1 := zpow_le_one_of_nonpos₀ one_le_two (by norm_num)
  generalize (2 : ℝ) ^ (-150 : Int) = δ at *
  rw [abs_le] at hq
  constructor <;> linarith [hq.1, hq.2]

/-- Rounding an approximation of a value in the middle of the range of the normal numbers. -/
theorem encodeFloat_sticky_near {f : Nat} (hf : f ∈ [7, 8, 9]) {N : Nat} {v : ℝ} (hq : |((ratOf (sticky false N) : ℚ) : ℝ) - v| ≤ 2 ^ (-150 : Int))
    (hlo : (2 : ℝ) ^ (-(fracBits f : Int) - 1) ≤ v) (hhi : v ≤ 2) :
    |((ratOf (decodeIeee f (encodeFloat f .rne (sticky false N)).1) : ℚ) : ℝ) - v| ≤ 2 ^ (-(fracBits f : Int) - 1) * |v| + 2 ^ (-149 : Int) := by
  obtain ⟨hloR, hhiR⟩ := mid_range_bounds hf hq hlo hhi
  rw [← cast_two_zpow, Rat.cast_le] at hloR
  rw [← cast_two_zpow, Rat.cast_lt] at hhiR
  have hqval : ratOf (sticky false N) = ((2 * N + 1 : Nat) : ℚ) * 2 ^ (-193 : Int) := ratOf_fin_false ..
  rw [hqval] at hloR hhiR
  obtain ⟨c, hc, hout, hnear⟩ := encodeIeee_rne_near (Nat.succ_ne_zero (2 * N)) false hloR hhiR
  rw [← encodeFloat_ieee hf] at hout
  change (encodeFloat f .rne (sticky false N)).1 = _ at hout
  rw [hout, (ratOf_signPart false hc).1]
  change |magOf f c - ((2 * N + 1 : Nat) : ℚ) * 2 ^ (-193 : Int)| ≤ _ * (((2 * N + 1 : Nat) : ℚ) * 2 ^ (-193 : Int)) at hnear
  rw [← hqval] at hnear
  have hnear' : |((magOf f c : ℚ) : ℝ) - (ratOf (sticky false N) : ℚ)| ≤ 2 ^ (-(fracBits f : Int) - 1) * (ratOf (sticky false N) : ℚ) := by
    rw [← cast_two_zpow]
    exact_mod_cast hnear
  have hv0 : 0 < v := lt_of_lt_of_le (by positivity) hlo
  have hu1 : (2 : ℝ) ^ (-(fracBits f : Int) - 1) ≤ 1 := zpow_le_one_of_nonpos₀ one_le_two (by omega)
  have hu0 : (0 : ℝ) < 2 ^ (-(fracBits f : Int) - 1) := by positivity
  have hδ0 : (0 : ℝ) < 2 ^ (-150 : Int) := by positivity
  rw [show (2 : ℝ) ^ (-149 : Int) = 2 * 2 ^ (-150 : Int) by norm_num, abs_of_pos hv0]
  simp only [Bool.false_eq_true, if_false, one_mul]
  generalize ((ratOf (sticky false N) : ℚ) : ℝ) = Q at hq hnear'
  generalize (2 : ℝ) ^ (-(fracBits f : Int) - 1) = u at *
  generalize (2 : ℝ) ^ (-150 : Int) = δ at *
  rw [abs_le] at hq hnear' ⊢
  have huQ : u * Q ≤ u * v + δ := by nlinarith [hq.2]
  constructor <;> linarith [hnear'.1, hnear'.2, hq.1, hq.2]

end Sys2Proof.Machine
end

section
/-! SUPPORT. FEXP2F and FLOG2F over their ranges and beyond (R132, R137). -/

namespace Sys2Proof.Machine

open Sys2Proof.Safety

/-- A result near v, rounded to nearest once, and within half an ulp of v but for the error of the series. -/
def NearestTo (f : Nat) (out : Nat × Flags) (v : ℝ) : Prop :=
  out.2 = fNX ∧ (∃ q : Machine.Num, out.1 = (encodeFloat f .rne q).1 ∧ |((ratOf q : ℚ) : ℝ) - v| ≤ 2 ^ (-150 : ℤ)) ∧
    |((ratOf (decodeIeee f out.1) : ℚ) : ℝ) - v| ≤ 2 ^ (-(fracBits f : ℤ) - 1) * |v| + 2 ^ (-149 : ℤ)

/-- A fixed-point approximation within a few units, rounded. -/
theorem nearestTo_sticky {f : Nat} (hf : f ∈ [7, 8, 9]) {N : Nat} {v : ℝ} (h : |(N : ℝ) - fixOne * v| ≤ 4000)
    (hlo : (2 : ℝ) ^ (-(fracBits f : Int) - 1) ≤ v) (hhi : v ≤ 2) : NearestTo f ((encodeFloat f .rne (sticky false N)).1, fNX) v :=
  ⟨rfl, ⟨_, rfl, sticky_near h⟩, encodeFloat_sticky_near hf (sticky_near h) hlo hhi⟩

/-! ## FLOG2F -/

/-- The quotient of the fixed-point logarithms is near the logarithm to base 2. -/
theorem log2_quotient_near {m k : Nat} (hlo : 2 ^ k ≤ m) (hhi : m ≤ 2 ^ (k + 1)) :
    |((lnFix m k * 2 ^ 192 / ln2Fix : Nat) : ℝ) - fixOne * Real.logb 2 (m / 2 ^ k)| ≤ 4000 := by
  have hS := fixOne_pos
  have hL := lnFix_near hlo hhi
  have hT := ln2Fix_near
  obtain ⟨hN1, hN2⟩ := cast_div_bounds (lnFix m k * 2 ^ 192) (show 0 < ln2Fix by decide)
  rw [Nat.cast_mul, ← fixOne] at hN1 hN2
  have hk : (0 : ℝ) < 2 ^ k := by positivity
  have h1 : (1 : ℝ) ≤ m / 2 ^ k := by rw [one_le_div hk]; exact_mod_cast hlo
  have h2 : (m : ℝ) / 2 ^ k ≤ 2 := by
    rw [Nat.pow_succ'] at hhi
    rw [div_le_iff₀ hk]
    exact_mod_cast hhi
  have hl0 : 0 ≤ Real.log (m / 2 ^ k) := Real.log_nonneg h1
  have hlt : Real.log (m / 2 ^ k) ≤ Real.log 2 := Real.log_le_log (by linarith) h2
  have ht : (1 / 2 : ℝ) ≤ Real.log 2 := by
    have := Real.one_sub_inv_le_log_of_pos (show (0 : ℝ) < 2 by norm_num)
    norm_num at this ⊢
    linarith
  rw [Real.logb]
  generalize Real.log (m / 2 ^ k) = l at *
  generalize Real.log 2 = t at *
  generalize (lnFix m k : ℝ) = L at *
  generalize ((lnFix m k * 2 ^ 192 / ln2Fix : Nat) : ℝ) = N at *
  have hThalf : fixOne / 2 - 800 ≤ ln2Fix := by nlinarith [(abs_le.mp hT).1]
  have hT0 : (0 : ℝ) < ln2Fix := by linarith [fixOne_large, show (2000 : ℝ) ≤ 2 ^ 100 by norm_num]
  have hTbig : fixOne ≤ 5 / 2 * ln2Fix := by linarith [fixOne_large, show (20000 : ℝ) ≤ 2 ^ 100 by norm_num]
  generalize (ln2Fix : ℝ) = T at *
  have hquot : L * fixOne / T - fixOne * (l / t) = ((L - fixOne * l) * t - l * (T - fixOne * t)) * fixOne / (T * t) := by
    field_simp
    ring
  have hnum : |(L - fixOne * l) * t - l * (T - fixOne * t)| ≤ 1500 * t := by
    refine (abs_sub _ _).trans ?_
    rw [abs_mul, abs_mul, abs_of_nonneg hl0, abs_of_pos (show 0 < t by linarith)]
    nlinarith [mul_le_mul hlt hT (abs_nonneg _) (show 0 ≤ t by linarith)]
  have hmain : |L * fixOne / T - fixOne * (l / t)| ≤ 3750 := by
    have hTt : 0 < T * t := mul_pos hT0 (by linarith)
    rw [hquot, abs_div, abs_of_pos hTt, abs_mul, abs_of_pos hS, div_le_iff₀ hTt]
    calc _ ≤ 1500 * t * (5 / 2 * T) := mul_le_mul hnum hTbig hS.le (by nlinarith)
      _ = 3750 * (T * t) := by ring
  rw [abs_le] at hmain ⊢
  constructor <;> linarith [hmain.1, hmain.2]

/-- Whether the operand lies from 1 to below 2. -/
theorem log2_range_iff (n : Bool) (m : Nat) (e : Int) :
    (1 ≤ ratOf (.fin n m e) ∧ ratOf (.fin n m e) < 2) ↔ (n = false ∧ m ≠ 0 ∧ (Nat.log2 m : Int) + e = 0) := by
  constructor
  · rintro ⟨h1, h2⟩
    have hn : n = false := by
      cases n with
      | false => rfl
      | true =>
        have : (0 : ℚ) ≤ m * 2 ^ e := by positivity
        rw [ratOf_fin, if_pos rfl] at h1
        linarith
    rw [hn, ratOf_fin_false] at h1 h2
    have hm : m ≠ 0 := by
      rintro rfl
      norm_num at h1
    exact ⟨hn, hm, log2_add_eq hm (by simpa using h1) (by simpa using h2)⟩
  · rintro ⟨rfl, hm, hz⟩
    have h1 := two_zpow_log2_le hm e
    have h2 := lt_two_zpow_log2 m e
    rw [hz] at h1 h2
    rw [ratOf_fin_false]
    exact ⟨by simpa using h1, by simpa using h2⟩

section

variable {f a : Nat} {n : Bool} {m : Nat} {e : Int} (hx : decodeIeee f a = .fin n m e)
include hx

theorem log2Out_beyond (h : ratOf (.fin n m e) < 1 ∨ 2 ≤ ratOf (.fin n m e)) : log2Out f a = (canonNan f, fNV) := by
  have hcond : ¬ (n = false ∧ m ≠ 0 ∧ (Nat.log2 m : Int) + e = 0) := by
    rw [← log2_range_iff]
    rintro ⟨h1, h2⟩
    rcases h with h | h <;> linarith
  have : (n || decide (m = 0) || decide ((Nat.log2 m : Int) + e ≠ 0)) = true := by
    by_contra hc
    simp only [Bool.not_eq_true, Bool.or_eq_false_iff, decide_eq_false_iff_not, not_not] at hc
    exact hcond ⟨hc.1.1, hc.1.2, hc.2⟩
  simp only [log2Out, hx]
  exact if_pos this

/-- The operands in range: 1 itself, and those between 1 and 2. -/
theorem log2Out_within (h1 : 1 ≤ ratOf (.fin n m e)) (h2 : ratOf (.fin n m e) < 2) :
    m ≠ 0 ∧ ratOf (.fin n m e) = m / 2 ^ Nat.log2 m ∧ log2Out f a = if m = 2 ^ Nat.log2 m then (0, 0) else
      ((encodeFloat f .rne (sticky false (lnFix m (Nat.log2 m) * 2 ^ 192 / ln2Fix))).1, fNX) := by
  obtain ⟨rfl, hm, hz⟩ := (log2_range_iff n m e).mp ⟨h1, h2⟩
  refine ⟨hm, ?_, ?_⟩
  · rw [ratOf_fin_false, show e = -(Nat.log2 m : Int) by omega, zpow_neg, zpow_natCast, div_eq_mul_inv]
  · simp only [log2Out, hx]
    exact if_neg (by simp [hm, hz])

theorem log2Out_one (h : ratOf (.fin n m e) = 1) : log2Out f a = (0, 0) := by
  obtain ⟨-, hval, hout⟩ := log2Out_within hx h.ge (by rw [h]; norm_num)
  rw [h, eq_div_iff (by positivity), one_mul] at hval
  rw [hout, if_pos (by exact_mod_cast hval.symm)]

end

/-- Between 1 and 2 the logarithm is no smaller than half the last place of 1. -/
theorem logb_bounds {f m k : Nat} (hlo : 2 ^ k < m) (hhi : m < 2 ^ (k + 1)) (hk : k ≤ fracBits f) :
    (2 : ℝ) ^ (-(fracBits f : Int) - 1) ≤ Real.logb 2 (m / 2 ^ k) ∧ Real.logb 2 (m / 2 ^ k) ≤ 2 := by
  have hpow : (0 : ℝ) < 2 ^ k := by positivity
  have hle : (2 : ℝ) ^ k + 1 ≤ m := by exact_mod_cast hlo
  have h1 : 1 + (2 : ℝ) ^ (-(k : Int)) ≤ m / 2 ^ k := by
    rw [le_div_iff₀ hpow, add_mul, zpow_neg, zpow_natCast, inv_mul_cancel₀ hpow.ne', one_mul]
    exact hle
  have h2 : (m : ℝ) / 2 ^ k < 2 := by
    rw [Nat.pow_succ'] at hhi
    rw [div_lt_iff₀ hpow]
    exact_mod_cast hhi
  have hd : (2 : ℝ) ^ (-(fracBits f : Int) - 1) ≤ 2 ^ (-(k : Int)) / 2 := by
    rw [div_eq_mul_inv, ← zpow_sub_one₀ (two_ne_zero' ℝ)]
    exact zpow_le_zpow_right₀ one_le_two (by omega)
  have hd0 : (0 : ℝ) < 2 ^ (-(k : Int)) := by positivity
  generalize (m : ℝ) / 2 ^ k = x at *
  generalize (2 : ℝ) ^ (-(k : Int)) = d at *
  have hx0 : 0 < x := by linarith
  have hlog := Real.one_sub_inv_le_log_of_pos hx0
  have hinv : d / 2 ≤ 1 - x⁻¹ := by
    rw [← one_div, le_sub_iff_add_le, ← le_sub_iff_add_le', div_le_iff₀ hx0]
    nlinarith
  have ht0 : 0 < Real.log 2 := Real.log_pos one_lt_two
  have ht1 : Real.log 2 ≤ 1 := by linarith [Real.log_le_sub_one_of_pos (show (0 : ℝ) < 2 by norm_num)]
  have hl0 : 0 ≤ Real.log x := Real.log_nonneg (by linarith)
  rw [Real.logb]
  constructor
  · exact hd.trans (hinv.trans (hlog.trans (le_div_self hl0 ht0 ht1)))
  · rw [div_le_iff₀ ht0]
    linarith [Real.log_le_log hx0 h2.le]

theorem log2Out_between {f : Nat} (hf : f ∈ [7, 8, 9]) {a : Nat} (ha : a < 2 ^ laneBits f) {n : Bool} {m : Nat} {e : Int}
    (hx : decodeIeee f a = .fin n m e) (h1 : 1 < ratOf (.fin n m e)) (h2 : ratOf (.fin n m e) < 2) :
    NearestTo f (log2Out f a) (Real.logb 2 ((ratOf (.fin n m e) : ℚ) : ℝ)) := by
  obtain ⟨hm, hval, hout⟩ := log2Out_within hx h1.le h2
  obtain ⟨c, -, -, hmc, -⟩ := exists_finite_code hf ha hx
  have hk : Nat.log2 m ≤ fracBits f := Nat.lt_succ_iff.mp ((Nat.log2_lt hm).mpr (hmc ▸ mantOf_lt f c))
  have hne : m ≠ 2 ^ Nat.log2 m := fun h => by
    rw [hval, one_lt_div (by positivity)] at h1
    exact absurd h (by exact_mod_cast h1.ne')
  have hlo : 2 ^ Nat.log2 m < m := lt_of_le_of_ne (Nat.log2_self_le hm) hne.symm
  have hhi : m < 2 ^ (Nat.log2 m + 1) := Nat.lt_log2_self
  rw [hout, if_neg hne, hval]
  push_cast
  obtain ⟨hb1, hb2⟩ := logb_bounds hlo hhi hk
  exact nearestTo_sticky hf (log2_quotient_near hlo.le hhi.le) hb1 hb2

/-! ## FEXP2F -/

theorem exp2Out_beyond {f a : Nat} {n : Bool} {m : Nat} {e : Int} (hx : decodeIeee f a = .fin n m e) (h : 1 / 2 < |ratOf (.fin n m e)|) :
    exp2Out f a = (canonNan f, fNV) := by
  rw [abs_ratOf_fin] at h
  have hm : m ≠ 0 := by
    rintro rfl
    norm_num at h
  have hcmp : (Num.fin false m e).cmp (.fin false 1 (-1)) = .gt := by
    rw [Num.cmp_fin_fin, ratOf_fin_false, ratOf_fin_false, compare_gt_iff_gt]
    norm_num at h ⊢
    exact h
  simp only [exp2Out, hx, if_neg hm, hcmp]
  rfl

/-- The argument of the exponential in units, for an operand of at most a half. -/
def exp2Arg (n : Bool) (m : Nat) (e : Int) : Int :=
  let x : Int := ((m * ln2Fix / 2 ^ (-e).toNat : Nat) : Int)
  if n then -x else x

theorem exp2Out_within {f a : Nat} {n : Bool} {m : Nat} {e : Int} (hx : decodeIeee f a = .fin n m e) (h0 : 0 < |ratOf (.fin n m e)|)
    (h : |ratOf (.fin n m e)| ≤ 1 / 2) : e < 0 ∧ exp2Out f a = ((encodeFloat f .rne (sticky false (expFix (exp2Arg n m e)).toNat)).1, fNX) := by
  rw [abs_ratOf_fin] at h0 h
  have hm : m ≠ 0 := by
    rintro rfl
    norm_num at h0
  have he : e < 0 := by
    by_contra hge
    have h1 : (1 : ℚ) ≤ 2 ^ e := one_le_zpow₀ one_le_two (not_lt.mp hge)
    have h2 : (1 : ℚ) ≤ m := by exact_mod_cast Nat.one_le_iff_ne_zero.mpr hm
    nlinarith
  have hcmp : (Num.fin false m e).cmp (.fin false 1 (-1)) ≠ .gt := by
    rw [Num.cmp_fin_fin, ratOf_fin_false, ratOf_fin_false, Ne, compare_gt_iff_gt]
    norm_num at h ⊢
    exact h
  refine ⟨he, ?_⟩
  simp only [exp2Out, hx, if_neg hm, if_neg (not_le.mpr he)]
  exact if_neg (by simpa using hcmp)

/-- The argument of the exponential is the operand times ln 2, to a few units. -/
theorem exp2Arg_near (n : Bool) (m : Nat) {e : Int} (he : e < 0) (h : |ratOf (.fin n m e)| ≤ 1 / 2) :
    |(exp2Arg n m e : ℝ) - fixOne * (((ratOf (.fin n m e) : ℚ) : ℝ) * Real.log 2)| ≤ 401 := by
  rw [abs_ratOf_fin] at h
  have hT := ln2Fix_near
  have hfloor := abs_cast_div_sub_le (m * ln2Fix) (Nat.two_pow_pos (-e).toNat)
  have hW : ((m : ℚ) * 2 ^ e : ℚ) = ((m : ℝ) / (2 ^ (-e).toNat : Nat) : ℝ) := by
    rw [Rat.cast_mul, cast_two_zpow, Rat.cast_natCast, show e = -((-e).toNat : Int) by omega, zpow_neg, zpow_natCast, div_eq_mul_inv]
    push_cast
    congr 4
    omega
  have hW1 : (((m : ℚ) * 2 ^ e : ℚ) : ℝ) ≤ 1 / 2 := by
    have : (((m : ℚ) * 2 ^ e : ℚ) : ℝ) ≤ ((1 / 2 : ℚ) : ℝ) := Rat.cast_le.mpr h
    norm_num at this ⊢
    exact this
  have hmul : ((m * ln2Fix : Nat) : ℝ) / (2 ^ (-e).toNat : Nat) = ((m : ℝ) / (2 ^ (-e).toNat : Nat)) * ln2Fix := by
    rw [Nat.cast_mul, mul_div_right_comm]
  rw [hmul, ← hW] at hfloor
  have hval : ((ratOf (.fin n m e) : ℚ) : ℝ) = (if n then -1 else 1) * (((m : ℚ) * 2 ^ e : ℚ) : ℝ) := by
    rw [ratOf_fin, Rat.cast_mul]
    cases n <;> norm_num
  have harg : (exp2Arg n m e : ℝ) = (if n then -1 else 1) * ((m * ln2Fix / 2 ^ (-e).toNat : Nat) : ℝ) := by
    rw [exp2Arg]
    cases n
    · simp only [Bool.false_eq_true, if_false, one_mul, Int.cast_natCast]
    · simp only [if_true, neg_one_mul, Int.cast_neg, Int.cast_natCast]
  have hW0 : (0 : ℝ) ≤ (((m : ℚ) * 2 ^ e : ℚ) : ℝ) := by
    rw [hW]
    positivity
  rw [hval, harg]
  generalize ((m * ln2Fix / 2 ^ (-e).toNat : Nat) : ℝ) = x at hfloor ⊢
  generalize (((m : ℚ) * 2 ^ e : ℚ) : ℝ) = W at *
  generalize (ln2Fix : ℝ) = T at *
  generalize Real.log 2 = t at *
  have hsign : (if n then -1 else 1) * x - fixOne * ((if n then -1 else 1) * W * t) = (if n then -1 else 1) * (x - W * T + W * (T - fixOne * t)) := by ring
  have habs : |(if n then -1 else 1 : ℝ)| = 1 := by cases n <;> simp
  rw [hsign, abs_mul, habs, one_mul]
  refine (abs_add_le _ _).trans ?_
  rw [abs_mul, abs_of_nonneg hW0]
  have : W * |T - fixOne * t| ≤ 1 / 2 * 800 := mul_le_mul hW1 hT (abs_nonneg _) (by norm_num)
  linarith

/-- Two to a power of at most a half lies between a half and two. -/
theorem two_rpow_bounds {V : ℝ} (h : |V| ≤ 1 / 2) : 1 / 2 ≤ (2 : ℝ) ^ V ∧ (2 : ℝ) ^ V ≤ 2 := by
  rw [abs_le] at h
  constructor
  · calc (1 / 2 : ℝ) = 2 ^ (-1 : ℝ) := by rw [Real.rpow_neg_one]; norm_num
      _ ≤ 2 ^ V := Real.rpow_le_rpow_of_exponent_le one_le_two (by linarith)
  · calc (2 : ℝ) ^ V ≤ 2 ^ (1 : ℝ) := Real.rpow_le_rpow_of_exponent_le one_le_two (by linarith)
      _ = 2 := Real.rpow_one 2

/-- The fixed-point exponential of an argument near V ln 2. -/
theorem expFix_near_two_rpow {x : Int} {V : ℝ} (hV : |V| ≤ 1 / 2) (hx : |(x : ℝ) - fixOne * (V * Real.log 2)| ≤ 401) :
    |((expFix x).toNat : ℝ) - fixOne * 2 ^ V| ≤ 4000 := by
  have hS := fixOne_pos
  have hbig : (20000 : ℝ) ≤ fixOne := le_trans (by norm_num) fixOne_large
  obtain ⟨hlo, hhi⟩ := two_rpow_bounds hV
  rw [Real.rpow_def_of_pos two_pos, mul_comm (Real.log 2)] at *
  have hd : |(x : ℝ) / fixOne - V * Real.log 2| ≤ 401 / fixOne := by
    have hval : (x : ℝ) / fixOne - V * Real.log 2 = (x - fixOne * (V * Real.log 2)) / fixOne := by field_simp
    rw [hval, abs_div, abs_of_pos hS]
    gcongr
  have hd1 : 401 / fixOne ≤ 1 / 40 := by
    rw [div_le_iff₀ hS]
    linarith
  have hY : |V * Real.log 2| ≤ 1 / 2 * (3 / 4) := by
    rw [abs_mul, abs_of_pos (Real.log_pos one_lt_two)]
    have := Real.log_two_lt_d9
    exact mul_le_mul hV (by linarith) (Real.log_pos one_lt_two).le (by norm_num)
  have hX : |(x : ℝ) / fixOne| ≤ 1 / 2 := by
    have := abs_sub_abs_le_abs_sub ((x : ℝ) / fixOne) (V * Real.log 2)
    linarith
  have hfix := expFix_near (show (x : ℝ) = fixOne * (x / fixOne) by field_simp) hX
  have hexp := exp_near hhi hd (hd1.trans (by norm_num))
  have hscaled : |fixOne * Real.exp (x / fixOne) - fixOne * Real.exp (V * Real.log 2)| ≤ 1604 := by
    rw [← mul_sub, abs_mul, abs_of_pos hS]
    calc _ ≤ fixOne * (4 * (401 / fixOne)) := mul_le_mul_of_nonneg_left hexp hS.le
      _ = 1604 := by field_simp; norm_num
  generalize Real.exp (V * Real.log 2) = y at *
  generalize fixOne * Real.exp (x / fixOne) = z at *
  rw [abs_le] at hfix hscaled
  have hpos : (0 : ℝ) ≤ expFix x := by nlinarith [hfix.1, hscaled.1]
  have hnat : ((expFix x).toNat : ℝ) = expFix x := by exact_mod_cast Int.toNat_of_nonneg (by exact_mod_cast hpos)
  rw [hnat, abs_le]
  constructor <;> linarith [hfix.1, hfix.2, hscaled.1, hscaled.2]

theorem exp2Out_near {f : Nat} (hf : f ∈ [7, 8, 9]) {a : Nat} {n : Bool} {m : Nat} {e : Int} (hx : decodeIeee f a = .fin n m e)
    (h0 : 0 < |ratOf (.fin n m e)|) (h : |ratOf (.fin n m e)| ≤ 1 / 2) :
    NearestTo f (exp2Out f a) ((2 : ℝ) ^ ((ratOf (.fin n m e) : ℚ) : ℝ)) := by
  obtain ⟨he, hout⟩ := exp2Out_within hx h0 h
  have hV : |((ratOf (.fin n m e) : ℚ) : ℝ)| ≤ 1 / 2 := by
    have : ((|ratOf (.fin n m e)| : ℚ) : ℝ) ≤ ((1 / 2 : ℚ) : ℝ) := Rat.cast_le.mpr h
    rw [Rat.cast_abs] at this
    norm_num at this ⊢
    exact this
  obtain ⟨hlo, hhi⟩ := two_rpow_bounds hV
  rw [hout]
  refine nearestTo_sticky hf (expFix_near_two_rpow hV (exp2Arg_near n m he h)) (le_trans ?_ hlo) hhi
  rw [show (1 / 2 : ℝ) = 2 ^ (-1 : Int) by norm_num]
  exact zpow_le_zpow_right₀ one_le_two (by omega)

end Sys2Proof.Machine
end

section
/-! SUPPORT. Float functions at their special operands, in their ranges and over FLDEXP's table (R131 to R137). -/

namespace Sys2Proof.Machine

open Sys2Proof.Safety

section

variable {f : Nat} (hf : f ∈ [7, 8, 9])
include hf

/-- The exponent, the mantissa, the reciprocal and its square root of a finite number that is not zero. -/
theorem functions_of_nonzero (rm : Rm) {a : Nat} (ha : a < 2 ^ laneBits f) {n : Bool} {m : Nat} {e : Int} (hx : decodeIeee f a = .fin n m e) (hm : m ≠ 0) :
    (∃ k : Int, (2 : ℚ) ^ k ≤ |ratOf (.fin n m e)| ∧ |ratOf (.fin n m e)| < 2 ^ (k + 1) ∧
      ratOf (decodeIeee f (getexpOut f a).1) = k ∧ (getexpOut f a).2 = 0 ∧
      ratOf (decodeIeee f (getmantOut f a).1) = ratOf (.fin n m e) * 2 ^ (-k) ∧ (getmantOut f a).2 = 0) ∧
    (∃ q : Machine.Num, rcpOut rm f a = encodeFloat f rm q ∧ |ratOf q * ratOf (.fin n m e) - 1| ≤ 2 ^ (-76 : Int)) ∧
    (n = false → ∃ q : Machine.Num, rsqOut rm f a = encodeFloat f rm q ∧ 0 < ratOf q ∧ |ratOf q ^ 2 * ratOf (.fin n m e) - 1| ≤ 2 ^ (-76 : Int)) := by
  obtain ⟨hexp, hexp0⟩ := getexpOut_fin hf ha hx hm
  obtain ⟨hmant, hmant0⟩ := getmantOut_fin hf ha hx hm
  refine ⟨⟨(Nat.log2 m : Int) + e, ?_, ?_, hexp, hexp0, hmant, hmant0⟩, ⟨recipNum n m e, ?_, recipNum_near n e hm⟩, ?_⟩
  · rw [abs_ratOf_fin]
    exact two_zpow_log2_le hm e
  · rw [abs_ratOf_fin]
    exact lt_two_zpow_log2 m e
  · simp only [rcpOut, hx, if_neg hm]
  · rintro rfl
    refine ⟨rsqrtNum m e, ?_, rsqrtNum_near e hm⟩
    simp [rsqOut, hx, hm]

/-- FEXP2F and FLOG2F of a finite number. -/
theorem exp2Out_log2Out_fin {a : Nat} (ha : a < 2 ^ laneBits f) {n : Bool} {m : Nat} {e : Int} (hx : decodeIeee f a = .fin n m e) :
    (1 / 2 < |ratOf (.fin n m e)| → exp2Out f a = (canonNan f, fNV)) ∧
    (0 < |ratOf (.fin n m e)| → |ratOf (.fin n m e)| ≤ 1 / 2 → NearestTo f (exp2Out f a) ((2 : ℝ) ^ ((ratOf (.fin n m e) : ℚ) : ℝ))) ∧
    (ratOf (.fin n m e) < 1 ∨ 2 ≤ ratOf (.fin n m e) → log2Out f a = (canonNan f, fNV)) ∧ (ratOf (.fin n m e) = 1 → log2Out f a = (0, 0)) ∧
    (1 < ratOf (.fin n m e) → ratOf (.fin n m e) < 2 → NearestTo f (log2Out f a) (Real.logb 2 ((ratOf (.fin n m e) : ℚ) : ℝ))) :=
  ⟨exp2Out_beyond hx, exp2Out_near hf hx, log2Out_beyond hx, log2Out_one hx, log2Out_between hf ha hx⟩

/-- A finite scale (R133). -/
theorem ldexpOut_fin (rm : Rm) {a b : Nat} (ha : a < 2 ^ laneBits f) {l : Bool} {j : Nat} {g : Int} (hy : decodeIeee f b = .fin l j g) :
    ((decodeIeee f a).isNan = true → ldexpOut rm f a b = (canonNan f, if (decodeIeee f a).isSnan || (decodeIeee f b).isSnan then fNV else 0)) ∧
    (∀ k, decodeIeee f a = .inf k → ldexpOut rm f a b = (a, 0)) ∧ (∀ k e, decodeIeee f a = .fin k 0 e → ldexpOut rm f a b = (a, 0)) ∧
    (∀ k m e, decodeIeee f a = .fin k m e → m ≠ 0 → ldexpOut rm f a b =
      encodeFloat f rm (.fin k m (e + if ratOf (decodeIeee f b) < 0 then ⌈ratOf (decodeIeee f b)⌉ else ⌊ratOf (decodeIeee f b)⌋))) := by
  obtain ⟨hnan, hinf, hzero⟩ := ldexpOut_fin_right rm (a := a) hy
  refine ⟨hnan, hinf, hzero, fun k m e hx hm => ?_⟩
  rw [hy]
  exact ldexpOut_fin_fin hf rm ha hx hy hm

end

/-- Settles O29: special operands by the functions' tables, exact results by the values that a format has, the approximations by error bounds on
their fixed-point series, and FLDEXP by what a scale beyond 4096 gives. -/
theorem floatFunctionSpecials : Obligations.FloatFunctionSpecials := by
  unfold Obligations.FloatFunctionSpecials
  intro rm f a b hf ha hb x y nan sig2 zero scaled nearest
  refine ⟨functions_of_nan rm, functions_of_zero hf rm ha, fun n hx => functions_of_inf rm hx, fun m e hx hm => functions_of_negative rm hx hm,
    fun n m e hx => ?_, fun n m e hx => ⟨fun nx => integralOut_fin hf nx rm ha hx, fun hm => ?_⟩, ldexpOut_nan_right rm,
    fun n hy => ldexpOut_inf_right rm hy, fun l j g hy => ldexpOut_fin hf rm ha hy⟩
  · rw [hx]
    exact exp2Out_log2Out_fin hf ha hx
  · rw [hx]
    exact functions_of_nonzero hf rm ha hx hm

end Sys2Proof.Machine
end
